-- ==== Sys2Proof/Word.lean ====
section
/-! DEFINITION. The word types of the module and the coordinates by which commands name its parts (R6, R7). -/

namespace Sys2Proof

abbrev Byte := BitVec 8
abbrev Half := BitVec 16
abbrev Word32 := BitVec 32
abbrev Word := BitVec 64

/-- A register number of an instruction word (R68). -/
abbrev RegNo := BitVec 5

/-- A seat of the module: its logical coach (R14) and its number within the coach (R6). -/
structure SeatRef where
  coach : Fin 96
  seat  : Fin 4
  deriving DecidableEq, Repr

end Sys2Proof
end

