-- ==== Sys2Proof/Syntax.lean ====
section
/-! DEFINITION. The commands of the module: one constructor per row of spec/opcode_table.json, in the table's order, with the
operands that its rule names.  Operand records carry the fields of the instruction words of R68, R115, R143 to R183, R639 to R643. -/

namespace Sys2Proof

abbrev Coach := Fin 96
abbrev Port := Fin 12
abbrev CoupPort := Fin 7
abbrev Stack := Fin 8
abbrev MoverNo := Fin 32
abbrev QueueNo := Fin 16
abbrev RingNo := Fin 256
abbrev FlowNo := BitVec 12

/-- Which unit of an engine's laser pair (R20). -/
inductive LaserUnit where | a | b
  deriving DecidableEq, Repr

/-- The four management paths of R569. -/
inductive Path where | i3c | cxl | mailbox | uart
  deriving DecidableEq, Repr

/-- Scopes of a stop (R430). -/
inductive StopScope where | module | rake | consist
  deriving DecidableEq, Repr

/-- Firmware components of R582 that have slots (R584). -/
inductive FwComp where
  | thonar | microcode | tender
  | memCtl (stack : Stack)
  | dsp (engine : Fin 4)
  deriving DecidableEq, Repr

/-- Immediate forms of R640: classes 0x01 to 0x0B. -/
inductive ImmOp where
  | addi | andi | ori | xori | slli | srli | srai | slti | sltui | shiftin | addpc
  deriving DecidableEq, Repr

/-- Fields of a class 0x1C word (R642). -/
structure SysWord where
  rd  : RegNo
  rs1 : RegNo
  num : BitVec 12
  rsv : BitVec 1
  deriving DecidableEq, Repr

/-- Fields of a class 0x1F FENCE word (R643). -/
structure FenceWord where
  kinds : BitVec 4
  scope : BitVec 2
  rsv   : BitVec 4
  rd    : RegNo
  rs1   : RegNo
  rs2   : RegNo
  deriving DecidableEq, Repr

/-- Fields of a class 0x1F TLBINV word (R643). -/
structure TlbWord where
  form  : BitVec 2
  scope : BitVec 2
  rsv   : BitVec 6
  rd    : RegNo
  rs1   : RegNo
  rs2   : RegNo
  deriving DecidableEq, Repr

/-- Fields of a class 0x1D maintenance word (R264). -/
structure MaintWord where
  rd  : RegNo
  rs1 : RegNo
  rs2 : RegNo
  sw  : Bool
  poc : Bool
  rsv : BitVec 7
  deriving DecidableEq, Repr

/-- Fields of a class 0x1E word (R415). -/
structure CordWord where
  rd  : RegNo
  rs1 : RegNo
  rs2 : RegNo
  b   : Bool
  nb  : Bool
  rsv : BitVec 8
  deriving DecidableEq, Repr

/-- Fields of a vector word (R115). -/
structure VecWord where
  vd  : RegNo
  vs1 : RegNo
  vs2 : RegNo
  pg  : BitVec 4
  zm  : Bool
  ew  : BitVec 2
  deriving DecidableEq, Repr

/-- Integer operations of classes 0x20 and 0x21 (R116). -/
inductive VIntOp where
  | add | sub | and | or | xor | andn | sll | srl | sra | min | max | minu | maxu | mul
  deriving DecidableEq, Repr

/-- Floating-point operations of class 0x22 (R116). -/
inductive VFpOp where | add | sub | mul | min | max
  deriving DecidableEq, Repr

/-- Compares and predicate operations of class 0x24 (R111, R636). -/
inductive VCmpOp where
  | ieq | ine | ilt | ile | iltu | ileu
  | feq | fne | flt | fle
  | pand | por | pxor | pandn
  deriving DecidableEq, Repr

/-- The formats that VCVT converts between (R203, R637). -/
inductive CvtFmt where
  | e2m1 | e4m3 | e5m2 | bf16 | fp32 | fp64 | i8 | i16 | i32 | i64
  deriving DecidableEq, Repr

/-- Reductions of class 0x27 (R137). -/
inductive RedOp where
  | isum | imax | imin | fsum | fmax | fmin
  deriving DecidableEq, Repr

/-- Forms of VMOV (R112, R116). -/
inductive VMovForm where
  | vec | pred | predFromFfr | ffrFromPred | vecToScalar | scalarToVec
  deriving DecidableEq, Repr

/-- Scalar floating-point operations of class 0x2D (R110, R636). -/
inductive SFpOp where
  | add | sub | mul | fma | min | max
  deriving DecidableEq, Repr

/-- Fields of a VRANS word (R132). -/
structure RansWord where
  vd   : RegNo
  xn   : RegNo
  vy   : RegNo
  t    : BitVec 3
  prec : BitVec 3
  deriving DecidableEq, Repr

/-- Fields of TLD and TST (R143, R144). -/
structure TileWord where
  t     : BitVec 3
  g     : Bool
  a     : Bool
  xn    : RegNo
  xm    : RegNo
  fmt   : BitVec 3
  wen   : Bool
  rows  : BitVec 9
  first : BitVec 9
  rb    : BitVec 3
  slot  : BitVec 10
  rsv   : BitVec 5
  deriving DecidableEq, Repr

/-- Fields of TMMA and TMMA.Z (R170, R172). -/
structure MmaWord where
  ts  : BitVec 3
  gs  : Bool
  tw  : BitVec 3
  gw  : Bool
  acc : BitVec 2
  tsc : BitVec 3
  fp  : BitVec 3
  chk : Bool
  so  : BitVec 3
  m   : BitVec 7
  n   : BitVec 9
  kb  : BitVec 7
  sf  : BitVec 4
  wf  : BitVec 4
  rsv : BitVec 4
  deriving DecidableEq, Repr

/-- Fields of TCVT (R182, R183). -/
structure CvtWord where
  td    : BitVec 3
  g     : Bool
  sh    : Bool
  xs    : RegNo
  acc   : BitVec 2
  tsc   : BitVec 3
  fmt   : BitVec 3
  wen   : Bool
  tr    : Bool
  so    : BitVec 3
  rows  : BitVec 7
  cols  : BitVec 7
  c0    : BitVec 7
  first : BitVec 9
  rsv   : BitVec 2
  deriving DecidableEq, Repr

/-- A wrong exact block sum of the array (R189): what the sum of row `row` and streamed column `col` for K block `block` is off by,
±mag × 2^exp; column 128 is the checksum column. -/
structure SumFault where
  row   : Fin 128
  col   : Fin 129
  block : Fin 8
  neg   : Bool
  mag   : Nat
  exp   : Int
  deriving DecidableEq, Repr

/-- Faults of the array itself during one TMMA (R181, R189 to R192): wrong block sums, which the checksum covers; results that go wrong
behind the block sum, which it does not; and rows and columns whose bank reads met an uncorrectable error after the first column
entered. -/
structure ArrayUpset where
  sums    : List SumFault
  flips   : List (Fin 128 × Fin 128 × BitVec 32)
  badRows : List (Fin 128)
  badCols : List (Fin 128)
  deriving DecidableEq, Repr

/-- An uncorrectable error in a coach's data caches or merging write buffer: the line, of host or module memory, and its segments
(R252). -/
structure L1Upset where
  line   : BitVec 43
  host   : Bool
  buffer : Bool
  segs   : BitVec 4
  deriving DecidableEq, Repr

/-- A request of any agent at its line's home slice (R276). -/
inductive LlcReq where
  | hostRead (addr : BitVec 40) (bytes : Fin 65)
  | hostWrite (addr : BitVec 40) (data : List Byte)
  | coachRead (line : BitVec 43)
  | evict (line : BitVec 43)
  deriving DecidableEq, Repr

/-- Stages of an engine's bring-up (R377). -/
inductive BringUp where
  | rails | dsp | lasers | signal | trained | aligned | up
  deriving DecidableEq, Repr

/-- The address spaces in which a register write may land (R598, R605, R611). -/
inductive RegSpace where | bar0 | window
  deriving DecidableEq, Repr

/-- Registers whose low-half read latches the high half (R600). -/
inductive HalfReg where | timeNow | pwrDraw
  deriving DecidableEq, Repr

/-- Statistics counters with a sticky overflow bit (R530, R635). -/
inductive StatRef where
  | watchSlot (slot : Fin 1024) (bit : Fin 5)
  | agreement (coach : Coach) (bit : Fin 3)
  | llcSlice (slice : Fin 64) (bit : Fin 5)
  | stack (stack : Stack) (bit : Fin 6)
  | port (port : Port) (bit : Fin 5)
  | tender (bit : Fin 8)
  | mover (m : MoverNo)
  | cordChannel (c : Fin 64)
  | ringDiscards (r : RingNo)
  | ringLost
  | paceMeter (coach : Coach)
  | timeWindow
  | waybill (bit : Fin 3)
  | sched
  | collective (q : QueueNo)
  | sysId
  -- counters for which R530 lists no unit: wakes, array faults, dead reads and bank errors of a coach; PAUSE and PFC frames and datagrams
  -- dropped at a port; frames that a queue discarded for their generation; corrected and uncorrectable codewords of a pseudo-channel; the
  -- steps of the loss watch
  | coach (coach : Coach) (bit : Fin 4)
  | portDrop (port : Port) (bit : Fin 2)
  | mixedFrames (q : QueueNo)
  | pseudoChannel (pc : Fin 512) (bit : Fin 2)
  | lossSteps
  deriving DecidableEq, Repr

/-- The conditions that fail a consist in probation (R591), coded as in R530. -/
inductive ProbFail where
  | envFault | coachStop | decisionMismatch | port | replayDivergence | noCommit | reset
  deriving DecidableEq, Repr

/-- The header of a Carriage frame (R381). -/
structure FrameHdr where
  type   : Byte
  flags  : Byte
  flow   : FlowNo
  seq    : BitVec 24
  ack    : BitVec 24
  src    : Half
  gen    : Half
  tag    : Word32
  leaf   : Word32
  offset : Word
  deriving DecidableEq, Repr

/-- A frame: its header and its payload codewords, each 32 data bytes and whether it carries a mark (R368, R369). -/
structure Frame where
  hdr     : FrameHdr
  payload : List (BitVec 256 × Bool)
  deriving DecidableEq, Repr

/-- How a frame came through a scale-out port: whether its datagram was marked CE (R395), and how many of its RS(544,514) codewords the
port could not correct (R378). -/
structure FrameRx where
  ce  : Bool
  fec : Nat
  deriving DecidableEq, Repr

/-- How a micro-flit came: whether its sender repeats it (R422), and how many symbols of its slot are in error (R301, R421). -/
structure FlitRx where
  again : Bool
  syms  : Nat
  deriving DecidableEq, Repr

/-- Identity frame of R372: the checked facts, the sender's consist number, its nonce, and its signature, which is empty while the
sender holds no nonce of its partner (row 80 of the log). -/
structure IdFrame where
  position : Fin 8
  port     : CoupPort
  consist  : Word32
  digest   : BitVec 384
  nonce    : BitVec 256
  signed   : List Byte
  deriving DecidableEq, Repr

/-- An environment quantity of R530, code 0x0060, measured by Thonar (R567). -/
inductive EnvQuantity where
  | inputVoltage | coolantInlet | coolantFlow
  deriving DecidableEq, Repr

/-- The 299 commands. -/
inductive Instr where
  | powerOn
  | imageVerifyComplete (comp : FwComp)
  | hostRstAssert
  | hostRstDeassert
  | memoryTrainedReady
  | cxlLinkUp (maxRate : Fin 4) (lanes : Fin 17)
  | cxlLinkDown
  | ideIntegrityFailure (io : Bool)
  | functionLevelReset
  | presentChange (seated : Bool)
  | issueBeat (c : Coach)
  | scalarIntRegOp (sr : SeatRef) (fn : BitVec 11) (rd rs1 rs2 : RegNo)
  | scalarIntImmOp (sr : SeatRef) (op : ImmOp) (rd rs1 : RegNo) (imm : Half)
  | scalarLoad (sr : SeatRef) (signed : Bool) (size : BitVec 2) (off : BitVec 14) (rd rs1 : RegNo)
  | scalarStore (sr : SeatRef) (size : BitVec 2) (off : BitVec 14) (rd rs1 : RegNo)
  | fpLoad (sr : SeatRef) (size : BitVec 2) (off : BitVec 14) (rd rs1 : RegNo)
  | fpStore (sr : SeatRef) (size : BitVec 2) (off : BitVec 14) (rd rs1 : RegNo)
  | ladd (sr : SeatRef) (rd rs1 rs2 : RegNo) (ty : BitVec 3) (rsv : BitVec 8)
  | laddApply (slice : Fin 64)
  | nearMemoryAdd (stack : Stack)
  | branchCond (sr : SeatRef) (cond rs1 : RegNo) (off : Half)
  | jump (sr : SeatRef) (off : BitVec 26)
  | jr (sr : SeatRef) (rd rs1 rs2 : RegNo)
  | call (sr : SeatRef) (off : BitVec 26)
  | callr (sr : SeatRef) (rd rs1 rs2 : RegNo)
  | ret (sr : SeatRef) (rd rs1 rs2 : RegNo)
  | crd (sr : SeatRef) (w : SysWord)
  | cwr (sr : SeatRef) (w : SysWord)
  | cwrSeatcfg (sr : SeatRef) (rs1 : RegNo)
  | cwrTfull (sr : SeatRef) (rs1 : RegNo)
  | cwrPtroot (sr : SeatRef) (rs1 : RegNo)
  | eret (sr : SeatRef) (w : SysWord)
  | sspsetSwitch (sr : SeatRef) (w : SysWord)
  | sspsetUnwind (sr : SeatRef) (w : SysWord)
  | fence (sr : SeatRef) (w : FenceWord)
  | tlbinv (sr : SeatRef) (w : TlbWord)
  | cclean (sr : SeatRef) (w : MaintWord)
  | cinval (sr : SeatRef) (w : MaintWord)
  | cclinv (sr : SeatRef) (w : MaintWord)
  | cdead (sr : SeatRef) (w : MaintWord)
  | cordsig (sr : SeatRef) (w : CordWord)
  | cordwait (sr : SeatRef) (w : CordWord)
  | cordwaitSatisfied (sr : SeatRef)
  | vecIntOp (sr : SeatRef) (op : VIntOp) (w : VecWord)
  | vecFpOp (sr : SeatRef) (op : VFpOp) (w : VecWord)
  | vecFma (sr : SeatRef) (w : VecWord)
  | vecCompare (sr : SeatRef) (op : VCmpOp) (w : VecWord)
  | vcvt (sr : SeatRef) (src dst : CvtFmt) (w : VecWord)
  | vecPermute (sr : SeatRef) (op : BitVec 4) (w : VecWord)
  | vbx (sr : SeatRef) (w : VecWord)
  | vecReduction (sr : SeatRef) (op : RedOp) (w : VecWord)
  | vmov (sr : SeatRef) (form : VMovForm) (w : VecWord)
  | scalarFpOp (sr : SeatRef) (op : SFpOp) (w : VecWord)
  | vld (sr : SeatRef) (w : VecWord)
  | vldff (sr : SeatRef) (w : VecWord)
  | vst (sr : SeatRef) (w : VecWord)
  | vgath (sr : SeatRef) (w : VecWord) (lim : Option (Fin 257))
  | vgathff (sr : SeatRef) (w : VecWord) (lim : Option (Fin 257))
  | vscat (sr : SeatRef) (w : VecWord) (lim : Option (Fin 257))
  | vlut (sr : SeatRef) (w : VecWord)
  | vransSingle (sr : SeatRef) (w : RansWord)
  | vransBlock (sr : SeatRef) (w : RansWord) (lim : Option Half)
  | vectorPipeGate (c : Coach)
  | vectorPipeWake (c : Coach)
  | vectorWakeComplete (c : Coach)
  | tld (sr : SeatRef) (w : TileWord) (lim : Option (Fin 513))
  | tst (sr : SeatRef) (w : TileWord) (lim : Option (Fin 513))
  | trel (sr : SeatRef) (t : BitVec 3) (g : Bool) (rsv : BitVec 22)
  | tgrp (sr : SeatRef) (t : BitVec 3) (on : Bool) (rsv : BitVec 22)
  | tmma (sr : SeatRef) (w : MmaWord) (upset : ArrayUpset)
  | tmmaZ (sr : SeatRef) (w : MmaWord) (upset : ArrayUpset)
  | tcvt (sr : SeatRef) (w : CvtWord)
  | agreementSamplePass (c : Coach)
  | interruptTaken (sr : SeatRef)
  | interruptPendingSet (sr : SeatRef) (k : Fin 8) (detail : Byte)
  | coachResetReload (c : Coach)
  | drainRequest (sr : SeatRef) (microcode : Bool)
  | drainTimeout (sr : SeatRef)
  | coachSubstitution (c : Coach)
  | coachSelfTest (failed : List Coach)
  | l1FillComplete (c : Coach) (upset : Option L1Upset)
  | writeBufferDrain (c : Coach)
  | writeBufferTimeout (c : Coach)
  | prefetchIssue (c : Coach) (stream : Fin 16)
  | llcAccess (req : LlcReq) (upset : BitVec 4)
  | llcMissFill (line : BitVec 43)
  | memoryRead (cw : BitVec 45) (upset : Option (Fin 36 × Byte))
  | memoryWrite (cw : BitVec 45) (data : BitVec 256) (poison dead : Bool)
  | correctedWriteback (stack : Stack)
  | narrowRequestIssue (stack : Stack) (n : Fin 4096)
  | writeQueueBatchDrain (pc : Fin 512)
  | scrubRead (pc : Fin 512) (upset : Option (Fin 36 × Byte))
  | rowRetire (pc : Fin 512) (row : BitVec 31)
  | rowRetireComplete (pc : Fin 512)
  | pseudoChannelRetire (pc : Fin 512)
  | refreshRateChange (stack : Stack) (temp : BitVec 16)
  | channelRetrainStart (stack : Stack) (channel : Fin 32)
  | retrainWindow (passed : Option Bool)
  | moverTailWrite (m : MoverNo) (v : Word32)
  | moverQueueConfigWrite (m : MoverNo) (size : Bool) (v : Word)
  | moverStoppedClear (m : MoverNo)
  | moverDescriptorStart (m : MoverNo)
  | moverCopy (m : MoverNo) (fail : Option Nat)
  | moverGather (m : MoverNo) (fail : Option Nat)
  | moverScatter (m : MoverNo)
  | moverTranspose (m : MoverNo)
  | moverConvert (m : MoverNo)
  | moverTconvert (m : MoverNo)
  | tmap (m : MoverNo)
  | texch (m : MoverNo)
  | moverDescriptorComplete (m : MoverNo)
  | moverTransferChunk (m : MoverNo)
  | laserFailure (e : Fin 4) (u : LaserUnit)
  | laserTakeoverComplete (e : Fin 4)
  | laserSeated (e : Fin 4) (u : LaserUnit)
  | laserQualified (e : Fin 4) (u : LaserUnit) (passed : Bool)
  | laserUnseated (e : Fin 4) (u : LaserUnit)
  | laneFailure (p : Port) (lane : Fin 9)
  | laneSubstitution (p : Port)
  | laneRetest (p : Port) (lane : Fin 9) (passed : Bool)
  | scaleoutPortDown (p : Port)
  | scaleoutRetrain (p : Port)
  | portBringUp (e : Fin 4) (stage : BringUp)
  | linkRetrain (p : Port)
  | identityFrameReceive (p : CoupPort) (f : IdFrame)
  | couplingHeldTimeout (p : CoupPort)
  | missingPartnerTimeout (p : CoupPort)
  | darkPortLight (p : Port)
  | lldpReceive (p : Port) (chassis portId : List Byte)
  | lldpTimeout (p : Port)
  | lldpSend (p : Port)
  | carriageFrameReceive (p : Port) (f : Frame) (symErrs : List Nat) (rx : FrameRx)
  | ackTimer (flow : FlowNo)
  | ackReceive (flow : FlowNo) (ack : BitVec 24) (ece : Bool)
  | nackReceive (flow : FlowNo) (seq : BitVec 24)
  | retransmissionTimeout (flow : FlowNo) (seq : BitVec 24)
  | frameSend (p : Port)
  | rateControlInterval (flow : FlowNo)
  | scaleoutFlowMove
  | udpDatagramReceive (p : Port) (srcAddr : BitVec 128) (dstPort : Half) (f : Frame)
  | remoteReadRequest (p : Port) (f : Frame)
  | remoteReadResponse (sr : SeatRef) (data : List Byte) (poison : Byte)
  | remoteWrite (p : Port) (f : Frame)
  | remoteAccessUnreachable (sr : SeatRef)
  | couplingRelay (dest : Fin 8)
  | collectiveTailWrite (q : QueueNo) (v : Word32)
  | allReduce (q : QueueNo)
  | reduceScatter (q : QueueNo)
  | allGather (q : QueueNo)
  | allToAll (q : QueueNo)
  | reductionNode (q : QueueNo) (chunk : Half) (level : Fin 16) (i : Half)
  | collectiveComplete (q : QueueNo)
  | barrierConfigWrite (ch : Fin 64) (v : Word32)
  | semaphoreValueWrite (s : BitVec 12) (v : Word32)
  | semaphoreArmWrite (s : BitVec 12) (arm : Word32) (value : Option Word32)
  | microFlitReceive (p : Port) (flit : Word) (rx : FlitRx)
  | microFlitRepeat (p : Port)
  | phaseComplete (ch : Fin 64)
  | stepContribution (commit : Bool)
  | endOfStepResult (nonfinite spike stopReq : Bool)
  | commitBarrierComplete
  | commitResult
  | skipResult
  | haltedResult
  | immediateStop (source : BitVec 4) (scope : StopScope)
  | haltNAssert
  | haltStopNow (v : Word)
  | haltSchedule (v : Word)
  | haltStore (v : Word)
  | scheduledStopTime
  | tenderBlockArrival (entry block gen n : Half) (vals : List Word32)
  | tenderBlockApply
  | drainStallResume
  | compatPass1
  | compatPartialReceive (layer leaf : Half) (qm qw : Word32)
  | compatPass2 (layer : Half)
  | tenderDone
  | tenderInstallApply
  | waybillEntryBuild
  | waybillMirrorReceive (entry : List Byte)
  | waybillMirrorAck
  | mirrorTimeout
  | flashMirrorWriteComplete
  | waybillVoid
  | readyWrite (v : Word)
  | checkpointSaveComplete (tier : Fin 3)
  | tier3Staged
  | replayStepCheck
  | peerLost (position : Fin 8)
  | ledgerConfigWrite (v : Word32)
  | ledgerOpen (v : Word32)
  | ledgerFolded (v : Word32)
  | watchContributionStore (off : Half) (size : Fin 9) (v : Word)
  | stickyOvfClear (ref : StatRef)
  | doorbellSqTail (r : RingNo) (v : Word32)
  | doorbellCqHead (r : RingNo) (v : Word32)
  | shadowLineReread (r : RingNo)
  | ringEntryFetch (r : RingNo)
  | ringEnableWrite (r : RingNo) (v : Word)
  | ringDisableWrite (r : RingNo) (v : Word)
  | ringDrained (r : RingNo)
  | completionWrite (r : RingNo)
  | eventPost
  | msixSignal (r : RingNo)
  | msixUnmask (vec : Fin 64)
  | cmdNop (r : RingNo) (idx : Word32)
  | cmdMover (r : RingNo) (idx : Word32)
  | cmdCollective (r : RingNo) (idx : Word32)
  | cmdRunStart (r : RingNo) (idx : Word32)
  | cmdStep (r : RingNo) (idx : Word32)
  | cmdStopRequest (r : RingNo) (idx : Word32)
  | cmdResume (r : RingNo) (idx : Word32)
  | cmdRestore (r : RingNo) (idx : Word32)
  | cmdMtbf (r : RingNo) (idx : Word32)
  | cmdTier3Release (r : RingNo) (idx : Word32)
  | cmdTenderInstall (r : RingNo) (idx : Word32)
  | cmdTenderRate (r : RingNo) (idx : Word32)
  | cmdPace (r : RingNo) (idx : Word32)
  | cmdPageClass (r : RingNo) (idx : Word32)
  | cmdMemStatus (r : RingNo) (idx : Word32)
  | cmdPortStatus (r : RingNo) (idx : Word32)
  | cmdOpenFlow (r : RingNo) (idx : Word32)
  | cmdCloseFlow (r : RingNo) (idx : Word32)
  | cmdSeatInt (r : RingNo) (idx : Word32)
  | cmdTimeOfDay (r : RingNo) (idx : Word32)
  | ppsEdge
  | ppsLossHoldover
  | holdoverAlarm
  | timeOfDayTimeout
  | ppsOutPulse
  | ppsSourceMissing
  | epochAlarmWrite (a : Fin 240) (v : Word)
  | epochAlarmFire (a : Fin 240)
  | governorTick (draw : Half)
  | tdpLimit (draw : Half) (tjW tjE : BitVec 16)
  | paceChange
  | paceChangeComplete
  | paceMeterSample
  | pwrRampWrite (v : Word)
  | rampTimeReached
  | coolantSample (inlet outlet : BitVec 16)
  | coolDemUpdate
  | supplyTrip (v : Half)
  | thermalTrip (half : Fin 2) (tj : Half)
  | leakDetect
  | environmentFault (q : EnvQuantity) (measured : Half)
  | environmentFaultClear (q : EnvQuantity)
  | mgmtGo (v : Word32)
  | mgmtResponseReady
  | mgmtDoneClear
  | mgmtMessageReceive (path : Path) (bytes : List Byte)
  | getIdentity (path : Path)
  | attest (path : Path)
  | mgmtStatusCmd (path : Path)
  | paceReport (path : Path)
  | mgmtMemStatus (path : Path)
  | mgmtPortStatus (path : Path)
  | llcCounters (path : Path)
  | sessionOpen (path : Path)
  | sessionProve (path : Path)
  | sessionClose (path : Path)
  | sessionIdleTimeout (sid : Word32)
  | pathLockoutExpiry (path : Path)
  | credSet (path : Path)
  | consistKeySet (path : Path)
  | consistLoad (path : Path)
  | consistApply (path : Path)
  | consistTakeEffect
  | consistConfirm (path : Path)
  | probationExpiry
  | probationFailure (cond : ProbFail)
  | noCommitTimeout
  | consistRevert (path : Path)
  | consistFactory (path : Path)
  | fwLoad (path : Path)
  | fwActivate (path : Path)
  | microcodeCoachMove (c : Coach)
  | fwSelfTestRevert (comp : FwComp)
  | fwRevert (path : Path)
  | fwCommit (path : Path)
  | laserRetire (path : Path)
  | retrain (path : Path)
  | recalibrate (path : Path)
  | sensorRecalTimer
  | retrim (path : Path)
  | retrimTimer
  | substitute (path : Path)
  | mgmtTimeOfDay (path : Path)
  | powerOnCmd (path : Path)
  | flashBlockRetire (block : Word32)
  | registerWrite (space : RegSpace) (off : BitVec 40) (size : Fin 9) (v : Word)
  | leakClear
  | ppsOutPulseEnd
  | halfReadLatch (requester : Byte) (reg : HalfReg) (high : Bool)
  | spdmIdeKeyExchange (io : Bool)
  | pausePfcFrameReceive (p : Port)
  | pseudoChannelMoveComplete (pc : Fin 512)
  | fwActivationComplete (comp : FwComp)
  | sensorCalibrationComplete
  deriving DecidableEq, Repr

end Sys2Proof
end

