-- ==== Sys2Proof/Machine/Map.lean ====
section
/-! DEFINITION. Sparse data as a list of key and value pairs in one canonical form: keys strictly rising, no entry equal to
the default that an unlisted key reads as.  Memories, register files and record tables of the module are all kept so. -/

namespace Sys2Proof.Machine

/-- The value at a key: the first listed one, else the default `d`. -/
def mget {α : Type} (d : α) : List (Nat × α) → Nat → α
  | [], _ => d
  | (k, v) :: rest, key => if k = key then v else mget d rest key

/-- Removes every entry of a key. -/
def merase {α : Type} (m : List (Nat × α)) (key : Nat) : List (Nat × α) :=
  m.filter fun e => e.1 != key

/-- Puts an entry at its place in key order, replacing one of the same key. -/
def minsert {α : Type} : List (Nat × α) → Nat → α → List (Nat × α)
  | [], key, v => [(key, v)]
  | (k, w) :: rest, key, v =>
    if key < k then (key, v) :: (k, w) :: rest
    else if key = k then (key, v) :: rest
    else (k, w) :: minsert rest key v

/-- Writes a value at a key; writing the default removes the entry. -/
def mset {α : Type} [DecidableEq α] (d : α) (m : List (Nat × α)) (key : Nat) (v : α) : List (Nat × α) :=
  if v = d then merase m key else minsert m key v

/-- Rewrites the value at a key. -/
def mupd {α : Type} [DecidableEq α] (d : α) (m : List (Nat × α)) (key : Nat) (f : α → α) : List (Nat × α) :=
  mset d m key (f (mget d m key))

/-- Rewrites the values at some keys, one after another. -/
def mupdAll {α : Type} [DecidableEq α] (d : α) (m : List (Nat × α)) (ks : List Nat) (f : α → α) : List (Nat × α) :=
  ks.foldl (fun m k => mupd d m k f) m

/-- Rewrites every listed value. -/
def mupdEach {α : Type} [DecidableEq α] (d : α) (m : List (Nat × α)) (f : α → α) : List (Nat × α) :=
  mupdAll d m (m.map fun e => e.1) f

/-- The canonical form. -/
abbrev mwf {α : Type} (d : α) (m : List (Nat × α)) : Prop :=
  m.Pairwise (fun a b => a.1 < b.1) ∧ ∀ e ∈ m, e.2 ≠ d

/-- Replaces the element at an index of a plain list. -/
def lset {α : Type} : List α → Nat → (α → α) → List α
  | [], _, _ => []
  | x :: xs, 0, f => f x :: xs
  | x :: xs, n + 1, f => x :: lset xs n f

/-- Little-endian number of a list of bytes (R7). -/
def leNat : List Byte → Nat
  | [] => 0
  | b :: bs => b.toNat + 256 * leNat bs

/-- The low `n` bytes of a number, little-endian (R7). -/
def leBytes : Nat → Nat → List Byte
  | 0, _ => []
  | n + 1, v => BitVec.ofNat 8 v :: leBytes n (v / 256)

/-- Bits [lo + w - 1 : lo] of a number. -/
def bits (v lo w : Nat) : Nat := v / 2 ^ lo % 2 ^ w

/-- One bit of a number. -/
def bit (v i : Nat) : Bool := v / 2 ^ i % 2 = 1

/-- `n` with its bits [lo + w - 1 : lo] replaced by the low `w` bits of `v`. -/
def putBits (n lo w v : Nat) : Nat :=
  n - bits n lo w * 2 ^ lo + v % 2 ^ w * 2 ^ lo

/-- The number of a truth value. -/
def b2n (b : Bool) : Nat := if b then 1 else 0

/-- Two's complement value of a `w`-bit number. -/
def sInt (w v : Nat) : Int := if v % 2 ^ w < 2 ^ (w - 1) then (v % 2 ^ w : Nat) else ((v % 2 ^ w : Nat) : Int) - 2 ^ w

/-- A number reduced modulo 2^w from an integer (R199). -/
def wrapInt (w : Nat) (i : Int) : Nat := (i % (2 ^ w : Nat)).toNat

/-- R411, R524: a 32-bit sequence value v has reached a target t when (v - t) mod 2^32 < 2^31. -/
def reached (v t : BitVec 32) : Bool := (v - t).toNat < 2 ^ 31

end Sys2Proof.Machine
end

