-- ==== Sys2Proof/Machine/Float.lean ====
section
/-! DEFINITION. The number formats and their arithmetic (R196 to R209, R636): every value is exact until one rounding. -/

namespace Sys2Proof.Machine

/-- What the all-ones exponent field means in a format (R196). -/
inductive Special where
  /-- Infinities and NaNs, as BF16, FP32, FP64 and E5M2. -/
  | ieee
  /-- Only the code S.1111.111 is a NaN, as E4M3. -/
  | oneNan
  /-- Every code is finite, as E2M1. -/
  | finite
  deriving DecidableEq, Repr

/-- One row of the table of R196. -/
structure Fmt where
  width   : Nat
  eb      : Nat
  mb      : Nat
  bias    : Nat
  special : Special
  deriving DecidableEq, Repr

def fmtE2M1 : Fmt := ⟨4, 2, 1, 1, .finite⟩
def fmtE4M3 : Fmt := ⟨8, 4, 3, 7, .oneNan⟩
def fmtE5M2 : Fmt := ⟨8, 5, 2, 15, .ieee⟩
def fmtBF16 : Fmt := ⟨16, 8, 7, 127, .ieee⟩
def fmtFP32 : Fmt := ⟨32, 8, 23, 127, .ieee⟩
def fmtFP64 : Fmt := ⟨64, 11, 52, 1023, .ieee⟩

/-- A value: NaN, a signed infinity, or exactly (-1)^neg · m · 2^e. -/
inductive FVal where
  | nan
  | inf (neg : Bool)
  | fin (neg : Bool) (m : Nat) (e : Int)
  deriving DecidableEq, Repr

/-- The canonical NaN of a format (R201); E2M1 has none and writes 0 (R208). -/
def nanBits (f : Fmt) : Nat :=
  match f.special with
  | .oneNan => 0x7F
  | .finite => 0
  | .ieee => if f.width = 8 then 0x7F else (2 ^ f.eb - 1) * 2 ^ f.mb + 2 ^ (f.mb - 1)

/-- Magnitude bits of the largest finite value (R196). -/
def maxBits (f : Fmt) : Nat :=
  match f.special with
  | .ieee => (2 ^ f.eb - 1) * 2 ^ f.mb - 1
  | .oneNan => 2 ^ (f.width - 1) - 2
  | .finite => 2 ^ (f.width - 1) - 1

/-- The value of a code (R196, R197, R200: subnormals are kept). -/
def fdecode (f : Fmt) (b : Nat) : FVal :=
  let neg := bit b (f.width - 1)
  let ex := bits b f.mb f.eb
  let m := bits b 0 f.mb
  if f.special = .ieee ∧ ex = 2 ^ f.eb - 1 then (if m = 0 then .inf neg else .nan)
  else if f.special = .oneNan ∧ ex = 2 ^ f.eb - 1 ∧ m = 2 ^ f.mb - 1 then .nan
  else if ex = 0 then .fin neg m (1 - (f.bias : Int) - f.mb)
  else .fin neg (2 ^ f.mb + m) ((ex : Int) - f.bias - f.mb)

def signBits (f : Fmt) (neg : Bool) : Nat := b2n neg * 2 ^ (f.width - 1)

/-- Rounds (m + δ) · 2^e, with 0 < δ < 1 exactly when `sticky`, to nearest, ties to even, as magnitude bits without a bound. -/
def roundMag (f : Fmt) (m : Nat) (e : Int) (sticky : Bool) : Nat :=
  if m = 0 then 0
  else
    let top := e + m.log2
    let q := max (top - f.mb) (1 - (f.bias : Int) - f.mb)
    let mant :=
      if q ≤ e then m * 2 ^ (e - q).toNat
      else
        let sh := (q - e).toNat
        let r := m % 2 ^ sh
        let half := 2 ^ (sh - 1)
        let t := m / 2 ^ sh
        if half < r ∨ (r = half ∧ (sticky ∨ t % 2 = 1)) then t + 1 else t
    (q + f.mb + f.bias - 1).toNat * 2 ^ f.mb + mant

/-- R202, R203, R207: rounds a value into a format.  A finite magnitude beyond the largest finite value becomes an infinity,
or the largest finite value where `sat` holds or the format has no infinity. -/
def fround (f : Fmt) (sat : Bool) (v : FVal) : Nat :=
  match v with
  | .nan => nanBits f
  | .inf neg =>
    match f.special with
    | .ieee => (2 ^ f.eb - 1) * 2 ^ f.mb + signBits f neg
    | .oneNan => 0x7F
    | .finite => maxBits f + signBits f neg
  | .fin neg m e =>
    let r := roundMag f m e false
    let r := if r ≤ maxBits f then r
      else if sat ∨ f.special ≠ .ieee then maxBits f else (2 ^ f.eb - 1) * 2 ^ f.mb
    r + signBits f neg

def fneg : FVal → FVal
  | .nan => .nan
  | .inf n => .inf (!n)
  | .fin n m e => .fin (!n) m e

def fabs : FVal → FVal
  | .nan => .nan
  | .inf _ => .inf false
  | .fin _ m e => .fin false m e

def fisFinite : FVal → Bool
  | .fin _ _ _ => true
  | _ => false

def fisNan : FVal → Bool
  | .nan => true
  | _ => false

def fisZero : FVal → Bool
  | .fin _ m _ => m = 0
  | _ => false

/-- Multiplies by 2^k exactly; the block scales and per-tensor factors that are powers of two (R198, R207). -/
def fscale (v : FVal) (k : Int) : FVal :=
  match v with
  | .fin n m e => .fin n m (e + k)
  | v => v

/-- Mantissa of a finite value as a signed integer over 2^e0, for e0 at most its exponent. -/
def falign (neg : Bool) (m : Nat) (e e0 : Int) : Int :=
  let k : Int := (m * 2 ^ (e - e0).toNat : Nat)
  if neg then -k else k

/-- The exact sum (IEEE 754 addition before rounding: an exact cancellation is +0). -/
def fadd : FVal → FVal → FVal
  | .nan, _ => .nan
  | _, .nan => .nan
  | .inf a, .inf b => if a = b then .inf a else .nan
  | .inf a, _ => .inf a
  | _, .inf b => .inf b
  | .fin a m e, .fin b n g =>
    if m = 0 ∧ n = 0 then .fin (a && b) 0 (min e g)
    else
      let e0 := min e g
      let i := falign a m e e0 + falign b n g e0
      .fin (decide (i < 0)) i.natAbs e0

/-- The exact product. -/
def fmul : FVal → FVal → FVal
  | .nan, _ => .nan
  | _, .nan => .nan
  | .inf a, .inf b => .inf (a != b)
  | .inf a, .fin b n _ => if n = 0 then .nan else .inf (a != b)
  | .fin a m _, .inf b => if m = 0 then .nan else .inf (a != b)
  | .fin a m e, .fin b n g => .fin (a != b) (m * n) (e + g)

/-- a < b on non-NaN values, +0 and -0 equal (R636). -/
def flt : FVal → FVal → Bool
  | .nan, _ => false
  | _, .nan => false
  | .inf a, .inf b => a && !b
  | .inf a, .fin _ _ _ => a
  | .fin _ _ _, .inf b => !b
  | .fin a m e, .fin b n g =>
    let e0 := min e g
    falign a m e e0 < falign b n g e0

def feq : FVal → FVal → Bool
  | .nan, _ => false
  | _, .nan => false
  | .inf a, .inf b => a = b
  | .inf _, _ => false
  | _, .inf _ => false
  | .fin a m e, .fin b n g =>
    let e0 := min e g
    falign a m e e0 = falign b n g e0

def fle (a b : FVal) : Bool := flt a b || feq a b

def fsign : FVal → Bool
  | .nan => false
  | .inf n => n
  | .fin n _ _ => n

/-- R636: minimum, -0.0 below +0.0, NaN from either operand. -/
def fmin (a b : FVal) : FVal :=
  if fisNan a || fisNan b then .nan
  else if flt a b then a else if flt b a then b
  else if fsign a then a else b

/-- R636: maximum. -/
def fmax (a b : FVal) : FVal :=
  if fisNan a || fisNan b then .nan
  else if flt a b then b else if flt b a then a
  else if fsign a then b else a

/-- The rounded quotient of two values (R202). -/
def fdivRound (f : Fmt) (a b : FVal) : Nat :=
  match a, b with
  | .nan, _ => nanBits f
  | _, .nan => nanBits f
  | .inf _, .inf _ => nanBits f
  | .inf s, .fin t _ _ => fround f false (.inf (s != t))
  | .fin s _ _, .inf t => signBits f (s != t)
  | .fin s m e, .fin t n g =>
    if n = 0 then (if m = 0 then nanBits f else fround f false (.inf (s != t)))
    else
      let k := f.mb + 3 + n.log2
      let num := m * 2 ^ k
      let r := roundMag f (num / n) (e - g - k) (num % n != 0)
      (if r ≤ maxBits f then r else (2 ^ f.eb - 1) * 2 ^ f.mb) + signBits f (s != t)

/-- Integer square root by bisection on bits, `fuel` bits of result. -/
def isqrtAux (n : Nat) : Nat → Nat → Nat
  | 0, r => r
  | k + 1, r => if (r + 2 ^ k) * (r + 2 ^ k) ≤ n then isqrtAux n k (r + 2 ^ k) else isqrtAux n k r

/-- The floor of the square root (R500). -/
def isqrt (n : Nat) : Nat := isqrtAux n (n.log2 / 2 + 1) 0

/-- The rounded square root (R453). -/
def fsqrtRound (f : Fmt) (a : FVal) : Nat :=
  match a with
  | .nan => nanBits f
  | .inf false => fround f false (.inf false)
  | .inf true => nanBits f
  | .fin neg m e =>
    if m = 0 then signBits f neg
    else if neg then nanBits f
    else
      let k := 2 * (f.mb + 3) + b2n ((e % 2) != 0)
      let n := m * 2 ^ k
      let r := isqrt n
      roundMag f r ((e - k) / 2) (r * r != n)

/-- R203: rounds to an integer to nearest, ties to even, saturating to a signed width; a NaN gives 0. -/
def ftoInt (w : Nat) (v : FVal) : Nat :=
  let lo : Int := -(2 ^ (w - 1) : Nat)
  let hi : Int := (2 ^ (w - 1) : Nat) - 1
  match v with
  | .nan => 0
  | .inf neg => wrapInt w (if neg then lo else hi)
  | .fin neg m e =>
    let t : Nat :=
      if 0 ≤ e then m * 2 ^ e.toNat
      else
        let sh := (-e).toNat
        let q := m / 2 ^ sh
        let r := m % 2 ^ sh
        let half := 2 ^ (sh - 1)
        if half < r ∨ (r = half ∧ q % 2 = 1) then q + 1 else q
    let i : Int := if neg then -(t : Int) else t
    wrapInt w (max lo (min hi i))

/-- An integer as an exact value. -/
def fofInt (i : Int) : FVal := .fin (decide (i < 0)) i.natAbs 0

/-- round_fp32 of an exact FP32 sum (R202), on codes. -/
def add32 (a b : Nat) : Nat := fround fmtFP32 false (fadd (fdecode fmtFP32 a) (fdecode fmtFP32 b))

def mul32 (a b : Nat) : Nat := fround fmtFP32 false (fmul (fdecode fmtFP32 a) (fdecode fmtFP32 b))

def sub32 (a b : Nat) : Nat := fround fmtFP32 false (fadd (fdecode fmtFP32 a) (fneg (fdecode fmtFP32 b)))

/-- An infinity or a NaN in FP32 (R36). -/
def nonFinite32 (b : Nat) : Bool := !fisFinite (fdecode fmtFP32 b)

/-- Exact widening of a code to FP32 (R213). -/
def widen32 (f : Fmt) (b : Nat) : Nat := fround fmtFP32 false (fdecode f b)

def minusZero32 : Nat := 0x80000000

/-- R212 (one level of R137 too): one level of the pairwise tree; the last of an odd number passes up unchanged. -/
def treeLevel {α : Type} (op : α → α → α) : List α → List α
  | a :: b :: rest => op a b :: treeLevel op rest
  | xs => xs

/-- R212: the pairwise tree over a list in leaf order; `n` levels suffice for 2^n leaves. -/
def treeFold {α : Type} (op : α → α → α) (d : α) : Nat → List α → α
  | 0, xs => xs.headD d
  | n + 1, xs => match xs with
    | [x] => x
    | xs => treeFold op d n (treeLevel op xs)

/-- The element exponent of a block-scaled format (R205); BF16 needs none. -/
def emaxOf (f : Fmt) : Int :=
  if f.width = 4 then 2 else if f.special = .oneNan then 8 else 15

/-- floor(log2 |v|) of a finite non-zero value (R206). -/
def flog2 : FVal → Int
  | .fin _ m e => e + m.log2
  | _ => 0

/-- R206: the block scale of up to 32 FP32 codes. -/
def jitScale (f : Fmt) (v : List Nat) : Nat :=
  let vs := v.map (fdecode fmtFP32)
  if vs.any (fun x => !fisFinite x) then 0xFF
  else if f = fmtBF16 then 127
  else
    let nz := vs.filter (fun x => !fisZero x)
    match nz with
    | [] => 0
    | x :: xs =>
      let top := xs.foldl (fun a b => max a (flog2 b)) (flog2 x)
      (max (top - emaxOf f) (-127) + 127).toNat

/-- R207, R208: one element of a block under its scale. -/
def roundElem (f : Fmt) (x : Nat) (v : Nat) : Nat :=
  if x = 0xFF then (if f = fmtBF16 then fround fmtBF16 false (fdecode fmtFP32 v) else nanBits f)
  else fround f (f ≠ fmtBF16) (fscale (fdecode fmtFP32 v) (127 - (x : Int)))

/-- R207: whether `roundElem` saturated the element. -/
def satElem (f : Fmt) (x : Nat) (v : Nat) : Bool :=
  if x = 0xFF ∨ f = fmtBF16 then false
  else flt (fdecode f (maxBits f)) (fabs (fscale (fdecode fmtFP32 v) (127 - (x : Int))))

/-- R209: the value of one block of a dot product, before the accumulation.  `ss` and `ws` are the E8M0 scales. -/
def blockValue (ss ws : Nat) (ps : List (FVal × FVal)) : Nat :=
  let prods := ps.map (fun p => fmul p.1 p.2)
  if ss = 0xFF ∨ ws = 0xFF ∨ ps.any (fun p => fisNan p.1 || fisNan p.2) ∨ prods.any fisNan
      ∨ (prods.any (· == FVal.inf false) ∧ prods.any (· == FVal.inf true)) then nanBits fmtFP32
  else if prods.any (· == FVal.inf false) then fround fmtFP32 false (.inf false)
  else if prods.any (· == FVal.inf true) then fround fmtFP32 false (.inf true)
  else
    let s := prods.foldl fadd (.fin false 0 0)
    let s := if fisZero s then FVal.fin false 0 0 else s
    fround fmtFP32 false (fscale s ((ss : Int) - 127 + (ws - 127)))

/-- R204: stochastic rounding of an FP32 code to BF16 with a 16-bit random value. -/
def srBf16 (w r : Nat) : Nat :=
  match fdecode fmtFP32 w with
  | .nan => 0x7FC0
  | .inf _ => w / 2 ^ 16
  | .fin _ _ _ =>
    let t := w / 2 ^ 16
    let t := if r < w % 2 ^ 16 then t + 1 else t
    if t % 2 ^ 15 = 0x7F80 then t - 1 else t

end Sys2Proof.Machine
end

