-- ==== Sys2Proof/Machine/TypesCoach.lean ====
section
/-! DEFINITION. The state of a coach: its seats (R60 to R115, R139 to R157), accumulators, queues, caches (R250), translation
caches (R76), sampler (R239) and fault records.  Every field's docstring gives its rule, its width and its reset value; `DC n`
and `PRESUMED n` name the row of the assumption log that supplies a reset value the spec does not give. -/

namespace Sys2Proof.Machine

/-- A sparse table keyed by number, in the canonical form of `mwf`. -/
abbrev SMap (α : Type) := List (Nat × α)

/-- An operation that a vector word of a class selects (R116). -/
inductive VecSel where
  | int (op : VIntOp)
  | fp (op : VFpOp)
  | fma
  | cmp (op : VCmpOp)
  | cvt (src dst : CvtFmt)
  | perm (op : BitVec 4)
  | red (op : RedOp)
  | mov (form : VMovForm)
  | sfp (op : SFpOp)
  deriving DecidableEq, Repr

/-- A statistics counter and its sticky overflow bit (R635). -/
structure Stat where
  val : Nat := 0
  ovf : Bool := false
  deriving DecidableEq, Repr

/-- What a response to a management request carries (R570): its path, CMD, SID, SEQ and session key, and for the mailbox the count
of its resets when the request was taken (R615). -/
structure Ticket where
  path : Path
  cmd  : Nat
  sid  : Nat
  seq  : Nat
  ks   : List Byte
  gen  : Nat
  deriving DecidableEq, Repr

/-- Privilege levels (R65). -/
inductive Level where | u | s | m
  deriving DecidableEq, Repr

/-- ESTAT and ESTAT2 without their live fields (R89, R90). -/
structure Estat where
  /-- R89; 6 bits; reset 0. CAUSE. -/
  cause  : BitVec 6 := 0
  /-- R89; 1 bit; reset 0. EX. -/
  ex     : Bool := false
  /-- R89; 1 bit; reset 0. PMASK. -/
  pmask  : Bool := false
  /-- R89; 2 bits; reset 0 (U). PL; the reserved code 0b10 is never held (R91). -/
  pl     : Level := .u
  /-- R89; 16 bits; reset 0. PROG. -/
  prog   : BitVec 16 := 0
  /-- R89; 8 bits; reset 0. DETAIL. -/
  detail : BitVec 8 := 0
  deriving DecidableEq, Repr

/-- One tile row: 128 bytes and a poison bit per 32-byte segment (R139, R151). -/
structure TileRow where
  data   : BitVec 1024 := 0
  poison : BitVec 4 := 0
  deriving DecidableEq, Repr

/-- One accumulator row: 128 FP32 values and a poison bit per 32-byte segment (R140, R151). -/
structure AccRow where
  data   : BitVec 4096 := 0
  poison : BitVec 16 := 0
  deriving DecidableEq, Repr

/-- Where the value of an outstanding remote load goes (R397).  A VLD asks for the elements that a partner holds, one run of elements
after another: n elements from element i on, and the runs still to ask for: first element, number and address. -/
inductive LoadDest where
  | int (rd : RegNo) (signed : Bool) (bytes : Nat)
  | fp (rd : RegNo) (bytes : Nat)
  | vec (vd : RegNo) (w i n : Nat) (rest : List (Nat × Nat × Nat))
  deriving DecidableEq, Repr

/-- What a seat that cannot issue waits for: nothing, a CORDWAIT target (R416), the coach's tile work (TGRP, R159), or remote data
(R397). -/
inductive Wait where
  | none
  | tgrp (tile : BitVec 3) (on : Bool)
  | cord (barrier : Bool) (index : Nat) (target : BitVec 32)
  | remote (dest : LoadDest)
  deriving DecidableEq, Repr

/-- A hardware thread. -/
structure Seat where
  /-- R62; 31 × 64 bits; reset 0 (DC 2). X1 to X31 by number. -/
  x       : SMap Word := []
  /-- R63; 31 × 1 bit; reset 0 (DC 2). Poison bits of X1 to X31. -/
  xp      : SMap Bool := []
  /-- R109; 32 × 2,048 bits; reset 0 (DC 2). V0 to V31; F0 to F31 are their low 64 bits (R110). -/
  v       : SMap (BitVec 2048) := []
  /-- R113; 32 × 8 bits; reset 0 (DC 2). Poison bits of the 32-byte segments of V0 to V31. -/
  vp      : SMap (BitVec 8) := []
  /-- R111; 16 × 256 bits; reset 0 (DC 2). P0 to P15. -/
  p       : SMap (BitVec 256) := []
  /-- R112; 256 bits; reset 0. -/
  ffr     : BitVec 256 := 0
  /-- R67; 64 bits; reset 0 (DC 2). Address of the next instruction. -/
  pc      : Word := 0
  /-- R89; 2 bits; reset M (ESTAT.LVL resets to 0x3). -/
  level   : Level := .m
  /-- R85; 64 bits; reset 0 (DC 2). EPC. -/
  epc     : Word := 0
  /-- R89; 64 bits with `mask`, `pend` and `level`; reset 0. ESTAT. -/
  estat   : Estat := {}
  /-- R90; 64 bits; reset 0 (DC 2). EPC2. -/
  epc2    : Word := 0
  /-- R90; 64 bits; reset 0. ESTAT2. -/
  estat2  : Estat := {}
  /-- R89; 1 bit; reset 1. ESTAT.MASK. -/
  mask    : Bool := true
  /-- R89; 16 bits; reset 0. ESTAT.PEND. -/
  pend    : BitVec 16 := 0
  /-- R92; 8 bits per pending cause; reset 0. DETAIL of the occurrence that set each pending bit. -/
  pendDet : SMap (BitVec 8) := []
  /-- R87; 64 bits, low 12 read 0; reset 0. VBASE. -/
  vbase   : Word := 0
  /-- R103; 64 bits; reset 0 (DC 2). SSP. -/
  ssp     : Word := 0
  /-- R105; 64 bits, low 4 read 0; reset 0. SSH. -/
  ssh     : Word := 0
  /-- R75; 64 bits, [63:51] read 0; reset 0. PTROOT. -/
  ptroot  : Word := 0
  /-- R61; 1 bit; reset class S (SEATCFG.CLASS resets to 1). Holds when the seat is of class C. -/
  classC  : Bool := false
  /-- R157; 8 bits; reset 0. Fullness of T0 to T7, as a class C seat reads it. -/
  full    : BitVec 8 := 0
  /-- R139; 8 × 128 rows of 1,024 bits and 4 poison bits; reset 0 (R647). Row r of tile t at 128 t + r. -/
  tiles   : SMap TileRow := []
  /-- R96; 16 bits; reset 0. Resume count given by the last ERET or by an interruption, until an instruction completes. -/
  resume  : Nat := 0
  /-- R97; reset none. What a waiting CORDWAIT, TGRP or remote load waits for. -/
  wait    : Wait := .none
  /-- R398; reset 0. Remote stores not yet acknowledged by their partners. -/
  remSt   : Nat := 0
  deriving DecidableEq, Repr

/-- A line of the L1 data or victim cache: 128 bytes, poison bit and dead mark per segment (R252, R272). -/
structure CLine where
  tag    : Nat
  host   : Bool
  way    : Nat
  data   : BitVec 1024
  poison : BitVec 4
  dead   : BitVec 4
  dirty  : Bool
  deriving DecidableEq, Repr

/-- An entry of the merging write buffer, or the stored bytes of a fill in flight (R255, R256). -/
structure MEntry where
  tag    : Nat
  host   : Bool
  mask   : BitVec 128
  data   : BitVec 1024
  poison : BitVec 4
  /-- R272; dead marks of the segments that hold bytes of the entry. -/
  dead   : BitVec 4
  /-- R151, R272; segments that one store wrote whole, so that the entry removes their marks. -/
  whole  : BitVec 4
  /-- R88; the seats whose stores the entry holds. -/
  seats  : BitVec 4
  /-- R88, R252; an uncorrectable error has met the entry. -/
  err    : Bool
  /-- R257; the coach's beat at the first store into the entry. -/
  at0    : Nat
  deriving DecidableEq, Repr

/-- A line of the L1 instruction cache: its words do not follow later stores (R252). -/
structure ILine where
  tag    : Nat
  host   : Bool
  way    : Nat
  data   : BitVec 1024
  poison : BitVec 4
  deriving DecidableEq, Repr

/-- A TLB entry (R76): page address at its size, ASID, global bit, and the leaf entry. -/
structure TlbEntry where
  vpn  : Nat
  giga : Bool
  asid : BitVec 12
  pte  : Word
  deriving DecidableEq, Repr

/-- A stream of the stride prefetcher (R261). -/
structure Stream where
  seat   : Fin 4
  asid   : BitVec 12
  last   : Nat
  stride : Int
  misses : Nat
  depth  : Nat
  deriving DecidableEq, Repr

/-- How an add leaves its slice (R288 to R291): applied there; forwarded by the pin limit of R289 or R290, which is counted; or
forwarded behind other forwarded adds of its line. -/
inductive AddWay where | here | pinLimit | behind
  deriving DecidableEq, Repr

/-- A LADD on its way to its home slice, in a slice queue, or forwarded (R281 to R291). -/
structure LaddReq where
  sr     : SeatRef
  pa     : Nat
  ty     : Nat
  addend : Word
  way    : AddWay := .here
  deriving DecidableEq, Repr

/-- What an operand reuse latch holds (R165). -/
structure Latch where
  seat  : Fin 4
  tile  : BitVec 3
  first : Nat
  rows  : Nat
  bytes : Nat
  fp    : Nat
  deriving DecidableEq, Repr

/-- A sampled TMMA awaiting its second pass (R239). -/
structure SampleJob where
  acc    : Nat
  step   : Nat
  m      : Nat
  n      : Nat
  k      : Nat
  fp     : Nat
  so     : Nat
  st     : List (BitVec 1024)
  wt     : List (BitVec 1024)
  sc     : List (BitVec 1024)
  pre    : List Nat
  post   : List Nat
  deriving DecidableEq, Repr

/-- An entry of the vector queue (R58).  An entry that accesses no memory has taken effect in its seat's registers when it entered,
where only later instructions of the seat can see it; one that does runs when it is dispatched. -/
structure VEntry where
  seat  : Fin 4
  instr : Instr
  ran   : Bool
  deriving DecidableEq, Repr

/-- A logical coach (R14). -/
structure Coach where
  /-- R56; 4 seats. -/
  seats    : SMap Seat := []
  /-- R140; 4 × 128 rows of 4,096 bits and 16 poison bits; reset 0 (R647). Row r of accumulator a at 128 a + r. -/
  acc      : SMap AccRow := []
  /-- R157; 8 bits; reset 0. TFULL.GRP. -/
  grp      : BitVec 8 := 0
  /-- R58, R121; 32 entries, 8 of a seat; reset empty. Vector queue while the pipes are gated or wake, oldest first. The tile queue
  holds no entry between two steps, because each step is whole. -/
  vq       : List VEntry := []
  /-- R56; 2 bits; reset 3 (DC 2). Seat that issued in the previous beat. -/
  rr       : Fin 4 := 3
  /-- R51; 64 bits; reset 0. Accumulator of the pace meter. -/
  beats    : Stat := {}
  /-- R257; reset 0. Beats of the coach since reset, without bound: the clock of the merge timeout. The model's own. -/
  now      : Nat := 0
  /-- R51; 16 bits; reset 0 (DC 2). Rate count of the pace meter. -/
  rate     : Nat := 0
  /-- R51; reset 0. The microsecond being counted, and the beats counted in it so far. -/
  us       : Nat := 0
  usBeats  : Nat := 0
  /-- R120; 1 bit; reset 0 (DC 2). The vector pipes are gated. -/
  gated    : Bool := false
  /-- R121; 1 bit; reset 0. A wake is running. -/
  waking   : Bool := false
  /-- R120; beats; reset 0. Beats since the vector queue last held an entry. -/
  idle     : Nat := 0
  /-- R121; statistics counter; reset 0. -/
  wakes    : Stat := {}
  /-- R250; 48 lines; reset empty (DC 2). L1 data cache, most recently used first. -/
  l1       : List CLine := []
  /-- R250; 8 lines; reset empty (DC 2). Victim cache, oldest first. -/
  victim   : List CLine := []
  /-- R250; 16 entries; reset empty (DC 2). Merging write buffer, oldest first. -/
  mbuf     : List MEntry := []
  /-- R255; 8 fills; reset empty (DC 2). Fills in flight with the bytes stored meanwhile. -/
  fills    : List MEntry := []
  /-- R250; 512 lines; reset empty (DC 2). L1 instruction cache, most recently used first. -/
  l1i      : List ILine := []
  /-- R76; 64 entries; reset empty (DC 2). TLB. -/
  tlb      : List TlbEntry := []
  /-- R76; 16 entries; reset empty (DC 2). Non-leaf entries by the physical address of the entry. -/
  nonleaf  : SMap Word := []
  /-- R250; 16 streams; reset empty (DC 2). Stride prefetcher, most recently trained first. -/
  streams  : List Stream := []
  /-- R285; at most 32 in flight with those in slice queues; reset empty. LADDs held in the coach. -/
  ladds    : List LaddReq := []
  /-- R165; reset empty. Stationary latch. -/
  latchS   : Option Latch := none
  /-- R165; reset empty. Slice latch. -/
  latchW   : Option Latch := none
  /-- R101; reset none. The seat and cause that stopped the coach, with 1 for a drain timeout. -/
  stopped  : Option (Fin 4 × BitVec 6 × Nat) := none
  /-- R101; reset none. Epoch times of the stops counted towards substitution. -/
  stops    : List Nat := []
  /-- R191; reset none. Epoch times of the array faults counted towards substitution. -/
  aFaults  : List Nat := []
  /-- R101, R191; 1 bit; reset 0. A third stop or array fault within 3,600 s has made a substitution due. -/
  subDue   : Bool := false
  /-- R191; statistics counter; reset 0. Checksum mismatches. -/
  aFaultCt : Stat := {}
  /-- R272; statistics counter; reset 0. Dead reads. -/
  deadRd   : Stat := {}
  /-- R181, R252; statistics counter; reset 0. Uncorrectable errors of tile banks and caches. -/
  bankErr  : Stat := {}
  /-- R102; reset none. Epoch time at which a pending drain request was made, by seat. -/
  drainAt  : SMap (Option Nat) := []
  /-- R239; 32 bits; reset 0 (DC 2). Narrow TMMAs counted by the sampler. -/
  tmmas    : BitVec 32 := 0
  /-- R239; reset none. Sampled TMMA awaiting its second pass. -/
  sample   : Option SampleJob := none
  /-- R239; 16,384 × 32 bits; reset empty (DC 2). Shadow accumulator. -/
  shadow   : List (BitVec 32) := []
  /-- R584; reset slot A. Slot of the microcode that the coach runs. -/
  ucodeB   : Bool := false
  deriving DecidableEq, Repr

end Sys2Proof.Machine
end

