-- ==== Sys2Proof/Machine/TypesMem.lean ====
section
/-! DEFINITION. The state of the last-level cache (R274 to R295), the memory stacks (R296 to R325) and the data movers
(R326 to R343). -/

namespace Sys2Proof.Machine

/-- A line of the LLC (R274, R278). -/
structure LLine where
  way    : Nat
  data   : BitVec 1024
  poison : BitVec 4
  dead   : BitVec 4
  dirty  : Bool
  stamp  : Nat
  deriving DecidableEq, Repr

/-- The five counters of a slice (R295). -/
structure SliceStats where
  applied   : Stat := {}
  forwarded : Stat := {}
  lost      : Stat := {}
  pinLimit  : Stat := {}
  uncorr    : Stat := {}
  deriving DecidableEq, Repr

/-- The last-level cache. -/
structure Llc where
  /-- R274; 64 × 1,024 × 16 lines of 1,024 bits; reset empty (DC 2). Lines by line address PA[49:7]. -/
  lines : SMap (Option LLine) := []
  /-- R277; reset 0. Number of accesses made, which orders lines by use. -/
  clock : Nat := 0
  /-- R285; 64 adds per slice; reset empty. Queued LADDs in arrival order over all slices. -/
  adds  : List LaddReq := []
  /-- R289, R294; 512 adds per stack with those in the narrow queues; reset empty. Adds at the near-memory adders, in order. -/
  fwd   : List LaddReq := []
  /-- R295; 64 × 5 × 48 bits; reset 0 (DC 2). -/
  stats : SMap SliceStats := []
  /-- R521; 1,048,576 lines; reset empty (DC 2). The snoop filter: lines that the host may hold, most recently used first. -/
  snoop : List Nat := []
  deriving DecidableEq, Repr

/-- A write that waits in a pseudo-channel's write queue (R322). -/
structure WEntry where
  cw     : Nat
  data   : BitVec 256
  rel    : BitVec 32
  deriving DecidableEq, Repr

/-- A 32-byte request that waits in a narrow queue (R318 to R320): a write of masked bytes, or a forwarded LADD. -/
structure NReq where
  cw     : Nat
  mask   : BitVec 32
  data   : BitVec 256
  poison : Bool
  add    : Option LaddReq := none
  /-- R319; epoch time of its arrival. -/
  at0    : Nat := 0
  deriving DecidableEq, Repr

/-- The statistics and status of a stack (R317). -/
structure StackState where
  /-- R317; 32 bits; reset 0. -/
  rowsRetired : Stat := {}
  /-- R317; 64 bits; reset 0. Retired pseudo-channels. -/
  pcRetired   : BitVec 64 := 0
  /-- R317; 32 bits; reset 0. -/
  offline     : Stat := {}
  /-- R317; 32 bits; reset 0. -/
  poisoned    : Stat := {}
  /-- R317; 64 bits; reset 0. -/
  corrected   : Stat := {}
  /-- R317; 64 bits; reset 0. -/
  uncorr      : Stat := {}
  /-- R317; 32 bits; reset 0. -/
  scrubs      : Stat := {}
  /-- R317; 16 bits signed; reset 0 (DC 2). Base-die temperature in 0.125 °C. -/
  temp        : BitVec 16 := 0
  /-- R323; 1 bit; reset 0. Double refresh rate. -/
  refresh2    : Bool := false
  /-- R319; 4,096 requests; reset empty. Narrow queue in arrival order. -/
  narrow      : List NReq := []
  /-- R319; reset empty. Narrow requests that the home slices hold while the queue is full, in arrival order. -/
  held        : List NReq := []
  /-- R319; reset none (DC 2). The row that the last narrow request to each bank opened, by 16 × pseudo-channel + 4 × group + bank. -/
  openRow     : SMap (Option Nat) := []
  /-- R319; reset none (DC 2). The bank group of the last narrow request to each pseudo-channel. -/
  lastBg      : SMap (Option Nat) := []
  deriving DecidableEq, Repr

/-- The counters of a pseudo-channel (R308). -/
structure PcStats where
  /-- R308; statistics counter; reset 0 (DC 2). Corrected reads. -/
  corrected : Stat := {}
  /-- R308; statistics counter; reset 0 (DC 2). Uncorrectable reads, and non-zero syndromes in the activation class. -/
  uncorr    : Stat := {}
  deriving DecidableEq, Repr

/-- A row of a pseudo-channel with errors counted against it (R314). -/
structure RowErr where
  pc    : Nat
  row   : Nat
  times : List Nat
  due   : Bool
  deriving DecidableEq, Repr

/-- Scrub of one class of pages in a pseudo-channel (R312, R313). -/
structure Scrub where
  /-- R312; reset 0. Codewords visited in this pass. -/
  at0    : Nat := 0
  /-- R313; 64 bits; reset 0. Epoch time at which this pass began. -/
  since  : Nat := 0
  /-- R317; reset 0. Completed passes. -/
  passes : Nat := 0
  deriving DecidableEq, Repr

/-- Channel retraining (R324, R325). -/
structure Retrain where
  stack   : Nat
  channel : Nat
  fails   : Nat
  /-- The management request that asked for it, if one did. -/
  ask     : Option Ticket
  deriving DecidableEq, Repr

/-- Module memory and its controllers. -/
structure Mem where
  /-- R298, R631; 576 × 10^9 bytes; reset: every byte reads 0 (DC 3). Data bytes by address, as written to the stacks. -/
  cells    : List Host.Cell := []
  /-- R301, R303; 32 bits per codeword; reset 0 (DC 3). Stored check symbols XORed with the check symbols of the stored data. -/
  rel      : SMap (BitVec 32) := []
  /-- R322; 64 entries per pseudo-channel; reset empty. Write queues, oldest first. -/
  wq       : List WEntry := []
  /-- R308; reset empty. Corrected codewords awaiting write-back, with the count of writes at the read. -/
  fixq     : List WEntry := []
  /-- R317; 8 records. -/
  hbm      : SMap StackState := []
  /-- R308; 512 pairs of counters; reset 0 (DC 2). -/
  pcStats  : SMap PcStats := []
  /-- R300; 32 bits; reset 0 (DC 2). Memory key in use. -/
  key      : BitVec 32 := 0
  /-- R304, R306; 1 bit per page; reset none. Pages whose class a page-class command has set: activation or state. -/
  actPages : SMap (Option Bool) := []
  /-- R311; reset empty. Poisoned pages: page, stack, and the codewords written since the error. -/
  poisonPg : List (Nat × Nat × List Nat) := []
  /-- R316; 1 bit; reset 0. The module's pages are offline: R299 gives every page blocks in every pseudo-channel (DEDUCED 13). -/
  offline  : Bool := false
  /-- R312, R313; reset none begun. Scrub by 2 × pseudo-channel, plus 1 for activation-class pages. -/
  scrub    : SMap Scrub := []
  /-- R314; reset empty. Rows with counted errors. -/
  rowErrs  : List RowErr := []
  /-- R314; reset none. The row copy that runs in each pseudo-channel. -/
  retiring : SMap (Option Nat) := []
  /-- R315; 13 bits per pseudo-channel; reset 0. Spare rows used. -/
  spares   : SMap Nat := []
  /-- R314; reset empty. Rows served from spare rows: pseudo-channel and row. -/
  moved    : List (Nat × Nat) := []
  /-- R315; reset none. Retired pseudo-channels with their boundary: the codewords below it are in the relocation pools. -/
  moving   : List (Nat × Nat) := []
  /-- R324; reset none. Channel under retraining. -/
  retrain  : Option Retrain := none
  /-- R324; reset 0 (DC 2). Base-die temperature and epoch time of each channel's last training, by 32 × stack + channel. -/
  trained  : SMap (BitVec 16 × Nat) := []
  deriving DecidableEq, Repr

/-- Bytes of a slot of an exchange group that have arrived (R352). -/
structure Arrival where
  grp    : Nat
  slot   : Nat
  bytes  : Nat
  poison : Bool
  deriving DecidableEq, Repr

/-- A descriptor that a mover runs: its 64 bytes, where it came from and how far it is (R330, R334). -/
structure MoverCur where
  desc   : List Byte
  /-- Ring pair and submission index of a MOVER command (R329, R532), else none. -/
  ring   : Option (Nat × Nat)
  /-- Bytes moved, of those the operation moves in all (R344). -/
  moved  : Nat
  total  : Nat
  /-- A destination segment has been written poisoned (R334). -/
  poison : Bool
  /-- The operation has been performed: its CODE. -/
  result : Option Nat
  deriving DecidableEq, Repr

/-- A data mover (R327). -/
structure Mover where
  /-- R327; 64 bits, [5:0] read 0; reset 0. -/
  qbase   : Nat := 0
  /-- R327; 8 bits; reset 0. -/
  qsize   : Nat := 0
  /-- R327; 32 bits; reset 0. -/
  tail    : BitVec 32 := 0
  /-- R327; 32 bits; reset 0. -/
  head    : BitVec 32 := 0
  /-- R327; 32 bits; reset 0. -/
  errors  : Stat := {}
  /-- R327; 1 bit; reset 0. -/
  stopped : Bool := false
  /-- R326; reset none. Descriptor in progress; BUSY reads whether there is one. -/
  cur     : Option MoverCur := none
  /-- R329; reset empty. Descriptors of MOVER commands: the tail they stand behind, ring pair, index, bytes. -/
  extra   : List (BitVec 32 × Nat × Nat × List Byte) := []
  deriving DecidableEq, Repr

end Sys2Proof.Machine
end

