-- ==== Sys2Proof/Machine/TypesNet.lean ====
section
/-! DEFINITION. The state of the optical engines and ports (R354 to R379), of Carriage (R380 to R399), of the collective queues
(R400 to R407) and of the Cord (R408 to R433). -/

namespace Sys2Proof.Machine

/-- A laser unit's state (R360). -/
inductive Laser where | absent | qualifying | sharing | alone | retired | failed
  deriving DecidableEq, Repr

/-- An optical engine (R18, R358 to R361). -/
structure Engine where
  /-- R360, R378; 3 bits; reset 0, Absent. LASER_A. -/
  a      : Laser := .absent
  /-- R360, R378; 3 bits; reset 0, Absent. LASER_B. -/
  b      : Laser := .absent
  /-- R359; 1 bit; reset 0. A takeover ramp runs. -/
  ramp   : Bool := false
  /-- R361, R634; 1 bit each; reset 1, seated. Whether the bay of each unit is seated. -/
  inA    : Bool := true
  inB    : Bool := true
  /-- R377; 3 bits; reset 0 (DC 2). Stages of bring-up passed, of seven. -/
  stage  : Nat := 0
  deriving DecidableEq, Repr

/-- A port and its status record (R378). -/
structure PortState where
  /-- R378; 8 bits; reset 0. STATE. -/
  state   : Nat := 0
  /-- R378; 8 bits; reset 0. LANES, as the set of logical lanes in service. -/
  lanes   : BitVec 8 := 0
  /-- R354; 4 bits per logical lane; reset identity. Physical lane of each logical lane that has moved. -/
  map     : SMap Nat := []
  /-- R362; 4 bits; reset lane 8. The idle spare. -/
  spare   : Option Nat := some 8
  /-- R378; 16 bits; reset 0. FAILED. -/
  failed  : BitVec 9 := 0
  /-- R363; reset none. Logical lane that moves onto the spare at the next alignment marker. -/
  subst   : Option Nat := none
  /-- R378; 16 bits; reset 0xFFFF. PARTNER. -/
  partner : BitVec 16 := 0xFFFF
  /-- R378; 32 bits; reset 0. PARTNER_CONSIST. -/
  pcons   : BitVec 32 := 0
  /-- R372; 256 bits each; reset 0 (DC 2). The nonce that this end sent, and the one that the partner sent last. -/
  nonce   : BitVec 256 := 0
  peerNonce : BitVec 256 := 0
  /-- R373; reset 0. Epoch time at which the port entered Held. -/
  heldAt  : Nat := 0
  /-- R378; 64 bits; reset 0. -/
  corrected : Stat := {}
  /-- R378; 64 bits; reset 0. -/
  uncorr  : Stat := {}
  /-- R378; 64 bits; reset 0. -/
  e2e     : Stat := {}
  /-- R378; 32 bits; reset 0. -/
  subs    : Stat := {}
  /-- R378; 32 bits; reset 0. -/
  takeovers : Stat := {}
  /-- R378; 32 bits; reset 0 (DC 2). WORST_BER, FP32. -/
  ber     : BitVec 32 := 0
  /-- R356; statistics counter; reset 0 (DC 2). PAUSE and PFC frames dropped. -/
  pause   : Stat := {}
  /-- R394; statistics counter; reset 0 (DC 2). Datagrams dropped. -/
  dgrams  : Stat := {}
  /-- R376; 1 bit; reset 0. A matching LLDPDU has been received since link-up. -/
  lldpOk  : Bool := false
  /-- R376; 64 bits; reset 0. Epoch time at which a scale-out port came to wait for an LLDPDU. -/
  linkAt  : Nat := 0
  /-- R375; 1 bit; reset 0. An environment fault stands until a retrain or a new consist. -/
  fault   : Bool := false
  /-- R389; reset empty. Frames waiting to be sent, oldest first. -/
  txq     : List Frame := []
  /-- R422; reset empty. Micro-flits sent and not yet echoed, oldest first. -/
  flits   : List Word := []
  /-- R422; reset empty. Micro-flits accepted, so that repeats of them are discarded. -/
  seen    : List Word := []
  deriving DecidableEq, Repr

/-- An exact non-negative fraction. -/
structure Frac where
  num : Nat
  den : Nat
  deriving DecidableEq, Repr

/-- A frame in the retransmit store (R386). -/
structure UFrame where
  frame   : Frame
  resends : Nat
  timeout : Nat
  deriving DecidableEq, Repr

/-- A Carriage flow (R380 to R396). -/
structure Flow where
  /-- R380; 1 bit; reset 0 (DC 2). -/
  bound   : Bool := false
  /-- R380; 15 bits; reset 0 (DC 2). Peer rank. -/
  peer    : Nat := 0
  /-- R380; 2 bits; reset 0 (DC 2). Traffic class. -/
  cls     : Nat := 0
  /-- R396; 4 bits; reset none. Port that carries the flow, when assigned by R396. -/
  port    : Option Nat := none
  /-- R399; 3 bits; reset none. Position that relays the flow. -/
  relay   : Option Nat := none
  /-- R382; 24 bits; reset 0 (DC 2). Next sequence number to send. -/
  tx      : BitVec 24 := 0
  /-- R382; 24 bits; reset 0 (DC 2). Sequence number expected. -/
  rx      : BitVec 24 := 0
  /-- R386; at most 512; reset empty. Retransmit store, ascending sequence. -/
  unacked : List UFrame := []
  /-- R383; reset empty. Frames that arrived ahead of a gap. -/
  ahead   : List Frame := []
  /-- R385; reset 0. Deliveries not yet acknowledged. -/
  toAck   : Nat := 0
  /-- R385; reset none. Epoch time at which the present gap was last reported. -/
  nackAt  : Option Nat := none
  /-- R395; 1 bit; reset 0. ECE is due on the next acknowledgement. -/
  ece     : Bool := false
  /-- R395; exact; reset 200 Gb/s. Rate in Gb/s. -/
  rate    : Frac := ⟨200, 1⟩
  /-- R395; exact; reset 0 (DC 2). Marked fraction. -/
  marked  : Frac := ⟨0, 1⟩
  /-- R395; reset 0. Acknowledgements, and marked ones, in the interval. -/
  acks    : Nat := 0
  acksCe  : Nat := 0
  /-- R387; 1 bit; reset 0. The flow has failed. -/
  failed  : Bool := false
  /-- R532; reset none. CLOSE_FLOW command that waits: ring pair and submission index. -/
  closing : Option (Nat × Nat) := none
  deriving DecidableEq, Repr

/-- A collective in progress (R400 to R407). -/
structure CollCur where
  desc   : List Byte
  ring   : Option (Nat × Nat)
  /-- R403; messages received or computed: chunk, kind (level + 1, or 17 for a result), index, bytes with their poison. -/
  nodes  : List (Nat × Nat × Nat × List (Byte × Bool))
  /-- R404, R405; chunks, slices or update blocks delivered on this member. -/
  done   : List Nat
  /-- This member's contributions have been sent. -/
  ran    : Bool
  /-- R406; a frame of the same generation has come. -/
  good   : Bool
  /-- R406; a frame of another generation has come. -/
  bad    : Bool
  /-- R407; the CODE with which it ends. -/
  code   : Nat
  /-- R334, R404; a poisoned segment has been delivered. -/
  poison : Bool
  deriving DecidableEq, Repr

/-- A collective queue (R401). -/
structure CollQ where
  /-- R401; 64 bits; reset 0. -/
  qbase   : Nat := 0
  /-- R401; 8 bits; reset 0. -/
  qsize   : Nat := 0
  /-- R401; 32 bits; reset 0. -/
  tail    : BitVec 32 := 0
  /-- R401; 32 bits; reset 0. -/
  head    : BitVec 32 := 0
  /-- R401; 32 bits; reset 0. -/
  errors  : Stat := {}
  /-- R401; 1 bit; reset 0. -/
  stopped : Bool := false
  /-- R406; statistics counter; reset 0 (DC 2). Frames discarded for their generation. -/
  mixed   : Stat := {}
  /-- R401; reset none. -/
  cur     : Option CollCur := none
  /-- R532; reset empty. Descriptors of COLLECTIVE commands. -/
  extra   : List (BitVec 32 × Nat × Nat × List Byte) := []
  deriving DecidableEq, Repr

/-- A barrier channel (R409). -/
structure Channel where
  /-- R409; 9 bits; reset 0. CONFIG.LOCAL. -/
  locArr  : Nat := 0
  /-- R409; 2 bits; reset 0. CONFIG.SCOPE. -/
  scope   : Nat := 0
  /-- R409; 8 bits; reset 0. CONFIG.GROUP. -/
  group   : Nat := 0
  /-- R409; 32 bits; reset 0. -/
  phase   : BitVec 32 := 0
  /-- R409; 16 bits; reset 0. -/
  arrived : Nat := 0
  /-- R417; 32 bits; reset 0. Local shares completed. -/
  shares  : BitVec 32 := 0
  /-- R409; 16 bits; reset 0. -/
  notify  : BitVec 16 := 0
  /-- R409; 64 bits; reset 0. -/
  comps   : Stat := {}
  /-- R425; reset empty. Ranks whose arrival has come, by low 16 bits of the phase, with its flags. -/
  got     : List (Nat × Nat × BitVec 4) := []
  deriving DecidableEq, Repr

/-- A semaphore (R410). -/
structure Sem where
  /-- R410; 32 bits; reset 0. -/
  value  : BitVec 32 := 0
  /-- R410; 32 bits; reset 0. -/
  arm    : BitVec 32 := 0
  /-- R410; 16 bits; reset 0. -/
  notify : BitVec 16 := 0
  deriving DecidableEq, Repr

/-- The HALT register and the stop state (R429 to R433). -/
structure Halt where
  /-- R432; 2 bits; reset 0. SCOPE. -/
  scope  : Nat := 0
  /-- R432; 1 bit; reset 0. SCHED. -/
  sched  : Bool := false
  /-- R432; 3 bits; reset 0. STATE: 0 running, 1 stop scheduled, 2 halted. -/
  state  : Nat := 0
  /-- R432; 1 bit; reset 0. -/
  late   : Bool := false
  /-- R432; 4 bits; reset 0. -/
  source : Nat := 0
  /-- R432; 48 bits; reset 0. -/
  time   : Nat := 0
  /-- R433; 48 bits; reset none. Time in µs of the pending scheduled stop. -/
  due    : Option Nat := none
  deriving DecidableEq, Repr

/-- What the module puts on its links and lines. -/
inductive Out where
  /-- A coupler frame (R368), or on a scale-out port a frame with the bytes of its Ethernet frame (R392). -/
  | frame (port : Nat) (f : Frame)
  | packet (port : Nat) (f : Frame) (bytes : List Byte)
  | flit (port : Nat) (w : Word)
  | identity (port : Nat) (f : IdFrame)
  | lldp (port : Nat)
  | msix (vec : Nat)
  | response (path : Path) (bytes : List Byte)
  /-- R521; a back-invalidation of a line that the host may hold. -/
  | backInv (line : Nat)
  /-- Data that answers a host read, and whether it is poisoned. -/
  | data (bytes : List Byte) (poison : Bool)
  deriving DecidableEq, Repr

end Sys2Proof.Machine
end

