-- ==== Sys2Proof/Machine/TypesStep.lean ====
section
/-! DEFINITION. The state of the numerics watch (R225 to R249), the Tender (R434 to R465), the slot ledger (R469 to R474), the
Waybill and the checkpoint tiers (R483 to R508). -/

namespace Sys2Proof.Machine

/-- A watch slot (R232, R233). -/
structure Slot where
  /-- R232; 64 bits; reset 0. -/
  elements : Stat := {}
  /-- R232; 64 bits; reset 0. -/
  zeros    : Stat := {}
  /-- R232; 64 bits; reset 0. -/
  sats     : Stat := {}
  /-- R232; 64 bits; reset 0. -/
  nonfin   : Stat := {}
  /-- R232; 32 bits; reset 0. AMAX_STEP, FP32. -/
  amax     : Nat := 0
  /-- R232; 32 bits; reset 0. AMAX_LAST, FP32. -/
  amaxLast : Nat := 0
  /-- R232; 16 bits; reset 0. -/
  zshare   : Nat := 0
  /-- R232; 16 bits; reset 0. RUN. -/
  run      : Stat := {}
  /-- R233; 1 bit; reset 0. -/
  alarm    : Bool := false
  /-- R233; 1 bit; reset 0. -/
  empty    : Bool := false
  /-- R235; reset 0. Increments received in the current step: elements, zeros, saturations. -/
  de       : Nat := 0
  dz       : Nat := 0
  ds       : Nat := 0
  deriving DecidableEq, Repr

/-- An agreement record (R242). -/
structure Agree where
  /-- R242; 64 bits; reset 0. -/
  samples : Stat := {}
  /-- R242; 64 bits; reset 0. -/
  skipped : Stat := {}
  /-- R242; 64 bits; reset 0. -/
  above   : Stat := {}
  /-- R242; 32 bits; reset 0. MAXERR, FP32. -/
  maxErr  : Nat := 0
  /-- R242; 32 bits; reset 0. Largest error of the step in progress, FP32. -/
  curErr  : Nat := 0
  deriving DecidableEq, Repr

/-- An event entry before it is posted (R527, R530). -/
structure Event where
  code  : Nat
  arg   : Nat
  step  : Nat
  extra : Nat
  deriving DecidableEq, Repr

/-- The numerics watch. -/
structure Watch where
  /-- R229; 1,024 records. -/
  slots    : SMap Slot := []
  /-- R242; 96 records. -/
  agree    : SMap Agree := []
  /-- R243; 32 bits; reset 0 (DC 2). μ, FP32. -/
  mu       : Nat := 0
  /-- R243; 32 bits; reset 0 (DC 2). v, FP32. -/
  var      : Nat := 0
  /-- R243; 32 bits; reset 0 (DC 2). Last L, FP32. -/
  last     : Nat := 0
  /-- R243, R234; 32 bits; reset 0 (DC 2). Step count. -/
  steps    : Stat := {}
  /-- R243; reset 0 (DC 2). Spike streak; the record shows its low 4 bits. -/
  streak   : Nat := 0
  /-- R246; reset empty. Watch events of the step, which are posted at its end: code, ARG, EXTRA. -/
  due      : List (Nat × Nat × Nat) := []
  /-- R244; 1 bit; reset 0. The step's loss-spike flag, once evaluated. -/
  spike    : Bool := false
  /-- R243; 32 bits each; reset 0. L and d of the step, FP32, as evaluated before the channel 62 contribution. -/
  loss     : Nat := 0
  d        : Nat := 0
  deriving DecidableEq, Repr

/-- A directory entry (R438, R439). -/
structure DirEntry where
  offset : Nat := 0
  pbase  : Nat := 0
  len    : Nat := 0
  shard  : Nat := 0
  gen    : Nat := 0
  valid  : Bool := false
  sum    : Bool := false
  frozen : Bool := false
  strict : Bool := false
  compat : Bool := false
  own    : Bool := false
  preset : Nat := 0
  mclass : Nat := 0
  layer  : Nat := 0
  cleaf  : Nat := 0
  fp8    : Nat := 0
  gout   : Nat := 0
  lr     : Nat := 0
  beta   : Nat := 0
  lambda : Nat := 0
  deriving DecidableEq, Repr

/-- A preset record (R437, R462). -/
structure Preset where
  lr     : Nat := 0
  beta   : Nat := 0
  lambda : Nat := 0
  deriving DecidableEq, Repr

/-- A margin record or its current-step accumulators (R460, R461). -/
structure Margin where
  sumAbs   : Nat := 0
  elements : Nat := 0
  blocks   : Nat := 0
  zeroBlk  : Nat := 0
  n        : Nat := 0
  deriving DecidableEq, Repr

/-- A reduced block on its way to the Tender (R443 to R447): entry, block, generation, group members, element codes. -/
structure TBlock where
  entry : Nat
  block : Nat
  gen   : Nat
  n     : Nat
  vals  : List Word32
  deriving DecidableEq, Repr

/-- An accepted TENDER_INSTALL (R441, R442). -/
structure Install where
  first   : Nat
  entries : List DirEntry
  deriving DecidableEq, Repr

/-- The Tender (R437). -/
structure Tender where
  /-- R437; 1 bit; reset 0. STATUS.ACTIVE: buffer B is active. -/
  active   : Bool := false
  /-- R437; 1 bit; reset 0. STATUS.DONE. -/
  done     : Bool := false
  /-- R437; 1 bit; reset 0. STATUS.CONTRIB. -/
  contrib  : Bool := false
  /-- R431; 1 bit; reset 0. The commit-barrier contribution has been sent. -/
  contrib63 : Bool := false
  /-- R437; 64 bits; reset 0. STEP. -/
  step     : Nat := 0
  /-- R437; 32 bits; reset 0. DONEBLK. -/
  doneBlk  : Nat := 0
  /-- R437; 64 bits each; reset 0. -/
  applied  : Stat := {}
  dropped  : Stat := {}
  mixedGen : Stat := {}
  misrouted : Stat := {}
  duplicates : Stat := {}
  drainStalls : Stat := {}
  skips    : Stat := {}
  commits  : Stat := {}
  /-- R438; 65,536 entries; reset 0. -/
  dir      : SMap DirEntry := []
  /-- R437; 8 × 3 × 32 bits; reset 0 (DC 2). -/
  presets  : SMap Preset := []
  /-- R461; 16 records; reset 0. Last committed step. -/
  margins  : SMap Margin := []
  /-- R460; 16 accumulators; reset 0. Current step. -/
  marginAcc : SMap Margin := []
  /-- R445; reset empty. Blocks applied or dropped in the step. -/
  record   : List (Nat × Nat) := []
  /-- R447; 1,024 blocks; reset empty. Queue, oldest first. -/
  queue    : List TBlock := []
  /-- R41; 1 bit; reset 0. The oldest block waits for a drain. -/
  stalled  : Bool := false
  /-- R455; reset empty. Strict frozen entries already reported in the step. -/
  strictEv : List Nat := []
  /-- R453; reset empty. qm and qw of each compat block that has passed pass 1. -/
  qblk     : List (Nat × Nat × Nat × Nat) := []
  /-- R453; reset empty. Leaf partials by layer and leaf. -/
  qleaf    : List (Nat × Nat × Nat × Nat) := []
  /-- R453; reset empty. Ratio of each layer whose partials are complete. -/
  rho      : SMap (Option Nat) := []
  /-- R442; reset empty. Installs accepted for the next boundary. -/
  installs : List Install := []
  /-- R442; reset empty. Frozen entries whose copy into the inactive buffer is due. -/
  copies   : List Nat := []
  /-- R34, R458; reset empty. Directory entries whose FP8 copy of the last commit is still to be regenerated, ascending. -/
  regen    : List Nat := []
  /-- R35; 1 bit; reset 0. The module's non-finite flag of the step. -/
  nonfin   : Bool := false
  /-- R427; 1 bit; reset 0. The module's stop-request flag of the step. -/
  stopReq  : Bool := false
  /-- R426; reset none. The channel 62 result of the step: non-finite, spike, stop request. -/
  result62 : Option (Bool × Bool × Bool) := none
  /-- R37; 1 bit; reset 0. Local decision of the step: skip. -/
  skipBit  : Bool := false
  /-- R428; reset none. The final decision at the channel 63 root, when this module is the root. -/
  final    : Option Bool := none
  /-- R431; 1 bit; reset 0. A stop of rake or consist scope has reached this module as the channel 63 root in this step. -/
  stop63   : Bool := false
  /-- R346; 256 bits; reset 0 (DC 2). Seed root. -/
  seed     : BitVec 256 := 0
  /-- R346; 48 bits; reset 0 (DC 2). Dataset size n. -/
  n        : Nat := 0
  /-- R451; 64 bits; reset 0 (DC 2). kt. -/
  kt       : Nat := 0
  /-- R346; 1 bit; reset 0. A RUN_START has been accepted and applied since power-on. -/
  run      : Bool := false
  deriving DecidableEq, Repr

/-- The slot ledger (R470). -/
structure Ledger where
  /-- R470; 13 bits; reset 0. CONFIG.B. -/
  b       : Nat := 0
  /-- R470; 6 bits; reset 0. CONFIG.P − 1. -/
  p1      : Nat := 0
  /-- R470; 1 bit; reset 0. STATUS.ORDER. -/
  order   : Bool := false
  /-- R470; 16 bits; reset 0. OPENED. -/
  opened  : Nat := 0
  /-- R470; 64 bits; reset 0. -/
  rejects : Stat := {}
  /-- R470; 64 × 16 bits; reset 0. FOLD. -/
  fold    : SMap Nat := []
  /-- R470; 64 × 16 bits; reset 0xFFFF. SLOT: the micro-batch of each slot in use. -/
  slot    : SMap (Option Nat) := []
  /-- R472; reset empty. Micro-batches opened in the step. -/
  used    : List Nat := []
  deriving DecidableEq, Repr

/-- A save in progress (R498): its label, start time, checkpoint slot, the consist number and layout generation at its start (R497),
whether it drains buffer B, the directory and the scale history that it saves, and the blocks read out so far. -/
structure Save where
  label  : Nat
  start  : Nat
  slot   : Nat
  consist : Nat
  gen    : Nat
  bufB   : Bool
  dir    : SMap DirEntry
  hist   : List Byte
  read   : List (Nat × Nat)
  blocks : SMap (List Byte)
  staged : Bool
  deriving DecidableEq, Repr

/-- One shard of a checkpoint: PBASE (none for the scale history), LEN, GEN, digest and bytes (R496, R497). -/
structure Shard where
  pbase  : Option Nat
  len    : Nat
  gen    : Nat
  digest : Nat
  data   : List Byte
  deriving DecidableEq, Repr

/-- A checkpoint slot (R494, R497). -/
structure Ckpt where
  label   : Nat
  consist : Nat
  gen     : Nat
  rank    : Nat
  tier    : Nat
  shards  : List Shard
  mandig  : Nat
  deriving DecidableEq, Repr

/-- The Waybill and the tiers (R492). -/
structure Waybill where
  /-- R492; 64 bits; reset 0. LAST. -/
  last     : Nat := 0
  /-- R492; 64 bits; reset 0. -/
  flashed  : Nat := 0
  /-- R492; 64 bits; reset 0. -/
  ready    : Nat := 0
  /-- R492; 64 bits; reset 0. -/
  replayTo : Nat := 0
  /-- R492; 3 × 64 bits; reset 0. LABEL. -/
  labels   : SMap Nat := []
  /-- R492; 1 bit; reset 0. -/
  mirrorLost : Bool := false
  /-- R492; 1 bit; reset 0. -/
  stageLate : Bool := false
  /-- R492; 1 bit; reset 0. -/
  diverged : Bool := false
  /-- R492; 64 bits; reset 0. -/
  timeouts : Stat := {}
  /-- R492; 64 bits; reset 0. -/
  skipped  : Stat := {}
  /-- R492; 64 bits; reset 0. -/
  divergences : Stat := {}
  /-- R485; 4,096 bytes; reset 0. Stage record. -/
  stage    : SMap (BitVec 8) := []
  /-- R486; 1 bit; reset 0. The stage-late event of the step has been posted. -/
  lateSent : Bool := false
  /-- R487; 1 bit; reset 0. Entry of the step in progress is built. -/
  built    : Bool := false
  /-- R38; 1 bit; reset 0. Entry of the step in progress is durable. -/
  durable  : Bool := false
  /-- R487; reset none. Step of the entry whose partner acknowledgement is awaited. -/
  toPartner : Option Nat := none
  /-- R488; reset empty. Steps whose flash-mirror writes run, oldest first, with their entries. -/
  flashQ   : List (Nat × List Byte) := []
  /-- R488; reset 0. Consecutive entries that the partner acknowledged in time since it was lost. -/
  acksInTime : Nat := 0
  /-- R488; 1 bit; reset 0. Entries go to the partner and to flash together. -/
  both     : Bool := false
  /-- R483; 1,048,576 entries; reset empty (DC 2). Flash mirror by slot, apart from State.flash: R22 gives it no place (DESIGN CHOICE,
  row 74). -/
  flashRing : SMap (List Byte) := []
  /-- R483; reset empty (DC 2). Mirror ring held for the partner, by slot. -/
  mirrorRing : SMap (List Byte) := []
  /-- R490; reset empty. Epoch times of decision mismatches. -/
  mismatches : List Nat := []
  /-- R512; reset empty. Epoch times of divergences that named a shard. -/
  divTimes : List Nat := []
  /-- R512; 1 bit; reset 0. A self-test is due, or the module is suspect. -/
  testDue  : Bool := false
  suspect  : Bool := false
  /-- R490; 1 bit; reset 0. The module is withdrawn from service. -/
  withdrawn : Bool := false
  /-- R502; reset none. Saves running, by tier from 0. -/
  saves    : SMap (Option Save) := []
  /-- R502; reset 0. Epoch time at which each tier's last save started. -/
  lastSave : SMap Nat := []
  /-- R494, R495; reset empty. Checkpoints held, by 2 × tier + slot; those of tier 2 lie apart from State.flash, where R22 gives them no
  place (DESIGN CHOICE, row 74). -/
  slots    : SMap (Option Ckpt) := []
  /-- R495; reset empty. Staging slots written and not yet released. -/
  unreleased : List Nat := []
  /-- R219; 1 bit; reset 0. The scale history is missing. -/
  noHistory : Bool := false
  /-- R220; reset 0. Committed steps of cold start still to come. -/
  cold     : Nat := 0
  /-- R224; reset 0. The step in which that cold start began. -/
  coldAt   : Nat := 0
  /-- R503; 32 bits; reset 0 (DC 2). Cluster MTBF in force, s. -/
  mtbf     : Nat := 0
  /-- R489; reset empty. Durable entries that have not reached the flash mirror. -/
  toFlash  : List (Nat × List Byte) := []
  /-- R484; reset 0. Tiers whose saves started at the commit that opened the step in progress, and the rates then in force. -/
  tiersNow : Nat := 0
  /-- R508; reset none. Entry of the step being replayed. -/
  entry    : List Byte := []
  /-- R490, R491; reset none. Step whose rewritten entry is not yet durable. -/
  rewrite  : Option Nat := none
  /-- R484; reset empty. Scale-history region as it was when the step in progress began. -/
  histAt   : List Byte := []
  /-- R484; 64 bits; reset 0. Epoch time at which the channel 62 result arrived. -/
  stampAt  : Nat := 0
  /-- R488; reset 0. Epoch time at which the entry of `toPartner` was sent. -/
  sentAt   : Nat := 0
  /-- R488; 1 bit; reset 0. That entry has been waited for in vain for 200 µs. -/
  timedOut : Bool := false
  /-- R491; 64 bits; reset 0. LAST before the entry of the step in progress became durable. -/
  prevLast : Nat := 0
  /-- R508; reset none. A replayed step that has ended and is not yet compared: step, FINITE, entry. -/
  toCheck  : Option (Nat × Bool × List Byte) := none
  deriving DecidableEq, Repr

end Sys2Proof.Machine
end

