-- ==== Sys2Proof/Machine/TypesHost.lean ====
section
/-! DEFINITION. The state of the host attachment (R515 to R539, R598 to R616), of time (R540 to R551), of power and coolant (R552
to R568), of Thonar (R569 to R597) and of the module's supply and reset (R620 to R633), and the settings of a consist (R588). -/

namespace Sys2Proof.Machine

/-- A fetched ring command (R525, R526). -/
structure RingCmd where
  idx     : BitVec 32
  op      : Nat
  irq     : Bool
  order   : Bool
  cid     : Nat
  rsvOk   : Bool
  params  : List Byte
  started : Bool
  /-- The command completes at the next resume with status 6 (R509, R517). -/
  stale   : Bool
  /-- Status and RESULT of an executed command whose completion is not yet written. -/
  done    : Option (Nat × Nat)
  deriving DecidableEq, Repr

/-- A ring pair (R523, R524, R607, R610). -/
structure Pair where
  /-- R607; 52 bits; reset 0. RING_BASE.ADDR. -/
  addr     : Nat := 0
  /-- R607; 64 bits; reset 0. RING_CFG as last accepted: its fields but EN. -/
  cls      : Nat := 0
  watch    : Bool := false
  size     : Nat := 0
  vec      : Nat := 0
  coalCnt  : Nat := 0
  coalTime : Nat := 0
  /-- R610; 2 bits; reset 0. STATE: 0 Off, 1 On, 2 Draining. EN reads whether it is On. -/
  state    : Nat := 0
  /-- R610; 4 bits; reset 0. -/
  err      : Nat := 0
  /-- R610; 24 bits; reset 0. -/
  discards : Stat := {}
  /-- R524; 32 bits; reset 0. Submission tail. -/
  sqTail   : BitVec 32 := 0
  /-- R610; 32 bits; reset 0. SQ_HEAD. -/
  sqHead   : BitVec 32 := 0
  /-- R610; 32 bits; reset 0. CQ_TAIL. -/
  cqTail   : BitVec 32 := 0
  /-- R524; 32 bits; reset 0. Completion head. -/
  cqHead   : BitVec 32 := 0
  /-- R526; at most 16; reset empty. Commands fetched and not completed, in submission order. -/
  cmds     : List RingCmd := []
  /-- R537; reset 0. Completions that await signalling, and the epoch time at which the oldest began to. -/
  toSignal : Nat := 0
  sigAt    : Nat := 0
  /-- R509; 32 bits; reset 0. Submission tail at the last stop. -/
  snap     : BitVec 32 := 0
  /-- R509; reset none. Submission tail at the last resume, while entries before it are still to be fetched. -/
  hold     : Option (BitVec 32) := none
  deriving DecidableEq, Repr

/-- An accepted command that takes effect at a boundary (R534). -/
structure BCmd where
  ring   : Nat
  idx    : BitVec 32
  op     : Nat
  params : List Byte
  deriving DecidableEq, Repr

/-- The rings, events and MSI-X. -/
structure Rings where
  /-- R523; 256 pairs. -/
  pairs   : SMap Pair := []
  /-- R529; 256 events; reset empty. Events raised and not yet posted, oldest first. -/
  events  : List Event := []
  /-- R610; 24 bits; reset 0. RING_STAT.LOST. -/
  lost    : Stat := {}
  /-- R530; reset 0. Events lost since the last posted event. -/
  lostNow : Nat := 0
  /-- R534; reset empty. Boundary commands in order of acceptance. -/
  boundary : List BCmd := []
  /-- R612; 64 entries of 128 bits; reset address, data 0 and masked (PRESUMED 9). Bits [95:0] of each entry. -/
  msixAddr : SMap (BitVec 96) := []
  /-- R612; 64 × 1 bit; reset masked (PRESUMED 9). Vectors whose mask bit is clear. -/
  unmasked : BitVec 64 := 0
  /-- R612; 1 bit; reset 0 (PRESUMED 9). Function mask. -/
  funcMask : Bool := false
  /-- R612; 64 bits; reset 0 (PRESUMED 9). Pending-bit array. -/
  pba     : BitVec 64 := 0
  /-- R600; reset empty. High halves latched, by requester and register. -/
  latched : List (Nat × HalfReg × BitVec 32) := []
  deriving DecidableEq, Repr

/-- A signed fraction. -/
structure SFrac where
  num : Int
  den : Nat
  deriving DecidableEq, Repr

/-- A setting of the time of day that waits for an edge (R550): who asked, T, STEP, and when it was accepted. -/
structure TodSet where
  ring : Option (Nat × BitVec 32)
  ask  : Option Ticket
  t    : Nat
  step : Bool
  at0  : Nat
  deriving DecidableEq, Repr

/-- An epoch alarm (R551). -/
structure Alarm where
  /-- R551; 64 bits; reset 0 (DC 2). -/
  time   : Nat := 0
  /-- R551; 16 bits; reset 0 (DC 2). -/
  notify : BitVec 16 := 0
  /-- R551; 1 bit; reset 0 (DC 2). -/
  fired  : Bool := false
  /-- R551; 1 bit; reset 0 (DC 2). -/
  late   : Bool := false
  /-- R551; 1 bit; reset 0. Armed for one firing. -/
  armed  : Bool := false
  deriving DecidableEq, Repr

/-- Epoch time (R540 to R551). -/
structure Time where
  /-- R540; 64 bits; reset 0. EPOCH, ns. -/
  ns       : Nat := 0
  /-- R540; 32 bits; reset 0. Fraction below the nanosecond. -/
  frac     : Nat := 0
  /-- R546; reset 0. Raw TCXO ticks since power-on. -/
  ticks    : Nat := 0
  /-- R543; 2 bits; reset 0. STATE: 0 Free, 1 Acquiring, 2 Locked, 3 Holdover. -/
  state    : Nat := 0
  /-- R543; 1 bit; reset 0. -/
  set      : Bool := false
  /-- R543; 1 bit; reset 0. -/
  alarm    : Bool := false
  /-- R543; 1 bit; reset 0. -/
  envFault : Bool := false
  /-- R542; 32 bits signed; reset 0. Correction c in units of 10⁻⁹. -/
  c        : SFrac := ⟨0, 1⟩
  /-- R546; reset 0 (DC 2). y in units of 10⁻⁹. -/
  y        : SFrac := ⟨0, 1⟩
  /-- R542; 64 bits signed; reset 0. PHASE. -/
  phase    : Int := 0
  /-- R550; reset 0. Offset in whole seconds, as ns, that a setting has added to the phase error. -/
  offset   : Int := 0
  /-- R550; reset 0. With no time source, ticks of 50 ppm correction still to come, signed. -/
  slew     : Int := 0
  /-- R548; 32 bits as HOLD; reset 0. Epoch time at which the holdover began, and whether its alarm has been raised. -/
  holdAt   : Nat := 0
  holdEv   : Bool := false
  /-- R542; 32 bits; reset 0. -/
  rejected : Stat := {}
  /-- R545; reset none. Epoch time, and ticks, of the last accepted edge. -/
  lastEdge : Option (Nat × Nat) := none
  /-- R546; 1 bit; reset 0. The previous edge was accepted. -/
  prevOk   : Bool := false
  /-- R547; reset 0. Consecutive accepted edges with |e| < 100 ns. -/
  good     : Nat := 0
  /-- R545; reset empty. Epoch times of consecutive rejected edges, newest first. -/
  rej      : List Nat := []
  /-- R551; 240 records. -/
  alarms   : SMap Alarm := []
  /-- R550; reset empty. Settings that wait for an edge, in order of acceptance. -/
  tods     : List TodSet := []
  /-- R549; 1 bit; reset 0. PPS_OUT. -/
  ppsOut   : Bool := false
  deriving DecidableEq, Repr

/-- Supply, rails, the governor and coolant (R47 to R54, R552 to R568). -/
structure Power where
  /-- R552; mV; reset 700 (R47, nominal). Core rail, west and east. -/
  coreW   : Nat := 700
  coreE   : Nat := 700
  /-- R552; mV; reset 750 (R47, nominal). SRAM rail, west and east. -/
  sramW   : Nat := 750
  sramE   : Nat := 750
  /-- R48; mV; reset as the rails. Targets to which Thonar moves the rails. -/
  tCoreW  : Nat := 700
  tCoreE  : Nat := 700
  tSramW  : Nat := 750
  tSramE  : Nat := 750
  /-- R48; 1 bit; reset 0. A pace change is in progress. -/
  changing : Bool := false
  /-- R53; mV; reset none. Pace command in force: west and east. -/
  paceCmd : Option (Nat × Nat) := none
  /-- R49; mV; reset none. Core rail to which a reduction holds each half. -/
  capW    : Option Nat := none
  capE    : Option Nat := none
  /-- R49; 1 bit each; reset 0. Draw has passed 2,200 W and not yet fallen below 2,150 W; both halves exceed 105 °C. -/
  tdp     : Bool := false
  hot     : Bool := false
  /-- R49; 1 bit; reset 0. The pace-limited event of the step has been raised. -/
  limEv   : Bool := false
  /-- R597; mV signed; reset 0. Offset from the trim set at test, west and east, applied and due. -/
  trimW   : Int := 0
  trimE   : Int := 0
  /-- R562; 1 bit each; reset 0. LIMITED, FILL, THROTTLE, SHORT, LEAK, TRIP, ENVFAULT. -/
  limited : Bool := false
  fill    : Bool := false
  throttle : Bool := false
  short   : Bool := false
  leak    : Bool := false
  trip    : Bool := false
  envFault : Bool := false
  /-- R562; 16 bits; reset 0 (DC 2). DRAW, W. -/
  draw    : Nat := 0
  /-- R555; tenths of a watt; reset 0 (DC 2). Governor target t. -/
  target  : Nat := 0
  /-- R562; 16 bits; reset 0 (DC 2). PREDICT, W. -/
  predict : Nat := 0
  /-- R557; reset empty. Mean draw of the last committed steps, newest first. -/
  means   : List Nat := []
  /-- R557; reset 0. Sum and number of draw samples in the step. -/
  sum     : Nat := 0
  cnt     : Nat := 0
  /-- R558; reset empty. Offsets of rises in the step and in the last 4 committed steps, in 0.1 ms, with the draw reached. -/
  rises   : List (Nat × Nat) := []
  past    : List (List (Nat × Nat)) := []
  /-- R558; reset empty. Draws without filler of the last ten samples of the step, newest first. -/
  recent  : List Nat := []
  /-- R562; reset empty. Input draws of the last 1 ms, newest first. -/
  acts    : List Nat := []
  /-- R561; 64 bits; reset 0. PWR_RAMP. -/
  rampLevel : Nat := 0
  rampEn  : Bool := false
  rampTime : Nat := 0
  /-- R561; 1 bit; reset 0. The ramp's TIME has been reached. -/
  rampOn  : Bool := false
  /-- R566; 16 bits signed; reset 0 (DC 2). INLET and OUTLET. -/
  inlet   : BitVec 16 := 0
  outlet  : BitVec 16 := 0
  /-- R566; 16 bits; reset 0xFFFF (DC 2). FLOW. -/
  flow    : Nat := 0xFFFF
  /-- R565; 10 bits; reset 41 (DC 2). D. -/
  duty    : Nat := 41
  /-- R565; reset none. Epoch time of the last thermal trip. -/
  tripAt  : Option Nat := none
  /-- R566; 1 bit; reset 0. LEAK_N driven low. -/
  leakLow : Bool := false
  /-- R567; reset empty. Environment quantities that stand in fault, as coded in R530. -/
  envSet  : List Nat := []
  /-- R52; reset 0. Minimum, mean and maximum rate count of each half, and the epoch time of the samples. -/
  paceRep : List Nat := [0, 0, 0, 0, 0, 0, 0]
  deriving DecidableEq, Repr

/-- The supply, reset lines, rails and link (R20 to R23, R516, R602 to R604, R620, R630 to R633). -/
structure Sys where
  /-- R620; 1 bit; reset 1 (DC 4). The module is seated: PRESENT_N low. -/
  seated   : Bool := true
  /-- R632; 1 bit; reset 1 (DC 4). The input has reached 40 V. -/
  input    : Bool := true
  /-- R630; 1 bit; reset 1 (DC 4). HOST_RST_N. -/
  hostRstN : Bool := true
  /-- R620; 1 bit; reset 1 (DC 4). HALT_N. -/
  haltN    : Bool := true
  /-- R21; 1 bit; reset 1 (DC 4). Thonar's image is verified and runs. -/
  thonar   : Bool := true
  /-- R21; 1 bit each; reset 1 (DC 4). Verified images: microcode, Tender, memory controllers, DSPs. -/
  imgUcode : Bool := true
  imgTender : Bool := true
  imgMem   : BitVec 8 := 0xFF
  imgDsp   : BitVec 4 := 0xF
  /-- R553; 1 bit each; reset on (DC 4). Rails: stacks, SRAM and core, engines. -/
  railMem  : BitVec 8 := 0xFF
  railCore : Bool := true
  railEng  : BitVec 4 := 0xF
  /-- R601; 1 bit; reset 0 (DC 4). CXL.io is up. -/
  cxlUp    : Bool := false
  /-- R603; 1 bit; reset 0. READY. -/
  ready    : Bool := false
  /-- R374, R567; 64 bits; reset 0. Epoch time at which READY last became 1. -/
  readyAt  : Nat := 0
  /-- R603; 1 bit; reset 0. KEY_PENDING. -/
  keyPend  : Bool := false
  /-- R604; 2 bits; reset 0 (DC 2). RATE. -/
  rate     : Nat := 0
  /-- R604; 5 bits; reset 0 (DC 2). WIDTH. -/
  width    : Nat := 0
  /-- R604; 1 bit; reset 0. -/
  ideCm    : Bool := false
  /-- R604; 1 bit; reset 0. -/
  ideIo    : Bool := false
  /-- R602; 31 bits; reset 0. GEOM_WR. -/
  geomWr   : Stat := {}
  /-- R28; 32 bits; reset 0 (DC 2). Map generation. -/
  mapGen   : Nat := 0
  /-- R28; 16 bits; reset 96. Active coaches. -/
  active   : Nat := 96
  /-- R28; 100 bytes; reset fuses (DC 5). Position bytes. -/
  posMap   : List (BitVec 8) := []
  /-- R554; 1 bit; reset 0. Rails off after a supply trip, thermal trip or leak. -/
  tripped  : Bool := false
  /-- R566; 1 bit; reset 0. The rails went off for a leak: HOST_RST_N does not restore them. -/
  leakTrip : Bool := false
  /-- R516; 1 bit; reset 0. The link is reported down to Thonar. -/
  linkDown : Bool := false
  deriving DecidableEq, Repr

/-- A session (R574 to R576): offered until proved. -/
structure Session where
  sid  : Nat
  path : Path
  slot : Nat
  nr   : List Byte
  nt   : List Byte
  ks   : List Byte
  seq  : Nat
  last : Nat
  isOpen : Bool
  deriving DecidableEq, Repr

/-- A firmware image (R583). -/
structure Image where
  comp    : Nat
  version : Nat
  svn     : Nat
  compat  : Nat
  digest  : Nat
  deriving DecidableEq, Repr

/-- A firmware component's slots (R583 to R585). -/
structure Fw where
  /-- R583; 1 bit; reset slot A (DC 2). -/
  slotB   : Bool := false
  /-- R583; reset an image of version 0 (DC 2). -/
  a       : Option Image := some ⟨0, 0, 0, 0, 0⟩
  /-- R583; reset empty (DC 2). -/
  b       : Option Image := none
  /-- R585; 32 bits; reset 0 (DC 2). Fused minimum security version. -/
  minSvn  : Nat := 0
  /-- R583; reset empty. Bytes loaded of the image in progress, and the total length announced. -/
  staged  : SMap (Option Byte) := []
  stageLen : Nat := 0
  deriving DecidableEq, Repr

/-- What Thonar does under R580. -/
inductive PrivOp where
  | consist
  | firmware (comp : Nat) (ask : Option Ticket)
  | retrain
  | calibrate (next stop : Nat) (ask : Option Ticket)
  | substitute (coach : Nat) (ask : Ticket)
  deriving DecidableEq, Repr

/-- The settings of a consist (R586 to R588); the factory consist (R593) holds the defaults (row 73 of the log where the spec gives
none). -/
structure Consist where
  number    : Nat := 0
  digest    : Option Nat := none
  probation : Nat := 600
  expert    : BitVec 13 := 0
  target    : BitVec 384 := 0
  -- section 0x01
  rank      : Nat := 0
  rake      : Nat := 0
  position  : Nat := 0
  populated : BitVec 8 := 0
  digests   : SMap (BitVec 384) := []
  partner   : Option Nat := none
  -- section 0x02: 0.1 V, 0.125 °C, 0.01 L/min
  vinLo     : Nat := 400
  vinHi     : Nat := 580
  inletLo   : Nat := 160
  inletHi   : Nat := 320
  minFlow   : Nat := 400
  ppsIn     : Bool := false
  ppsOut    : Bool := false
  -- section 0x03
  bufA      : Nat := 0x10000000
  bufB      : Nat := 0x20000000
  bufSize   : Nat := 0
  scratch   : Nat := 0x30000000
  store     : Nat := 0x50000000
  ring      : Nat := 0x40000000
  entries   : Nat := 65536
  histBase  : Nat := 0
  histLen   : Nat := 0
  rtab      : Nat := 0
  rcount    : Nat := 0
  rsem      : Nat := 0
  mover     : Nat := 0
  -- section 0x04
  pace      : Nat := 1
  rails     : List Nat := [700, 750, 700, 750]
  floorMv   : Option Nat := none
  -- section 0x05
  key       : BitVec 32 := 0
  prot      : List (Nat × Nat × Bool) := []
  pageBits  : SMap Bool := []
  scrubS    : Nat := 24
  scrubA    : Nat := 0
  -- section 0x06
  wpol      : List (Nat × Nat × Bool) := []
  merge     : Nat := 256
  -- section 0x07
  gating    : Nat := 4096
  -- section 0x08
  presets   : SMap Preset := []
  layers    : SMap (Nat × Nat) := []
  -- section 0x09, for activations and for activation gradients: whether the conservative preset is selected, and the expert level's history
  -- length and margin
  recipePreset : List Bool := [false, false]
  recipes   : List (Nat × Nat) := [(16, 1), (16, 1)]
  -- section 0x0A
  slotClass : SMap Nat := []
  classOn   : BitVec 5 := 0x1F
  slotT     : SMap (Option Nat) := []
  slotLen   : SMap (Option Nat) := []
  slotS     : SMap (Option Nat) := []
  slotAlarm : SMap (Option (BitVec 2)) := []
  sampler   : Option Nat := some 12
  agreeThr  : Nat := 0x3B800000
  lossOn    : Bool := true
  alpha     : Nat := 0x3C800000
  z         : Nat := 0x40C00000
  warmup    : Nat := 64
  -- section 0x0B
  mtbf      : Nat := 0
  rate3     : Nat := 1
  intervals : List Nat := [2000000, 30000000, 300000000]
  staging   : Nat := 0
  stagingSz : Nat := 0
  -- section 0x0C
  slewPreset : Nat := 1
  slew      : Nat := 20
  floorFrac : Nat := 56
  lead      : Nat := 20
  -- section 0x0D
  rounds    : Nat := 4
  shardMap  : List Nat := [0]
  -- section 0x0E
  taps      : SMap (List Int) := []
  freeze    : BitVec 12 := 0
  pmd       : SMap Nat := []
  lldp      : SMap (List Byte × List Byte) := []
  -- section 0x0F
  ranks     : List (Nat × Nat) := [(0, 0)]
  addrs     : SMap (BitVec 128) := []
  udpPort   : Nat := 50212
  dscp      : List Nat := [46, 34, 10]
  flows     : List (Nat × Nat × Nat) := []
  groups    : SMap (Nat × List Nat) := []
  exch      : SMap (List Nat × List Nat) := []
  -- section 0x10
  haltAll   : Bool := false
  freesem   : Nat := 0
  foldsem   : Nat := 1
  -- section 0x11
  hostFree  : Bool := false
  deriving DecidableEq, Repr

/-- Thonar: paths, mailbox, sessions, credentials, firmware and consists (R569 to R597, R613 to R615). -/
structure Mgmt where
  /-- R613; 1 bit; reset 0. MGMT_CTRL.IEN. -/
  ien      : Bool := false
  /-- R613; 6 bits; reset 0. -/
  vec      : Nat := 0
  /-- R613; 2 bits; reset 0. STATE. -/
  state    : Nat := 0
  /-- R613; 1 bit; reset 0. -/
  done     : Bool := false
  /-- R613; 1 bit; reset 0. -/
  reject   : Bool := false
  /-- R613; 13 bits; reset 0. LEN. -/
  len      : Nat := 0
  /-- R613; 4,096 bytes; reset 0. MGMT_BUF. -/
  buf      : SMap (BitVec 8) := []
  /-- R614; reset none. Response that waits to be put into the mailbox. -/
  resp     : Option (List Byte) := none
  /-- R615; reset 0. Resets of the mailbox: responses to requests taken before the last one are discarded. -/
  boxGen   : Nat := 0
  /-- R569; reset empty. Requests that passed their checks, with their payloads, oldest first. -/
  inbox    : List (Ticket × List Byte) := []
  /-- R576; 8 sessions; reset empty. Sessions offered and open. -/
  sessions : List Session := []
  /-- R577; reset empty. Failed proofs: path and epoch time. -/
  fails    : List (Path × Nat) := []
  /-- R577; reset empty. Locked paths and the end of their lockout. -/
  locked   : List (Path × Nat) := []
  /-- R573; 4 × 256 bits; reset slot 0 provisioned (R634). -/
  creds    : SMap (Option (BitVec 256)) := []
  /-- R572; reset none (DC 2). Operator's consist public key. -/
  opKey    : Option (List Byte) := none
  /-- R583; 15 components, by COMP of R582. -/
  fw       : SMap Fw := []
  /-- R580; reset none. Privileged operation in progress. -/
  priv     : Option PrivOp := none
  /-- R584; reset empty. Logical coaches still to move onto new microcode. -/
  ucodeLeft : List Nat := []
  /-- R584; reset none. Step in which the last coach moved onto new microcode. -/
  ucodeAt  : Option Nat := none
  /-- R589; 1 MiB; reset empty. Staging area, and the total size announced. -/
  stage    : SMap (Option Byte) := []
  stageLen : Nat := 0
  /-- R589; reset none. Staged consist that passed its checks. -/
  staged   : Option Consist := none
  /-- R603; reset the factory consist (R634). Current consist. -/
  cur      : Consist := {}
  /-- R590; reset none. Previous consist. -/
  prev     : Option Consist := none
  /-- R590, R593; reset none. Change accepted: step (0 next quiescent point), kind 0 apply, 1 revert, 2 factory. -/
  change   : Option (Nat × Nat) := none
  /-- R589; 32 bits; reset 0. Highest number ever accepted. -/
  maxNum   : Nat := 0
  /-- R591; reset none. Epoch time at which probation ends. -/
  probEnd  : Option Nat := none
  /-- R591; reset 0. Epoch time of the last commit, or of the start of probation. -/
  lastCommit : Nat := 0
  /-- R595; reset 0 (DC 2). Flash blocks retired, and whether the flash is read-only. -/
  flashBad : List Nat := []
  flashRo  : Bool := false
  /-- R596; reset none. Sensor under calibration. -/
  sensor   : Option Nat := none
  deriving DecidableEq, Repr

end Sys2Proof.Machine
end

