-- ==== Sys2Proof/Config.lean ====
section
/-! DEFINITION. What one part fixes, and the values that the spec leaves open: constants without a body, so that nothing can
be proved of their values (rows 5 to 8 of the assumption log). -/

namespace Sys2Proof.Config

open Sys2Proof Sys2Proof.Machine

/-- The n-th free value of a run: a value that the spec leaves open after a command that goes on. -/
opaque freeValue : Nat → Nat

/-- R13: the physical position (row × 10 + column) of each coach, spare fuses applied.  UNSAFE as a choice of fuses: row 5. -/
def fusedSpares : List Nat := [93, 94, 47, 99]

/-- R602: SYS_ID.STEP of the part, 1 for A1 and 2 for B0, from fuses (R2). -/
opaque stepping : Bool

/-- R602: the part's serial number. -/
opaque serial : Word

/-- R581: the device identity: public key, certificate. -/
opaque deviceKey : List Byte
opaque certificate : List Byte

/-- R581, R582: the ECDSA signature of the device identity over a SHA-384 digest, r then s. -/
opaque sign : Nat → Nat → List Byte

/-- R372, R583, R589: whether a signature verifies: key bytes, signed bytes, signature. -/
opaque verify : List Byte → List Byte → List Byte → Bool

/-- R583: Keaduot's firmware key. -/
opaque firmwareKey : List Byte

/-- R583: the image that loaded bytes spell: its description and its signature; the spec gives it no byte layout. -/
opaque parseImage : List Byte → Option (Image × List Byte)

/-- R588: the settings that a consist's bytes spell; the spec gives the sections no byte layout. -/
opaque parseConsist : List Byte → Option Consist

/-- R573, R634: the session credential of slot 0, set at manufacture. -/
opaque credential0 : BitVec 256

/-- R582: version, security version and digest of the measurement records of the Thonar ROM and of the fuse configuration, and the
security version of the active consist's record, by COMP; the digest of the factory consist (R634). -/
opaque measureVersion : Nat → Nat
opaque measureSvn : Nat → Nat
opaque measureDigest : Nat → Nat

/-- R583: the bytes of an image that its digest covers. -/
opaque imageBody : List Byte → List Byte

/-- R595: the number of flash blocks that hold its usable capacity; the spec gives no block size. -/
opaque flashBlocks : Nat

/-- R596: the number of sensors; the spec does not enumerate them. -/
opaque sensorCount : Nat

/-- R116: the operation that a vector word selects in the classes whose op codes the spec does not assign; none is unassigned. -/
opaque vecSel : BitVec 32 → Option VecSel

/-- R116: the source element that a permute takes for a destination element: operation, element width, index, sources. -/
opaque permIndex : BitVec 4 → BitVec 2 → Nat → BitVec 2048 → BitVec 2048 → Nat

/-- R116: what VMOV moves between a vector and a scalar register: element width, predicate and the source. -/
opaque vecToScalar : BitVec 2 → BitVec 256 → BitVec 2048 → Word
opaque scalarToVec : BitVec 2 → BitVec 256 → Word → BitVec 2048

/-- R46, R47: the temperature-corrected difference between a half's mean rate count and its beat length, per 1,000. -/
opaque trimError : Nat → Nat → Int

/-- R530: the locator of a counter for which the table of units has no entry (row 67 of the log): kind, instance, bit. -/
opaque openLocator : Nat → Nat → Nat → Nat

end Sys2Proof.Config
end

