-- ==== Sys2Proof/Machine/State.lean ====
section
/-! DEFINITION. The state of the module, the reasons a step can stop, and the state right after reset. -/

namespace Sys2Proof.Machine

/-- Why the machine stops. -/
inductive Fault where
  /-- Raised by the meanings of commands that carry data from outside or a memory address (a frame, a datagram, remote data, a host
  access, a Waybill entry, a block, a codeword or line of memory) when the operands are not well formed (`Sys2Proof.wf`): no such
  event can reach the hardware.  Safe: the model stops where the hardware has nothing to do. -/
  | illFormed
  deriving DecidableEq, Repr

/-- Why a command has no meaning. -/
inductive Refusal where
  /-- Raised by `exec` for a command whose meaning is not written.  Safe: nothing can be proved of such a command. -/
  | notModelled (mnemonic : String)
  deriving DecidableEq, Repr

/-- The state of the module. -/
structure State where
  /-- Commands that wait, first in, first out; reset empty. The model's own. -/
  pending : List Instr := []
  /-- Number of free values taken so far; reset 0 (DC 6). The model's own. -/
  fresh   : Nat := 0
  /-- R620 to R633, R602 to R605; supply, reset lines, rails, link and identity. -/
  sys     : Sys := {}
  /-- R14; 96 logical coaches. -/
  coaches : SMap Coach := []
  /-- R274; the last-level cache. -/
  llc     : Llc := {}
  /-- R296; module memory. -/
  mem     : Mem := {}
  /-- R522; host memory as CXL.cache sees it: 64-bit addresses; reset every byte 0 (DC 3). -/
  hostMem : List Host.Cell := []
  /-- R22; 4 × 10^12 bytes of flash; reset every byte 0 (DC 3). -/
  flash   : List Host.Cell := []
  /-- R326; 32 movers. -/
  movers  : SMap Mover := []
  /-- R18; 4 engines. -/
  engines : SMap Engine := []
  /-- R354; 12 ports. -/
  ports   : SMap PortState := []
  /-- R380; 4,096 flows. -/
  flows   : SMap Flow := []
  /-- R352; reset empty. Slots of exchange groups that have arrived: group, slot, bytes. -/
  arrivals : List Arrival := []
  /-- R403; reset empty. Frames of collectives that this module has not yet begun, oldest first. -/
  early   : List Frame := []
  /-- R401; 16 collective queues. -/
  colls   : SMap CollQ := []
  /-- R408; 64 barrier channels. -/
  chans   : SMap Channel := []
  /-- R408; 4,096 semaphores. -/
  sems    : SMap Sem := []
  /-- R432; the halt register. -/
  halt    : Halt := {}
  /-- R229; the numerics watch. -/
  watch   : Watch := {}
  /-- R437; the Tender. -/
  tender  : Tender := {}
  /-- R470; the slot ledger. -/
  ledger  : Ledger := {}
  /-- R492; the Waybill and the tiers. -/
  way     : Waybill := {}
  /-- R523; rings, events and MSI-X. -/
  rings   : Rings := {}
  /-- R542; epoch time. -/
  time    : Time := {}
  /-- R552; supply, governor and coolant. -/
  power   : Power := {}
  /-- R569; Thonar. -/
  mgmt    : Mgmt := {}
  /-- What the module has put on its links and lines, oldest first; reset empty. The model's own. -/
  outbox  : List Out := []
  deriving DecidableEq, Repr

/-- R14, R28: the position bytes that give logical numbers in ascending position, west half first, to all but the spares. -/
def posMapOf (spares : List Nat) : List (BitVec 8) :=
  let west := (List.range 100).filter fun p => p % 10 < 5 && !spares.contains p
  let east := (List.range 100).filter fun p => 5 ≤ p % 10 && !spares.contains p
  let order := west ++ east
  (List.range 100).map fun p => if spares.contains p then 0xFE else BitVec.ofNat 8 (order.idxOf p)

/-- R413: channels 62 and 63 read LOCAL 1, SCOPE 2, GROUP 0. -/
def stepChannel : Channel := { locArr := 1, scope := 2 }

/-- The module after power-on and the deassertion of HOST_RST_N: every field at its Reset value (R9), READY still 0. -/
def State.reset : State :=
  { sys := { posMap := posMapOf Config.fusedSpares }
    chans := [(62, stepChannel), (63, stepChannel)]
    mgmt := { creds := [(0, some Config.credential0)] } }

end Sys2Proof.Machine
end

