-- ==== Sys2Proof/Machine/Ops.lean ====
section
/-! DEFINITION. The named operations on the state: reading and rewriting its parts, statistics counters (R635), events (R529),
interrupts (R92), immediate stops (R429) and free values. -/

namespace Sys2Proof.Machine

abbrev Result := Host.Outcome State Fault Refusal

-- parts of the state

def State.coach (s : State) (c : Nat) : Coach := mget {} s.coaches c
def State.updCoach (s : State) (c : Nat) (f : Coach → Coach) : State := { s with coaches := mupd {} s.coaches c f }
def Coach.seat (k : Coach) (t : Nat) : Seat := mget {} k.seats t
def State.seat (s : State) (r : SeatRef) : Seat := (s.coach r.coach).seat r.seat
def State.updSeat (s : State) (r : SeatRef) (f : Seat → Seat) : State :=
  s.updCoach r.coach fun k => { k with seats := mupd {} k.seats r.seat f }
def State.mover (s : State) (m : Nat) : Mover := mget {} s.movers m
def State.updMover (s : State) (m : Nat) (f : Mover → Mover) : State := { s with movers := mupd {} s.movers m f }
def State.engine (s : State) (e : Nat) : Engine := mget {} s.engines e
def State.updEngine (s : State) (e : Nat) (f : Engine → Engine) : State := { s with engines := mupd {} s.engines e f }
def State.port (s : State) (p : Nat) : PortState := mget {} s.ports p
def State.updPort (s : State) (p : Nat) (f : PortState → PortState) : State := { s with ports := mupd {} s.ports p f }
def State.flow (s : State) (n : Nat) : Flow := mget {} s.flows n
def State.updFlow (s : State) (n : Nat) (f : Flow → Flow) : State := { s with flows := mupd {} s.flows n f }
def State.coll (s : State) (q : Nat) : CollQ := mget {} s.colls q
def State.updColl (s : State) (q : Nat) (f : CollQ → CollQ) : State := { s with colls := mupd {} s.colls q f }
def State.chan (s : State) (c : Nat) : Channel := mget {} s.chans c
def State.updChan (s : State) (c : Nat) (f : Channel → Channel) : State := { s with chans := mupd {} s.chans c f }
def State.sem (s : State) (n : Nat) : Sem := mget {} s.sems n
def State.updSem (s : State) (n : Nat) (f : Sem → Sem) : State := { s with sems := mupd {} s.sems n f }
def State.slot (s : State) (n : Nat) : Slot := mget {} s.watch.slots n
def State.updSlot (s : State) (n : Nat) (f : Slot → Slot) : State :=
  { s with watch := { s.watch with slots := mupd {} s.watch.slots n f } }
def State.agree (s : State) (c : Nat) : Agree := mget {} s.watch.agree c
def State.updAgree (s : State) (c : Nat) (f : Agree → Agree) : State :=
  { s with watch := { s.watch with agree := mupd {} s.watch.agree c f } }
def State.stack (s : State) (k : Nat) : StackState := mget {} s.mem.hbm k
def State.updStack (s : State) (k : Nat) (f : StackState → StackState) : State :=
  { s with mem := { s.mem with hbm := mupd {} s.mem.hbm k f } }
def State.slice (s : State) (k : Nat) : SliceStats := mget {} s.llc.stats k
def State.updSlice (s : State) (k : Nat) (f : SliceStats → SliceStats) : State :=
  { s with llc := { s.llc with stats := mupd {} s.llc.stats k f } }
def State.pseudo (s : State) (k : Nat) : PcStats := mget {} s.mem.pcStats k
def State.updPseudo (s : State) (k : Nat) (f : PcStats → PcStats) : State :=
  { s with mem := { s.mem with pcStats := mupd {} s.mem.pcStats k f } }
def State.pair (s : State) (r : Nat) : Pair := mget {} s.rings.pairs r
def State.updPair (s : State) (r : Nat) (f : Pair → Pair) : State :=
  { s with rings := { s.rings with pairs := mupd {} s.rings.pairs r f } }
def State.dir (s : State) (x : Nat) : DirEntry := mget {} s.tender.dir x
def State.fwOf (s : State) (k : Nat) : Fw := mget {} s.mgmt.fw k
def State.updFw (s : State) (k : Nat) (f : Fw → Fw) : State := { s with mgmt := { s.mgmt with fw := mupd {} s.mgmt.fw k f } }
def State.alarm (s : State) (a : Nat) : Alarm := mget {} s.time.alarms a
def State.updAlarm (s : State) (a : Nat) (f : Alarm → Alarm) : State :=
  { s with time := { s.time with alarms := mupd {} s.time.alarms a f } }
def State.updTender (s : State) (f : Tender → Tender) : State := { s with tender := f s.tender }
def State.updWay (s : State) (f : Waybill → Waybill) : State := { s with way := f s.way }
def State.updMem (s : State) (f : Mem → Mem) : State := { s with mem := f s.mem }
def State.updLlc (s : State) (f : Llc → Llc) : State := { s with llc := f s.llc }
def State.updMgmt (s : State) (f : Mgmt → Mgmt) : State := { s with mgmt := f s.mgmt }
def State.updPower (s : State) (f : Power → Power) : State := { s with power := f s.power }
def State.updTime (s : State) (f : Time → Time) : State := { s with time := f s.time }
def State.updSys (s : State) (f : Sys → Sys) : State := { s with sys := f s.sys }
def State.updHalt (s : State) (f : Halt → Halt) : State := { s with halt := f s.halt }
def State.updLedger (s : State) (f : Ledger → Ledger) : State := { s with ledger := f s.ledger }
def State.updWatch (s : State) (f : Watch → Watch) : State := { s with watch := f s.watch }
def State.updRings (s : State) (f : Rings → Rings) : State := { s with rings := f s.rings }

/-- The current consist (R603). -/
def State.consist (s : State) : Consist := s.mgmt.cur

/-- R11: an expert flag of the current consist, by the bit of R587. -/
def State.expert (s : State) (i : Nat) : Bool := s.consist.expert.getLsbD i

def State.halted (s : State) : Bool := s.halt.state = 2

/-- R12, R590: a quiescent point: Halted, or no RUN_START accepted. -/
def State.quiescent (s : State) : Bool := s.halted || !s.tender.run

def State.send (s : State) (o : Out) : State := { s with outbox := s.outbox ++ [o] }

/-- Takes one free value (R-open values; row 6 of the log). -/
def State.free (s : State) : Nat × State := (Config.freeValue s.fresh, { s with fresh := s.fresh + 1 })

-- events (R529, R530)

/-- R529: raises an event: held until it is posted, or counted as lost beyond 256; an events-lost entry stands before the first
event that follows a loss. -/
def State.raise (s : State) (code arg extra : Nat) : State :=
  let ev (c a x : Nat) : Event := ⟨c, a % 2 ^ 32, s.tender.step % 2 ^ 48, x % 2 ^ 16⟩
  if (s.rings.events.filter fun e => e.code != 1).length < 256 then
    s.updRings fun h => { h with
      events := h.events ++ (if h.lostNow = 0 then [] else [ev 1 h.lostNow 0]) ++ [ev code arg extra]
      lostNow := 0 }
  else
    -- the saturation of LOST is itself an event that is lost (R635)
    let first : Bool := s.rings.lost.val + 1 = 2 ^ 24 - 1 && !s.rings.lost.ovf
    s.updRings fun h => { h with
      lost := { val := min (h.lost.val + 1) (2 ^ 24 - 1), ovf := h.lost.ovf || 2 ^ 24 - 1 ≤ h.lost.val + 1 }
      lostNow := min (h.lostNow + 1 + b2n first) (2 ^ 32 - 1) }

-- statistics counters (R635)

/-- R635: adds k to a counter of w bits; at all-ones it saturates and sets its sticky bit. -/
def Stat.add (w k : Nat) (c : Stat) : Stat :=
  { val := min (c.val + k) (2 ^ w - 1), ovf := c.ovf || 2 ^ w - 1 ≤ c.val + k }

/-- R635: writing 1 to the sticky bit clears it and its counter. -/
def Stat.clear (_ : Stat) : Stat := {}

/-- The counter that a reference names. -/
def statGet (r : StatRef) (s : State) : Stat :=
  match r with
  | .watchSlot k b =>
    let t := s.slot k
    if b = 0 then t.elements else if b = 1 then t.zeros else if b = 2 then t.sats else if b = 3 then t.nonfin else t.run
  | .agreement c b =>
    let t := s.agree c
    if b = 0 then t.samples else if b = 1 then t.skipped else t.above
  | .llcSlice k b =>
    let t := s.slice k
    if b = 0 then t.applied else if b = 1 then t.forwarded else if b = 2 then t.lost else if b = 3 then t.pinLimit else t.uncorr
  | .stack k b =>
    let t := s.stack k
    if b = 0 then t.rowsRetired else if b = 1 then t.offline else if b = 2 then t.poisoned
    else if b = 3 then t.corrected else if b = 4 then t.uncorr else t.scrubs
  | .port p b =>
    let t := s.port p
    if b = 0 then t.corrected else if b = 1 then t.uncorr else if b = 2 then t.e2e else if b = 3 then t.subs else t.takeovers
  | .tender b =>
    let t := s.tender
    if b = 0 then t.applied else if b = 1 then t.dropped else if b = 2 then t.mixedGen else if b = 3 then t.misrouted
    else if b = 4 then t.duplicates else if b = 5 then t.drainStalls else if b = 6 then t.skips else t.commits
  | .mover m => (s.mover m).errors
  | .cordChannel c => (s.chan c).comps
  | .ringDiscards r => (s.pair r).discards
  | .ringLost => s.rings.lost
  | .paceMeter c => (s.coach c).beats
  | .timeWindow => s.time.rejected
  | .waybill b => if b = 0 then s.way.timeouts else if b = 1 then s.way.skipped else s.way.divergences
  | .sched => s.ledger.rejects
  | .collective q => (s.coll q).errors
  | .sysId => s.sys.geomWr
  | .coach c b =>
    let t := s.coach c
    if b = 0 then t.wakes else if b = 1 then t.aFaultCt else if b = 2 then t.deadRd else t.bankErr
  | .portDrop p b => if b = 0 then (s.port p).pause else (s.port p).dgrams
  | .mixedFrames q => (s.coll q).mixed
  | .pseudoChannel k b => if b = 0 then (s.pseudo k).corrected else (s.pseudo k).uncorr
  | .lossSteps => s.watch.steps

/-- The state with the counter of a reference replaced. -/
def statSet (r : StatRef) (v : Stat) (s : State) : State :=
  match r with
  | .watchSlot k b => s.updSlot k fun t =>
    if b = 0 then { t with elements := v } else if b = 1 then { t with zeros := v } else if b = 2 then { t with sats := v }
    else if b = 3 then { t with nonfin := v } else { t with run := v }
  | .agreement c b => s.updAgree c fun t =>
    if b = 0 then { t with samples := v } else if b = 1 then { t with skipped := v } else { t with above := v }
  | .llcSlice k b => s.updSlice k fun t =>
    if b = 0 then { t with applied := v } else if b = 1 then { t with forwarded := v } else if b = 2 then { t with lost := v }
    else if b = 3 then { t with pinLimit := v } else { t with uncorr := v }
  | .stack k b => s.updStack k fun t =>
    if b = 0 then { t with rowsRetired := v } else if b = 1 then { t with offline := v } else if b = 2 then { t with poisoned := v }
    else if b = 3 then { t with corrected := v } else if b = 4 then { t with uncorr := v } else { t with scrubs := v }
  | .port p b => s.updPort p fun t =>
    if b = 0 then { t with corrected := v } else if b = 1 then { t with uncorr := v } else if b = 2 then { t with e2e := v }
    else if b = 3 then { t with subs := v } else { t with takeovers := v }
  | .tender b => s.updTender fun t =>
    if b = 0 then { t with applied := v } else if b = 1 then { t with dropped := v } else if b = 2 then { t with mixedGen := v }
    else if b = 3 then { t with misrouted := v } else if b = 4 then { t with duplicates := v }
    else if b = 5 then { t with drainStalls := v } else if b = 6 then { t with skips := v } else { t with commits := v }
  | .mover m => s.updMover m fun t => { t with errors := v }
  | .cordChannel c => s.updChan c fun t => { t with comps := v }
  | .ringDiscards r => s.updPair r fun t => { t with discards := v }
  | .ringLost => s.updRings fun t => { t with lost := v }
  | .paceMeter c => s.updCoach c fun t => { t with beats := v }
  | .timeWindow => s.updTime fun t => { t with rejected := v }
  | .waybill b => s.updWay fun t =>
    if b = 0 then { t with timeouts := v } else if b = 1 then { t with skipped := v } else { t with divergences := v }
  | .sched => s.updLedger fun t => { t with rejects := v }
  | .collective q => s.updColl q fun t => { t with errors := v }
  | .sysId => s.updSys fun t => { t with geomWr := v }
  | .coach c b => s.updCoach c fun t =>
    if b = 0 then { t with wakes := v } else if b = 1 then { t with aFaultCt := v } else if b = 2 then { t with deadRd := v }
    else { t with bankErr := v }
  | .portDrop p b => s.updPort p fun t => if b = 0 then { t with pause := v } else { t with dgrams := v }
  | .mixedFrames q => s.updColl q fun t => { t with mixed := v }
  | .pseudoChannel k b => s.updPseudo k fun t => if b = 0 then { t with corrected := v } else { t with uncorr := v }
  | .lossSteps => s.updWatch fun t => { t with steps := v }

/-- The width of a counter; 64 bits where the spec gives none (row 67 of the log). -/
def statWidth : StatRef → Nat
  | .watchSlot _ b => if b = 4 then 16 else 64
  | .agreement _ _ => 64
  | .llcSlice _ _ => 48
  | .stack _ b => if b = 3 then 64 else if b = 4 then 64 else 32
  | .port _ b => if b = 3 then 32 else if b = 4 then 32 else 64
  | .tender _ => 64
  | .mover _ => 32
  | .cordChannel _ => 64
  | .ringDiscards _ => 24
  | .ringLost => 24
  | .paceMeter _ => 64
  | .timeWindow => 32
  | .waybill _ => 64
  | .sched => 64
  | .collective _ => 32
  | .sysId => 31
  | .coach _ _ => 64
  | .portDrop _ _ => 64
  | .mixedFrames _ => 64
  | .pseudoChannel _ _ => 64
  | .lossSteps => 32

/-- R530: the counter locator: unit, instance, bit of the unit's sticky field; an open value for a counter whose unit the table does not
list (row 67 of the log). -/
def statLoc : StatRef → Nat
  | .watchSlot k b => 1 * 2 ^ 24 + k.val * 2 ^ 8 + b.val
  | .agreement c b => 2 * 2 ^ 24 + c.val * 2 ^ 8 + b.val
  | .llcSlice k b => 3 * 2 ^ 24 + k.val * 2 ^ 8 + b.val
  | .stack k b => 4 * 2 ^ 24 + k.val * 2 ^ 8 + b.val
  | .port p b => 5 * 2 ^ 24 + p.val * 2 ^ 8 + b.val
  | .tender b => 6 * 2 ^ 24 + b.val
  | .mover m => 7 * 2 ^ 24 + m.val * 2 ^ 8
  | .cordChannel c => 8 * 2 ^ 24 + c.val * 2 ^ 8
  | .ringDiscards r => 9 * 2 ^ 24 + r.val * 2 ^ 8
  | .ringLost => 9 * 2 ^ 24 + 1
  | .paceMeter c => 10 * 2 ^ 24 + c.val * 2 ^ 8
  | .timeWindow => 11 * 2 ^ 24
  | .waybill b => 12 * 2 ^ 24 + b.val
  | .sched => 13 * 2 ^ 24 + 1
  | .collective q => 14 * 2 ^ 24 + q.val * 2 ^ 8
  | .sysId => 15 * 2 ^ 24
  | .coach c b => Config.openLocator 0 c.val b.val
  | .portDrop p b => Config.openLocator 1 p.val b.val
  | .mixedFrames q => Config.openLocator 2 q.val 0
  | .pseudoChannel k b => Config.openLocator 3 k.val b.val
  | .lossSteps => Config.openLocator 4 0 0

/-- R246: the watch posts its events at the step end. -/
def ofWatch : StatRef → Bool
  | .watchSlot _ _ => true
  | .agreement _ _ => true
  | .lossSteps => true
  | _ => false

/-- R635, R246: a counter-overflow event; those of the watch wait for the step end. -/
def State.overflowed (s : State) (r : StatRef) : State :=
  if ofWatch r then s.updWatch fun w => { w with due := w.due ++ [(0x0002, statLoc r, 0)] } else s.raise 0x0002 (statLoc r) 0

/-- R635: counts k; the first saturation raises a counter-overflow event. -/
def State.bump (s : State) (r : StatRef) (k : Nat := 1) : State :=
  let old := statGet r s
  let new := old.add (statWidth r) k
  let t := statSet r new s
  if new.ovf && !old.ovf then t.overflowed r else t

-- interrupts (R92)

/-- R92: makes cause 0x20 + k pending on a seat; further occurrences merge and keep the first DETAIL.  A drain request's 10 ms
(R102) count from the occurrence that sets the bit. -/
def State.pendInt (s : State) (r : SeatRef) (k : Nat) (detail : Nat) : State :=
  if (s.seat r).pend.getLsbD k then s
  else
    let t := s.updSeat r fun t =>
      { t with pend := t.pend ||| (1 <<< k), pendDet := mset 0 t.pendDet k (BitVec.ofNat 8 detail) }
    if k = 3 then t.updCoach r.coach fun c => { c with drainAt := mset none c.drainAt r.seat (some s.time.ns) } else t

/-- R409: the seat that a NOTIFY field names, when its coach number is one. -/
def notifySeat (n : Nat) : Option SeatRef :=
  if h : n % 128 < 96 then some ⟨⟨n % 128, h⟩, ⟨n / 128 % 4, Nat.mod_lt _ (by decide)⟩⟩ else none

/-- Raises an interrupt on the seat of a NOTIFY field. -/
def State.notify (s : State) (n k detail : Nat) : State :=
  match notifySeat n with
  | some r => s.pendInt r k detail
  | none => s

-- semaphores (R411, R414, R419)

/-- R414: writes a semaphore's VALUE; moving it from before ARM to ARM or beyond raises one notice. -/
def State.semSet (s : State) (n : Nat) (v : BitVec 32) : State :=
  let old := s.sem n
  let t := s.updSem n fun m => { m with value := v }
  if old.notify.getLsbD 9 && !reached old.value old.arm && reached v old.arm then t.notify old.notify.toNat 5 (n % 256) else t

def State.semAdd (s : State) (n : Nat) (k : BitVec 32) : State := s.semSet n ((s.sem n).value + k)

-- stops (R429 to R433)

/-- R509, R531: at a stop every ring command in execution stays pending, and accepted boundary commands are dropped. -/
def State.ringsHalt (s : State) : State :=
  s.updRings fun h => { h with
    boundary := []
    pairs := mupdEach {} h.pairs fun p => { p with
      snap := p.sqTail
      cmds := p.cmds.map fun c => if c.started && c.done = none then { c with stale := true } else c } }

/-- R352, R407: a descriptor that a lost member ends with CODE 7: a stop leaves it its completion. -/
def MoverCur.lost (c : MoverCur) : Bool := c.result = some 7
def CollCur.lost (c : CollCur) : Bool := c.code = 7

/-- R329, R459, R498, R433, R429: an immediate stop of this module. -/
def State.stopModule (s : State) (source : Nat) : State :=
  let t := if s.halted then s else s.ringsHalt
  { t with
    halt := { t.halt with state := 2, source := source, due := none }
    movers := mupdAll {} t.movers (List.range 32) fun k => { k with stopped := true, cur := k.cur.filter MoverCur.lost, extra := [] }
    colls := mupdAll {} t.colls (List.range 16) fun k => { k with stopped := true, cur := k.cur.filter CollCur.lost, extra := [] }
    early := []
    arrivals := []
    tender := { t.tender with queue := [], stalled := false }
    way := { t.way with saves := [] } }

-- routes and waiting frames (R370, R381, R389, R396, R399)

/-- R406, R484: the layout generation in force: the highest GEN among valid directory entries. -/
def genNow (s : State) : Nat := s.tender.dir.foldl (fun t e => if e.2.valid then max t e.2.gen else t) 0

/-- Frames of a flow cross only the rake's couplings when its peer is in the rake. -/
def inRake (s : State) (rank : Nat) : Bool :=
  match s.consist.ranks[rank]? with
  | some (rake, _) => rake = s.consist.rake
  | none => false

/-- The position of a rank in its rake. -/
def posOfRank (s : State) (rank : Nat) : Nat := ((s.consist.ranks[rank]?).getD (0, 0)).2

/-- R370: the coupling port that leads to a position of the rake. -/
def portOfPos (s : State) (pos : Nat) : Nat := (pos + 15 - s.consist.position) % 8 % 7

def carrying (s : State) (p : Nat) : Bool := (s.port p).state = 4 || (s.port p).state = 5

/-- The port that carries a flow (R370, R396, R399). -/
def portOfFlow (s : State) (n : Nat) : Option Nat :=
  let f := s.flow n
  if inRake s f.peer then
    let direct := portOfPos s (posOfRank s f.peer)
    if carrying s direct then some direct
    else match f.relay with
      | some pos => let p := portOfPos s pos; if carrying s p then some p else none
      | none => none
  else match f.port with
    | some p => if carrying s p then some p else none
    | none => none

/-- The header of a frame of a flow; SEQ and ACK are filled in when it is sent. -/
def flowHdr (s : State) (n type cls : Nat) (gen tag leaf offset : Nat) (last : Bool) : FrameHdr :=
  { type := BitVec.ofNat 8 type, flags := BitVec.ofNat 8 (cls + 4 * b2n last), flow := BitVec.ofNat 12 n, seq := 0, ack := 0
    src := BitVec.ofNat 16 s.consist.rank, gen := BitVec.ofNat 16 gen, tag := BitVec.ofNat 32 tag
    leaf := BitVec.ofNat 32 leaf, offset := BitVec.ofNat 64 offset }

/-- The class of a frame (R381). -/
def frameClass (f : Frame) : Nat := f.hdr.flags.toNat % 4

/-- The flow of a frame. -/
def frameFlow (f : Frame) : Nat := f.hdr.flow.toNat

/-- Where a waiting frame waits: the port of its flow, or port 7 until a route exists. -/
def queuePort (s : State) (n : Nat) : Nat := (portOfFlow s n).getD (if inRake s (s.flow n).peer then portOfPos s (posOfRank s (s.flow n).peer) else 7)

/-- Puts a frame behind those that wait at its port. -/
def enqueueFrame (s : State) (f : Frame) : State :=
  s.updPort (queuePort s (frameFlow f)) fun t => { t with txq := t.txq ++ [f] }

/-- The lowest-numbered bound flow to a rank of a class. -/
def flowTo (s : State) (rank cls : Nat) : Option Nat :=
  (s.flows.find? fun e => e.2.bound && e.2.peer = rank && e.2.cls = cls && !e.2.failed).map (·.1)

/-- R425: the parent of leaf l in the fan-in 8 tree: l itself at the root. -/
def treeParent (l : Nat) : Nat :=
  ((List.range 6).find? fun k => l % 8 ^ (k + 1) != 0).elim 0 fun k => l - l % 8 ^ (k + 1)

/-- R425: the children of leaf l among g leaves. -/
def treeChildren (g l : Nat) : List Nat :=
  ((List.range 6).takeWhile fun k => l % 8 ^ (k + 1) = 0).flatMap fun k =>
    ((List.range 7).map fun j => l + (j + 1) * 8 ^ k).filter fun m => m < g

/-- Whether the consist holds modules besides this one (R593, R616). -/
def State.alone (s : State) : Bool := s.consist.ranks.length ≤ 1

/-- R424: a KIND 4 stop micro-flit. -/
def stopFlit (s : State) (source scope : Nat) : Word :=
  BitVec.ofNat 64 (4 + scope * 16 + 63 * 64 + s.consist.rank % 32768 * 2 ^ 16 + source % 16 * 2 ^ 31)

/-- R422: sends a micro-flit on a port; it is repeated until its echo arrives.  It waits while the coupling is not Up (R372, R373). -/
def State.sendFlit (s : State) (p : Nat) (w : Word) : State :=
  let t := s.updPort p fun t => { t with flits := t.flits ++ [w] }
  if carrying s p then t.send (.flit p w) else t

/-- R422, R423: sends a micro-flit to each of some ranks: over the coupling inside the rake, else in a frame of the Cord flow to it. -/
def State.flitTo (s : State) (rs : List Nat) (w : Word) : State :=
  rs.foldl (fun t r =>
    if inRake t r then t.sendFlit (portOfPos t (posOfRank t r)) w
    else match flowTo t r 0 with
      | some n => enqueueFrame t ⟨flowHdr t n 0 0 (genNow t) 0 0 0 true, [(w.setWidth 256, false)]⟩
      | none => t) s

/-- R431: a stop of rake or consist scope at this module: up towards the root of the channel 63 tree, or down from the root. -/
def State.spreadStop (s : State) (w : Word) : State :=
  if s.consist.rank = 0 then
    (s.flitTo (treeChildren s.consist.ranks.length 0) w).updTender fun t => { t with stop63 := true }
  else s.flitTo [treeParent s.consist.rank] w

/-- R430, R431, R616: raises an immediate stop; a stop of rake or consist scope also travels over the channel 63 tree. -/
def State.raiseStop (s : State) (source scope : Nat) : State :=
  let t := s.stopModule source
  if scope = 0 || s.alone then t else t.spreadStop (stopFlit s source scope)

/-- R567: an environment fault of R530, code 0x0060. -/
def State.envEvent (s : State) (quantity port found expected : Nat) : State :=
  s.raise 0x0060 (quantity + port % 256 * 2 ^ 8 + found % 2 ^ 16 * 2 ^ 16) expected

-- epoch windows (R101, R191, R374, R490, R512, R567)

/-- R374, R567: a time in ns has passed since the module's readiness. -/
def readyFor (s : State) (t : Nat) : Bool := s.sys.ready && s.sys.readyAt + t ≤ s.time.ns

/-- The times of a list that lie within the last 3,600 s. -/
def recent (now : Nat) (ts : List Nat) : List Nat := ts.filter fun t => now < t + 3600000000000

end Sys2Proof.Machine
end

