-- ==== Sys2Proof/Machine/Respond.lean ====
section
/-! DEFINITION. Answers to the outside: completions of ring commands (R526), MSI-X messages (R612), and responses to management
requests (R570, R575, R614, R615). -/

namespace Sys2Proof.Machine

/-- R526: a fetched ring command has executed: its completion waits to be written with a status and a RESULT. -/
def ringDone (s : State) (r : Nat) (idx : BitVec 32) (status result : Nat) : State :=
  s.updPair r fun p => { p with cmds := p.cmds.map fun c =>
    if c.idx = idx && c.done = none then { c with done := some (status, result % 2 ^ 64) } else c }

/-- R612: a vector's message is sent, or left pending when the vector or the function is masked. -/
def msix (s : State) (vec : Nat) : State :=
  if s.rings.unmasked.getLsbD vec && !s.rings.funcMask then s.send (.msix vec)
  else s.updRings fun h => { h with pba := h.pba ||| (1 <<< vec) }

/-- R570, R571: the bytes of a response before its MAC. -/
def responseBody (t : Ticket) (status : Nat) (payload : List Byte) : List Byte :=
  let pl := if status ≤ 1 then payload else []
  leBytes 2 t.cmd ++ leBytes 2 status ++ leBytes 4 t.sid ++ leBytes 4 t.seq ++ leBytes 4 pl.length ++ pl

/-- R570, R575: a response carries a MAC under its session's key; outside any session that Thonar holds the MAC is a free value. -/
def withMac (s : State) (t : Ticket) (body : List Byte) : List Byte × State :=
  if t.sid = 0 then (body, s)
  else if t.ks = [] then
    let (v, u) := s.free
    (body ++ leBytes 48 v, u)
  else (body ++ hmac384 t.ks body, s)

/-- R614, R615: a response leaves on its path; the mailbox takes it for MGMT_RESPONSE_READY, unless it was reset meanwhile. -/
def respondRaw (s : State) (path : Path) (gen : Nat) (bytes : List Byte) : State :=
  match path with
  | .mailbox => if gen = s.mgmt.boxGen then s.updMgmt fun m => { m with resp := some bytes } else s
  | _ => s.send (.response path bytes)

/-- Answers a management request. -/
def respond (s : State) (t : Ticket) (status : Nat) (payload : List Byte) : State :=
  let (bs, u) := withMac s t (responseBody t status payload)
  respondRaw u t.path t.gen bs

/-- Answers a management request, when one is waiting. -/
def respondOpt (s : State) (t : Option Ticket) (status : Nat) (payload : List Byte) : State :=
  match t with
  | some t => respond s t status payload
  | none => s

/-- A two's complement number of w bits. -/
def intBits (w : Nat) (i : Int) : Nat := wrapInt w i

end Sys2Proof.Machine
end

