-- ==== Sys2Proof/Machine/Clock.lean ====
section
/-! DEFINITION. Epoch time (R540 to R551), with the meanings of its commands. -/

namespace Sys2Proof.Machine

def second : Int := 1000000000

/-- R546: the phase error of a counter value: the counter less the nearest whole multiple of 10⁹ (a tie goes up). -/
def phaseErr (ns : Nat) : Int :=
  let r : Int := (ns % 1000000000 : Nat)
  if 2 * r < second then r else r - second

/-- A signed fraction clamped to ±50,000 (R546). -/
def clampC (f : SFrac) : SFrac :=
  if 50000 * (f.den : Int) < f.num then ⟨50000, 1⟩
  else if f.num < -50000 * (f.den : Int) then ⟨-50000, 1⟩
  else f

/-- R548: HOLD: whole seconds of the current holdover. -/
def holdNow (t : Time) : Nat := if t.state = 3 then (t.ns - t.holdAt) / 1000000000 else 0

/-- R545: whether an edge at the present counter value is accepted. -/
def edgeOk (t : Time) : Bool :=
  if t.state = 2 then (phaseErr t.ns).natAbs ≤ 10000
  else match t.lastEdge with
    | some (at0, _) => at0 + 500000000 ≤ t.ns
    | none => true

/-- R545: whether a rejected edge is the fourth in succession at intervals of 1 s ± 10 µs. -/
def fourthReject (t : Time) : Bool :=
  match t.rej with
  | a :: b :: c :: _ =>
    let near (x y : Nat) : Bool := 999990000 ≤ x - y && x - y ≤ 1000010000
    near t.ns a && near a b && near b c
  | _ => false

/-- What applying a time of day answers (R550): status, and e′. -/
def todStatus (s : State) (t : Nat) (step : Bool) : Nat × Int :=
  let m := s.time
  let e : Int := (t : Int) - m.ns
  if m.state = 0 then (if 0 < e then 0 else 4, e)
  else if !m.set then (4, e)
  else if !step then (0, e)
  else if e < 0 then (4, e)
  else if s.quiescent then (0, e)
  else (5, e)

/-- R550: a time of day takes effect: a step, the first setting, or an offset that is slewed out. -/
def todApply (s : State) (t : Nat) (step : Bool) : State :=
  let (st, e) := todStatus s t step
  if st != 0 then s
  else
    s.updTime fun m =>
      if m.state = 0 then { m with ns := t, frac := 0, set := true, state := 1, good := 0, offset := 0 }
      else if step then { m with ns := t, offset := 0 }
      else if s.consist.ppsIn then { m with offset := -e - phaseErr m.ns }
      else { m with slew := m.slew + e * 2000, c := if e = 0 then m.c else ⟨if 0 < e then 50000 else -50000, 1⟩ }

/-- Answers a setting of the time of day. -/
def todAnswer (s : State) (d : TodSet) (status : Nat) (e : Int) : State :=
  let s := match d.ring with
    | some (r, idx) => ringDone s r idx status (if status ≤ 1 then intBits 64 e else 0)
    | none => s
  respondOpt s d.ask status (leBytes 8 (intBits 64 e))

/-- R550: the settings that wait fall due: the last accepted applies, the earlier ones are superseded. -/
def todDue (s : State) : State :=
  match s.time.tods.reverse with
  | [] => s
  | d :: earlier =>
    let t := s.updTime fun m => { m with tods := [] }
    let t := earlier.reverse.foldl (fun t d => todAnswer t d 9 0) t
    let (st, e) := todStatus t d.t d.step
    todAnswer (todApply t d.t d.step) d st e

/-- R550: a setting of the time of day is accepted: it waits for an edge, or applies at once when there is no time source. -/
def todAccept (s : State) (ring : Option (Nat × BitVec 32)) (ask : Option Ticket) (t flags : Nat) : State :=
  let d : TodSet := ⟨ring, ask, t, bit flags 0, s.time.ns⟩
  if 2 ≤ flags then todAnswer s d 3 0
  else if s.consist.ppsIn && t % 1000000000 != 0 then todAnswer s d 4 0
  else
    let u := s.updTime fun m => { m with tods := m.tods ++ [d] }
    if s.consist.ppsIn then u else todDue u

/-- R546: the loop's computation at an accepted edge. -/
def edgeLoop (t : Time) : Time :=
  let e0 := phaseErr t.ns
  -- the whole seconds of a setting still being slewed out: the representative nearest to the last total
  let last := t.phase + t.offset
  let k := (last - e0 + second / 2) / second * second
  let off := if t.offset = 0 then 0 else k
  let e := e0 + off
  let y : SFrac :=
    if t.prevOk then
      match t.lastEdge with
      | some (_, n0) =>
        let x : Int := 10 * ((t.ticks - n0 : Nat) : Int) - second
        ⟨7 * t.y.num + x * (t.y.den : Int), 8 * t.y.den⟩
      | none => t.y
    else t.y
  { t with
    y := y
    phase := e0
    offset := off
    c := clampC ⟨-(4 * y.num + e * (y.den : Int)), 4 * y.den⟩
    good := if e0.natAbs < 100 then t.good + 1 else 0
    lastEdge := some (t.ns, t.ticks)
    prevOk := true
    rej := [] }

/-- R547: the state after an accepted edge. -/
def edgeState (t : Time) (forced : Bool) : Time :=
  if t.state = 3 || (forced && t.state != 0) then { t with state := 1, good := 0 }
  else if t.state = 1 && 8 ≤ t.good then { t with state := 2 }
  else t

/-- R545 to R547: an accepted edge; `forced` when it is the fourth rejected one. -/
def acceptEdge (s : State) (forced : Bool) : State :=
  let t := todDue s
  t.updTime fun m => edgeState (edgeLoop m) forced

/-- PPS_EDGE: a rising edge on PPS_IN, when the consist declares it. -/
def execPpsEdge (s : State) : Result :=
  .next (
    if !s.consist.ppsIn then s
    else if edgeOk s.time then acceptEdge s false
    else
      let t := s.bump .timeWindow
      if fourthReject s.time then acceptEdge t true
      else t.updTime fun m => { m with rej := m.ns :: m.rej, prevOk := false, good := 0 })

/-- PPS_LOSS_HOLDOVER: 2.5 s have passed without an accepted edge (R547, R548). -/
def execPpsLossHoldover (s : State) : Result :=
  .next (
    let m := s.time
    let late := match m.lastEdge with
      | some (at0, _) => at0 + 2500000000 ≤ m.ns
      | none => true
    if s.consist.ppsIn && (m.state = 1 || m.state = 2) && late then
      s.updTime fun m => { m with
        state := 3, holdAt := m.ns, holdEv := false, good := 0
        c := clampC ⟨-m.y.num, m.y.den⟩ }
    else s)

/-- HOLDOVER_ALARM: a holdover has lasted 3,600 s (R548). -/
def execHoldoverAlarm (s : State) : Result :=
  .next (
    if 3600 ≤ holdNow s.time && !s.time.holdEv then
      (s.updTime fun m => { m with alarm := true, holdEv := true }).raise 0x0064 (holdNow s.time) 0
    else s)

/-- TIME_OF_DAY_TIMEOUT: settings that have waited 2.5 s for an edge complete with status 5 (R550). -/
def execTimeOfDayTimeout (s : State) : Result :=
  .next (
    let due (d : TodSet) : Bool := d.at0 + 2500000000 ≤ s.time.ns
    let gone := s.time.tods.filter due
    let t := s.updTime fun m => { m with tods := m.tods.filter fun d => !due d }
    gone.foldl (fun t d => todAnswer t d 5 0) t)

/-- PPS_OUT_PULSE: epoch time crosses a whole second; the pin rises when it is driven (R549). -/
def execPpsOutPulse (s : State) : Result :=
  .next (if s.time.set && s.consist.ppsOut then s.updTime fun m => { m with ppsOut := true } else s)

/-- PPS_OUT_PULSE_END: 100 ms after each rising edge the pin falls (R549). -/
def execPpsOutPulseEnd (s : State) : Result := .next (s.updTime fun m => { m with ppsOut := false })

/-- PPS_SOURCE_MISSING: a declared PPS_IN has brought no accepted edge within 10 s of readiness (R567). -/
def execPpsSourceMissing (s : State) : Result :=
  .next (
    if s.consist.ppsIn && s.time.lastEdge = none && readyFor s 10000000000 then
      (s.updTime fun m => { m with envFault := true }).envEvent 3 0xFF 0 0
    else s)

/-- R551: an alarm whose TIME has come fires. -/
def alarmFire (s : State) (a : Nat) (late : Bool) : State :=
  let m := s.alarm a
  if m.notify.getLsbD 9 then
    (s.updAlarm a fun m => { m with fired := true, late := m.late || late, armed := false }).notify m.notify.toNat 4 0
  else s.updAlarm a fun m => { m with armed := false }

/-- R551: a write of TIME arms the alarm for one firing. -/
def alarmWrite (s : State) (a v : Nat) : State :=
  let t := s.updAlarm a fun m => { m with time := v, armed := true }
  if v ≤ s.time.ns then alarmFire t a true else t

def execEpochAlarmWrite (a : Fin 240) (v : Word) (s : State) : Result := .next (alarmWrite s a v.toNat)

/-- EPOCH_ALARM_FIRE: the counter reaches the TIME of an armed alarm (R551). -/
def execEpochAlarmFire (a : Fin 240) (s : State) : Result :=
  .next (
    let m := s.alarm a
    if m.armed && m.time ≤ s.time.ns then alarmFire s a false else s)

end Sys2Proof.Machine
end

