-- ==== Sys2Proof/Machine/Codec.lean ====
section
/-! DEFINITION. The module's code (R301 to R305): Reed–Solomon over GF(2⁸), 32 data symbols and 4 check symbols. -/

namespace Sys2Proof.Machine

/-- Multiplication by α = 0x02 modulo x⁸ + x⁴ + x³ + x² + 1. -/
def gfDouble (a : Nat) : Nat := if a < 128 then 2 * a else (2 * a) ^^^ 0x11D

def gfMulAux : Nat → Nat → Nat → Nat
  | 0, _, _ => 0
  | n + 1, a, b => (if b % 2 = 1 then a else 0) ^^^ gfMulAux n (gfDouble a) (b / 2)

def gfMul (a b : Nat) : Nat := gfMulAux 8 a b

def gfPow (a : Nat) : Nat → Nat
  | 0 => 1
  | n + 1 => gfMul a (gfPow a n)

/-- α^n. -/
def gfExp : Nat → Nat
  | 0 => 1
  | n + 1 => gfDouble (gfExp n)

/-- a^254, the inverse of a non-zero element. -/
def gfInv (a : Nat) : Nat :=
  let a2 := gfMul a a; let a4 := gfMul a2 a2; let a8 := gfMul a4 a4; let a16 := gfMul a8 a8
  let a32 := gfMul a16 a16; let a64 := gfMul a32 a32; let a128 := gfMul a64 a64
  gfMul a2 (gfMul a4 (gfMul a8 (gfMul a16 (gfMul a32 (gfMul a64 a128)))))

/-- The coefficients g₀ to g₃ of the generator (x + 1)(x + α)(x + α²)(x + α³). -/
def genCoeffs : List Nat := [0x40, 0x78, 0x36, 0x0F]

/-- R301: the check symbols p₀ to p₃ of data bytes, as a 32-bit number with p₀ lowest. -/
def rsCheck (data : List Nat) : Nat :=
  -- remainder register, highest coefficient first fed with d₃₁ down to d₀
  data.reverse.foldl (fun r d =>
    let f := d ^^^ (r / 2 ^ 24)
    let sh := r % 2 ^ 24 * 256
    sh ^^^ (gfMul f 0x40 + gfMul f 0x78 * 2 ^ 8 + gfMul f 0x36 * 2 ^ 16 + gfMul f 0x0F * 2 ^ 24)) 0

/-- The bytes of a 256-bit segment. -/
def segBytes (d : BitVec 256) : List Nat := (List.range 32).map fun i => d.toNat / 2 ^ (8 * i) % 256

/-- The check symbols of a segment. -/
def segCheck (d : BitVec 256) : BitVec 32 := BitVec.ofNat 32 (rsCheck (segBytes d))

/-- Syndrome j of a codeword whose check symbols differ from those of its data by `rel` (the data's codeword contributes 0). -/
def syndrome (rel : Nat) (j : Nat) : Nat :=
  (List.range 4).foldl (fun t k => t ^^^ gfMul (rel / 2 ^ (8 * k) % 256) (gfExp (j * k))) 0

/-- What decoding a codeword finds (R303, R304). -/
inductive Decoded where
  | clean
  | marked (dead : Bool)
  | errors (at1 v1 at2 v2 : Nat)
  | beyond
  deriving DecidableEq, Repr

def poisonRel : BitVec 32 := 0x9C9C9C9C
def deadRel : BitVec 32 := 0x63636363

/-- R303, R305: compares with the marks, then finds an error of one or two symbols among the 36 (position k < 4 is check symbol k,
position i + 4 data byte i); a one-symbol error has its second value 0. -/
def rsDecode (rel : BitVec 32) : Decoded :=
  if rel = 0 then .clean
  else if rel = poisonRel then .marked false
  else if rel = deadRel then .marked true
  else
    let r := rel.toNat
    let s0 := syndrome r 0; let s1 := syndrome r 1; let s2 := syndrome r 2; let s3 := syndrome r 3
    match (List.range 36).find? fun p =>
        let x := gfExp p
        s0 != 0 && gfMul s0 x == s1 && gfMul s1 x == s2 && gfMul s2 x == s3 with
    | some p => .errors p s0 0 0
    | none =>
      let d := gfMul s1 s1 ^^^ gfMul s0 s2
      if d = 0 then .beyond
      else
        let di := gfInv d
        let q1 := gfMul (gfMul s1 s2 ^^^ gfMul s0 s3) di
        let q2 := gfMul (gfMul s1 s3 ^^^ gfMul s2 s2) di
        match (List.range 36).filter fun p => let x := gfExp p; gfMul x x ^^^ gfMul q1 x ^^^ q2 == 0 with
        | [a, b] =>
          let x1 := gfExp a; let x2 := gfExp b
          let y1 := gfMul (gfMul s0 x2 ^^^ s1) (gfInv (x1 ^^^ x2))
          let y2 := s0 ^^^ y1
          if y1 = 0 || y2 = 0 then .beyond else .errors a y1 b y2
        | _ => .beyond

/-- Corrects a data byte when the error position is one. -/
def fixData (d : BitVec 256) (p v : Nat) : BitVec 256 :=
  if p < 4 then d else d ^^^ BitVec.ofNat 256 (v * 2 ^ (8 * (p - 4)))

/-- A stored codeword with symbol p changed by v: its data and its relative check symbols. -/
def upsetCw (d : BitVec 256) (rel : BitVec 32) (p v : Nat) : BitVec 256 × BitVec 32 :=
  if p < 4 then (d, rel ^^^ BitVec.ofNat 32 (v * 2 ^ (8 * p)))
  else
    let d' := fixData d p v
    (d', rel ^^^ segCheck d ^^^ segCheck d')

end Sys2Proof.Machine
end

