-- ==== Sys2Proof/WellFormed.lean ====
section
/-! DEFINITION. Which commands are well formed.  The types of most operands admit only parts that the module has; the checks below are
on those that carry data from outside or a memory address. -/

namespace Sys2Proof

/-- R298: bytes of module memory. -/
def memBytes : Nat := 576000000000

/-- R368, R381: a frame has 1 to 128 payload codewords. -/
def frameOk (f : Frame) : Bool := 1 ≤ f.payload.length && f.payload.length ≤ 128

/-- R515: a CXL.mem access lies in one 64-byte line. -/
def hostLineOk (a n : Nat) : Bool := a % 64 + n ≤ 64

/-- Whether a request at a home slice names bytes of one host line. -/
def reqOk : LlcReq → Bool
  | .hostRead a n => hostLineOk a.toNat n.val
  | .hostWrite a bs => hostLineOk a.toNat bs.length
  | _ => true

/-- Well-formed commands. -/
def wf : Instr → Bool
  | .carriageFrameReceive p f e rx => frameOk f && e.length ≤ f.payload.length + 1 && (7 ≤ p.val || rx = ⟨false, 0⟩)
  | .udpDatagramReceive _ _ _ f => frameOk f
  | .remoteReadRequest _ f => frameOk f
  | .remoteWrite _ f => frameOk f
  | .remoteReadResponse _ bs _ => bs.length ≤ 256
  | .llcAccess r _ => reqOk r
  | .llcMissFill line => 128 * line.toNat < memBytes
  | .memoryRead cw _ => 32 * cw.toNat < memBytes
  | .memoryWrite cw _ _ _ => 32 * cw.toNat < memBytes
  | .tenderBlockArrival _ _ _ _ vals => vals.length = 4096
  | .waybillMirrorReceive e => e.length = 4096
  | _ => true

/-- The commands of the queue are well formed. -/
def wfAll (cs : List Instr) : Bool := cs.all wf

end Sys2Proof
end

