-- ==== Sys2Proof/Machine/Memory.lean ====
section
/-! DEFINITION. Module memory behind the LLC: the address map (R298, R299), codewords and classes (R301 to R311), the write queues
(R322), the narrow path (R318 to R320), and the LLC's lines (R274 to R292). -/

namespace Sys2Proof.Machine

/-- R605: the window pages of physical memory. -/
def windowEnd : Nat := 0x01600000

/-- R299: pseudo-channel of a block. -/
def pcOfBlock (key : Nat) (b : Nat) : Nat :=
  let h := b / 512
  (b % 512) ^^^ (h * (2 * key + 1) % 2 ^ 33 / 2 ^ 24)

/-- R299: pseudo-channel of a codeword (a codeword is PA ÷ 32). -/
def pcOfCw (s : State) (cw : Nat) : Nat := pcOfBlock s.mem.key.toNat (cw / 8)

/-- R299: the 1 KiB row of a codeword within its pseudo-channel: row, bank and bank group together are h ÷ 4. -/
def rowOfCw (cw : Nat) : Nat := cw / 8 / 512 / 4

/-- R299: bank group and bank of a codeword. -/
def bankOfCw (cw : Nat) : Nat × Nat :=
  let h := cw / 8 / 512
  (bits h 2 2 ^^^ bits h 6 2 ^^^ bits h 10 2, bits h 4 2 ^^^ bits h 8 2)

/-- The codeword with index i, in ascending address order, of a pseudo-channel (R299, R312). -/
def cwOfPc (s : State) (pc i : Nat) : Nat :=
  let h := i / 8
  (h * 512 + (pc ^^^ (h * (2 * s.mem.key.toNat + 1) % 2 ^ 33 / 2 ^ 24))) * 8 + i % 8

/-- R296: stack of a pseudo-channel. -/
def stackOfPc (pc : Nat) : Nat := pc / 64 % 8

def stackFin (k : Nat) : Stack := ⟨k % 8, Nat.mod_lt _ (by decide)⟩

def pcFin (k : Nat) : Fin 512 := ⟨k % 512, Nat.mod_lt _ (by decide)⟩

/-- The canonical form of a byte memory: addresses strictly rising, no byte equal to 0, which an unlisted address reads as. -/
abbrev Memory.wf (m : List Host.Cell) : Prop := mwf 0 m

/-- The 32 bytes of memory cells at a codeword. -/
def cellsCw (m : List Host.Cell) (cw : Nat) : BitVec 256 :=
  BitVec.ofNat 256 (leNat ((List.range 32).map fun i => mget 0 m (32 * cw + i)))

/-- Writes n bytes of a number at an address. -/
def putCells (m : List Host.Cell) (addr n v : Nat) : List Host.Cell :=
  (List.range n).foldl (fun m i => mset 0 m (addr + i) (BitVec.ofNat 8 (v / 2 ^ (8 * i)))) m

/-- Reads n bytes at an address. -/
def getCells (m : List Host.Cell) (addr n : Nat) : List Byte := (List.range n).map fun i => mget 0 m (addr + i)

/-- Writes a list of bytes. -/
def putBytes (m : List Host.Cell) (addr : Nat) : List Byte → List Host.Cell
  | [] => m
  | b :: bs => putBytes (mset 0 m addr b) (addr + 1) bs

/-- A segment as it travels: 32 bytes, poison and dead mark (R309, R272). -/
structure Seg where
  data   : BitVec 256
  poison : Bool
  dead   : Bool
  deriving DecidableEq, Repr

/-- The stored codeword, taken from the write queue where it matches (R322): data and relative check symbols. -/
def rawCw (s : State) (cw : Nat) : BitVec 256 × BitVec 32 :=
  match s.mem.wq.reverse.find? fun e => e.cw = cw with
  | some e => (e.data, e.rel)
  | none => (cellsCw s.mem.cells cw, mget 0 s.mem.rel cw)

/-- The 2 MiB page of a codeword. -/
def pageOfCw (cw : Nat) : Nat := cw / 65536

/-- R304, R306, R307: whether a page is of the activation class. -/
def activation (s : State) (page : Nat) : Bool :=
  let c := s.consist
  if s.expert 1 then (mget none s.mem.actPages page).getD (mget false c.pageBits page)
  else c.prot.any fun r => r.2.2 && r.1 / 2 ^ 21 ≤ page && page < (r.1 + r.2.1) / 2 ^ 21

/-- R311, R316: a read of the codeword returns poison whatever it holds. -/
def pagePoison (s : State) (cw : Nat) : Bool :=
  s.mem.offline || s.mem.poisonPg.any fun p => p.1 = pageOfCw cw

/-- R307: the codewords of a page; the last page is partial. -/
def pageCws (page : Nat) : Nat := min 65536 (memBytes / 32 - 65536 * page)

/-- Stores a codeword in the stacks. -/
def storeCw (s : State) (cw : Nat) (d : BitVec 256) (rel : BitVec 32) : State :=
  s.updMem fun m => { m with cells := putCells m.cells (32 * cw) 32 d.toNat, rel := mset 0 m.rel cw rel }

/-- R311: a codeword of a poisoned page has been written; a page written throughout is unmarked. -/
def pageWritten (s : State) (cw : Nat) : State :=
  let page := pageOfCw cw
  match s.mem.poisonPg.find? fun p => p.1 = page with
  | none => s
  | some (_, st, done) =>
    let done := if done.contains cw then done else cw :: done
    let rest := s.mem.poisonPg.filter fun p => p.1 != page
    if pageCws page ≤ done.length then
      let t := s.updMem fun m => { m with poisonPg := rest }
      t.updStack st fun k => { k with poisoned := { k.poisoned with val := k.poisoned.val - 1 } }
    else s.updMem fun m => { m with poisonPg := rest ++ [(page, st, done)] }

/-- R322: drains the oldest writes of a pseudo-channel until `keep` remain. -/
def drainPc (s : State) (pc keep : Nat) : State :=
  let mine := s.mem.wq.filter fun e => pcOfCw s e.cw = pc
  let go := mine.take (mine.length - keep)
  let rest := mine.drop (mine.length - keep)
  let others := s.mem.wq.filter fun e => pcOfCw s e.cw != pc
  let t := go.foldl (fun t e => storeCw t e.cw e.data e.rel) s
  t.updMem fun m => { m with wq := others ++ rest }

/-- A write of a codeword reaches the base die: it enters the write queue (R322) and drops the write-back of a correction (R308). -/
def memWriteCw (s : State) (cw : Nat) (d : BitVec 256) (rel : BitVec 32) : State :=
  if s.mem.offline then s
  else
    let pc := pcOfCw s cw
    let s := if 64 ≤ (s.mem.wq.filter fun e => pcOfCw s e.cw = pc).length then drainPc s pc 16 else s
    let s := s.updMem fun m => { m with
      wq := m.wq ++ [⟨cw, d, rel⟩]
      fixq := m.fixq.filter fun e => e.cw != cw }
    pageWritten s cw

/-- The mark that a segment is stored with (R303): a dead-marked one, which also reads as poison, keeps its dead mark (R320). -/
def markRel (poison dead : Bool) : BitVec 32 := if dead then deadRel else if poison then poisonRel else 0

def memWriteSeg (s : State) (cw : Nat) (g : Seg) : State := memWriteCw s cw g.data (markRel g.poison g.dead)

-- byte masks and merging

/-- A mask of n bytes widened to bits. -/
def wideMask (n m : Nat) : Nat := (List.range n).foldl (fun t i => if bit m i then t + 0xFF * 2 ^ (8 * i) else t) 0

/-- old with the bytes of a mask replaced by those of new. -/
def blend (n m old new : Nat) : Nat :=
  let k := wideMask n m
  (old &&& (k ^^^ (2 ^ (8 * n) - 1))) ||| (new &&& k)

/-- R309, R320, R272: a segment with some bytes written; only one write of all 32 bytes, `whole`, removes its marks. -/
def mergeSegAs (whole : Bool) (g : Seg) (m : Nat) (d : Nat) (poison : Bool) : Seg :=
  if m = 0 then g
  else if whole then ⟨BitVec.ofNat 256 d, poison, false⟩
  else ⟨BitVec.ofNat 256 (blend 32 m g.data.toNat d), g.poison || poison, g.dead⟩

/-- A segment with the bytes of one write. -/
def mergeSeg (g : Seg) (m : Nat) (d : Nat) (poison : Bool) : Seg := mergeSegAs (m = 2 ^ 32 - 1) g m d poison

/-- R282, R287: one add to an element of a segment; a poisoned segment stays as it is. -/
def addToSeg (g : Seg) (off ty : Nat) (addend : Word) : Seg :=
  if g.poison then g
  else
    let n := if ty = 4 then 4 else 2 ^ ty
    let old := bits g.data.toNat (8 * off) (8 * n)
    let new := if ty = 4 then add32 old (addend.toNat % 2 ^ 32) else (old + addend.toNat) % 2 ^ (8 * n)
    { g with data := BitVec.ofNat 256 (putBits g.data.toNat (8 * off) (8 * n) new) }

-- raw access by Thonar's own engines, without the side effects of an error

/-- The LLC line of a line address. -/
def llcLine (s : State) (line : Nat) : Option LLine := mget none s.llc.lines line

def lineSeg (l : LLine) (i : Nat) : Seg :=
  ⟨BitVec.ofNat 256 (bits l.data.toNat (256 * i) 256), l.poison.getLsbD i, l.dead.getLsbD i⟩

/-- The data that a decoded codeword carries, before its class acts. -/
def corrected (d : BitVec 256) : Decoded → BitVec 256
  | .errors a v b w => fixData (fixData d a v) b w
  | _ => d

/-- The value of a codeword in memory as a read of it would return it, without side effects. -/
def peekMem (s : State) (cw : Nat) : Seg :=
  let (d, rel) := rawCw s cw
  match rsDecode rel with
  | .clean => ⟨d, pagePoison s cw, false⟩
  | .marked dead => ⟨d, true, dead⟩
  | .errors a v b w => if activation s (pageOfCw cw) then ⟨d, true, false⟩ else ⟨fixData (fixData d a v) b w, pagePoison s cw, false⟩
  | .beyond => ⟨d, true, false⟩

/-- What a narrow request leaves of its codeword. -/
def NReq.effect (r : NReq) (g : Seg) : Seg :=
  match r.add with
  | some a => addToSeg g (a.pa % 32) a.ty a.addend
  | none => mergeSeg g r.mask.toNat r.data.toNat r.poison

/-- The value of a codeword at its home slice, without side effects: what the slice holds, or memory with the forwarded adds (R291)
and narrow requests (R319) that are ordered before any read of it; of an offline page, poison (R316). -/
def peekSeg (s : State) (cw : Nat) : Seg :=
  match llcLine s (cw / 4) with
  | some l => let g := lineSeg l (cw % 4); { g with poison := g.poison || s.mem.offline }
  | none =>
    let k := s.stack (stackOfPc (pcOfCw s cw))
    let g := s.llc.fwd.foldl (fun g a => if a.pa / 32 = cw then addToSeg g (a.pa % 32) a.ty a.addend else g) (peekMem s cw)
    (k.narrow ++ k.held).foldl (fun g r => if r.cw = cw then r.effect g else g) g

/-- One byte of module memory at its home slice: a read of the model by statements. -/
def peekByte (s : State) (pa : Nat) : Byte :=
  BitVec.ofNat 8 (bits (peekSeg s (pa / 32)).data.toNat (8 * (pa % 32)) 8)

/-- n bytes of module memory as a little-endian number. -/
def peek (s : State) (pa n : Nat) : Nat := leNat ((List.range n).map fun i => peekByte s (pa + i))

def peekBytes (s : State) (pa n : Nat) : List Byte := (List.range n).map fun i => peekByte s (pa + i)

-- errors (R308 to R311, R314, R479)

/-- R479: finds the recompute descriptor of a poisoned page, marks it and answers its index, or 0xFFFF. -/
def recomputeHit (s : State) (page : Nat) : Nat × State :=
  let c := s.consist
  let base := c.rtab
  match (List.range (min c.rcount 4096)).find? fun x =>
      bit (peek s (base + 64 * x + 0x0E) 1) 0 &&
      peek s (base + 64 * x) 8 / 2 ^ 21 ≤ page && page < peek s (base + 64 * x) 8 / 2 ^ 21 + peek s (base + 64 * x + 8) 4 with
  | none => (0xFFFF, s)
  | some x =>
    let a := base + 64 * x
    let put (t : State) (pa n v : Nat) : State :=
      (List.range n).foldl (fun t i =>
        let cw := (pa + i) / 32
        let m := 2 ^ ((pa + i) % 32)
        let d := v / 2 ^ (8 * i) % 256 * 2 ^ (8 * ((pa + i) % 32))
        match llcLine t (cw / 4) with
        | some l =>
          let g := mergeSeg (lineSeg l (cw % 4)) m d false
          t.updLlc fun c => { c with lines := mset none c.lines (cw / 4) (some { l with
            data := BitVec.ofNat 1024 (putBits l.data.toNat (256 * (cw % 4)) 256 g.data.toNat), dirty := true }) }
        | none => memWriteSeg t cw (mergeSeg (peekSeg t cw) m d false)) t
    let e := peek s (a + 0x30) 4
    (x, put (put (put s (a + 0x0F) 1 1) (a + 0x30) 4 (min (e + 1) (2 ^ 32 - 1))) (a + 0x34) 4 (s.tender.step % 2 ^ 32))

/-- R315: a codeword of a retired pseudo-channel below the boundary of its move, which is in the relocation pools. -/
def inPool (s : State) (cw : Nat) : Bool := s.mem.moving.any fun e => e.1 = pcOfCw s cw && 8 * (cw / 8 / 512) + cw % 8 < e.2

/-- R314: counts an error of a row; a row with a 2-symbol correction, an uncorrectable error or three corrections in 24 h is due. -/
def rowError (s : State) (cw : Nat) (now : Bool) : State :=
  let pc := pcOfCw s cw
  let row := rowOfCw cw
  if inPool s cw then s
  else
  let day := 86400000000000
  let old := (s.mem.rowErrs.find? fun r => r.pc = pc && r.row = row).getD ⟨pc, row, [], false⟩
  let times := s.time.ns :: old.times.filter fun t => s.time.ns < t + day
  let new : RowErr := ⟨pc, row, times, old.due || now || 3 ≤ times.length⟩
  s.updMem fun m => { m with rowErrs := (m.rowErrs.filter fun r => !(r.pc = pc && r.row = row)) ++ [new] }

/-- R311: an uncorrectable error in a state-class page: the page is marked, counted once and reported, and a stop is raised. -/
def stateError (s : State) (cw : Nat) : State :=
  let page := pageOfCw cw
  let st := stackFin (stackOfPc (pcOfCw s cw))
  if s.mem.poisonPg.any fun p => p.1 = page then
    -- an error after earlier writes marks every codeword again
    (s.updMem fun m => { m with poisonPg := m.poisonPg.map fun p => if p.1 = page then (p.1, p.2.1, []) else p }).raiseStop 4 2
  else
    let t := s.updMem fun m => { m with poisonPg := m.poisonPg ++ [(page, st.val, [])] }
    ((t.bump (.stack st 2)).raise 0x0041 page st.val).raiseStop 4 2

/-- R304, R308, R310, R311: a base die reads and decodes a codeword under its page's class. -/
def memReadCw (s : State) (cw : Nat) : Seg × State :=
  let (d, rel) := rawCw s cw
  let st := stackFin (stackOfPc (pcOfCw s cw))
  let pc := pcFin (pcOfCw s cw)
  if pagePoison s cw then (⟨d, true, false⟩, s)
  else
    match rsDecode rel with
    | .clean => (⟨d, false, false⟩, s)
    | .marked dead => (⟨d, true, dead⟩, s)
    | dec =>
      let act := activation s (pageOfCw cw)
      let fixable := match dec with | .errors _ _ _ _ => true | _ => false
      if fixable && !act then
        let d' := corrected d dec
        let two := match dec with | .errors _ _ _ w => w != 0 | _ => false
        let t := (s.bump (.stack st 3)).bump (.pseudoChannel pc 0)
        let t := t.updMem fun m => { m with fixq := m.fixq ++ [⟨cw, d', 0⟩] }
        (⟨d', false, false⟩, rowError t cw two)
      else
        let t := memWriteCw ((s.bump (.stack st 4)).bump (.pseudoChannel pc 1)) cw d poisonRel
        let t := rowError t cw true
        if act then
          let (x, t) := recomputeHit t (pageOfCw cw)
          (⟨d, true, false⟩, t.raise 0x0040 (pageOfCw cw) x)
        else (⟨d, true, false⟩, stateError t cw)

-- the last-level cache (R274 to R292)

/-- R275: home slice of a line address. -/
def sliceOf (l : Nat) : Nat :=
  bits l 0 6 ^^^ bits l 6 6 ^^^ bits l 12 6 ^^^ bits l 18 6 ^^^ bits l 24 6 ^^^ bits l 30 6 ^^^ bits l 36 6 ^^^ bits l 42 1

/-- R275: set of a line address. -/
def setOfLine (l : Nat) : Nat := l % 1024

def sliceFin (k : Nat) : Fin 64 := ⟨k % 64, Nat.mod_lt _ (by decide)⟩

/-- The lines that share a slice and set with a line. -/
def setMates (s : State) (line : Nat) : List (Nat × LLine) :=
  s.llc.lines.filterMap fun e =>
    match e.2 with
    | some l => if sliceOf e.1 = sliceOf line && setOfLine e.1 = setOfLine line then some (e.1, l) else none
    | none => none

/-- R288: a line is pinned while its slice queue holds an add for it. -/
def pinned (s : State) (line : Nat) : Bool := s.llc.adds.any fun a => a.pa / 128 = line && a.way = .here

/-- The narrow requests of a stack: those queued, then those that the home slices hold. -/
def StackState.requests (k : StackState) : List NReq := k.narrow ++ k.held

/-- R291: a forwarded add to the line has not completed: it is at its adder, in the narrow path, or with its slice while the adder's
queue is full (R294). -/
def forwarded (s : State) (line : Nat) : Bool :=
  s.llc.fwd.any (fun a => a.pa / 128 = line)
    || (s.stack (stackOfPc (pcOfCw s (4 * line)))).requests.any (fun r => r.cw / 4 = line && r.add.isSome)
    || s.llc.adds.any (fun a => a.pa / 128 = line && a.way != .here)

def putLine (s : State) (line : Nat) (l : Option LLine) : State :=
  s.updLlc fun c => { c with lines := mset none c.lines line l }

/-- Writes an LLC line's segments to memory. -/
def writeBack (s : State) (line : Nat) (l : LLine) : State :=
  (List.range 4).foldl (fun t i => memWriteSeg t (4 * line + i) (lineSeg l i)) s

/-- Marks an access to a line, which makes it the most recently used (R277). -/
def touch (s : State) (line : Nat) : State :=
  match llcLine s line with
  | some l => (putLine s line (some { l with stamp := s.llc.clock + 1 })).updLlc fun c => { c with clock := c.clock + 1 }
  | none => s

/-- The segments of a line as one LLC line. -/
def lineOfSegs (gs : List Seg) : BitVec 1024 × BitVec 4 × BitVec 4 :=
  (BitVec.ofNat 1024 ((gs.zipIdx).foldl (fun t p => t + p.1.data.toNat * 2 ^ (256 * p.2)) 0),
   BitVec.ofNat 4 ((gs.zipIdx).foldl (fun t p => t + b2n p.1.poison * 2 ^ p.2) 0),
   BitVec.ofNat 4 ((gs.zipIdx).foldl (fun t p => t + b2n p.1.dead * 2 ^ p.2) 0))

/-- R287: an add lost to poison is counted and reported to its seat. -/
def addLost (s : State) (a : LaddReq) : State :=
  (s.bump (.llcSlice (sliceFin (sliceOf (a.pa / 128))) 2)).pendInt a.sr 0 0

/-- R289: the near-memory adder performs one add in memory. -/
def nearAdd (s : State) (a : LaddReq) : State :=
  let (g, t) := memReadCw s (a.pa / 32)
  if g.poison then addLost t a
  else memWriteSeg t (a.pa / 32) (addToSeg g (a.pa % 32) a.ty a.addend)

/-- R289, R319, R320: a narrow request is performed as one action: a forwarded add, or a write merged with the codeword. -/
def narrowApply (s : State) (r : NReq) : State :=
  match r.add with
  | some a => nearAdd s a
  | none =>
    if r.mask = BitVec.allOnes 32 then memWriteSeg s r.cw ⟨r.data, r.poison, false⟩
    else
      let (g, t) := memReadCw s r.cw
      memWriteSeg t r.cw (mergeSeg g r.mask.toNat r.data.toNat r.poison)

/-- The adds to some codewords that have reached their adder are performed, in order (R291). -/
def settleAdds (s : State) (p : Nat → Bool) : State :=
  let go := s.llc.fwd.filter fun a => p (a.pa / 32)
  go.foldl nearAdd (s.updLlc fun c => { c with fwd := c.fwd.filter fun a => !p (a.pa / 32) })

/-- R319: requests that the home slices hold take the free places of the narrow queue. -/
def StackState.refill (k : StackState) : StackState :=
  let room := 4096 - k.narrow.length
  { k with narrow := k.narrow ++ k.held.take room, held := k.held.drop room }

/-- R291, R319: the forwarded adds and the narrow requests to some codewords of a stack complete in their order. -/
def settleCws (s : State) (stack : Nat) (p : Nat → Bool) : State :=
  let s := settleAdds s p
  let go := (s.stack stack).requests.filter fun r => p r.cw
  go.foldl narrowApply (s.updStack stack fun k => { k with
    narrow := k.narrow.filter fun r => !p r.cw
    held := k.held.filter fun r => !p r.cw }.refill)

/-- R291, R319: what is ordered before a read of a line at the base die completes. -/
def settle (s : State) (line : Nat) : State := settleCws s (stackOfPc (pcOfCw s (4 * line))) fun cw => cw / 4 = line

/-- Reads the four codewords of a line from memory. -/
def memReadLine (s : State) (line : Nat) : (BitVec 1024 × BitVec 4 × BitVec 4) × State :=
  let (gs, t) := (List.range 4).foldl (fun (p : List Seg × State) i =>
    let (g, t) := memReadCw p.2 (4 * line + i)
    (p.1 ++ [g], t)) ([], s)
  (lineOfSegs gs, t)

/-- R277: places a line in its set: a free way, else the least recently used unpinned way, written back when dirty. -/
def allocLine (s : State) (line : Nat) (d : BitVec 1024) (p dd : BitVec 4) (dirty : Bool) : State :=
  let mates := setMates s line
  let stamp := s.llc.clock + 1
  let put (t : State) (way : Nat) : State :=
    (putLine t line (some ⟨way, d, p, dd, dirty, stamp⟩)).updLlc fun c => { c with clock := stamp }
  match (List.range 16).find? fun w => !(mates.any fun m => m.2.way = w) with
  | some w => put s w
  | none =>
    let cands := mates.filter fun m => !pinned s m.1
    match cands with
    | [] => if dirty then writeBack s line ⟨0, d, p, dd, true, 0⟩ else s
    | c :: cs =>
      let v := cs.foldl (fun b m => if m.2.stamp < b.2.stamp then m else b) c
      let t := if v.2.dirty then writeBack s v.1 v.2 else s
      put (putLine t v.1 none) v.2.way

/-- R276, R277, R291: a read of a line at its home slice, allocating or not; of an offline page it returns poison (R316). -/
def llcRead (s : State) (line : Nat) (alloc : Bool) : (BitVec 1024 × BitVec 4 × BitVec 4) × State :=
  match llcLine s line with
  | some l => ((l.data, if s.mem.offline then 0xF else l.poison, l.dead), touch s line)
  | none =>
    let blocked := forwarded s line
    let s := settle s line
    let (v, t) := memReadLine s line
    (v, if alloc && !blocked then allocLine t line v.1 v.2.1 v.2.2 false else t)

/-- The segments that a byte mask covers whole. -/
def wholeSegs (m : Nat) : BitVec 4 := BitVec.ofNat 4 ((List.range 4).foldl (fun t i => t + b2n (bits m (32 * i) 32 = 2 ^ 32 - 1) * 2 ^ i) 0)

/-- Merges bytes into a line value: mask of 128 bytes, data, and poison per segment; `whole` marks the segments written as one. -/
def mergeLineAs (whole : BitVec 4) (v : BitVec 1024 × BitVec 4 × BitVec 4) (m d : Nat) (poison : BitVec 4) :
    BitVec 1024 × BitVec 4 × BitVec 4 :=
  lineOfSegs ((List.range 4).map fun i =>
    mergeSegAs (whole.getLsbD i) ⟨BitVec.ofNat 256 (bits v.1.toNat (256 * i) 256), v.2.1.getLsbD i, v.2.2.getLsbD i⟩
      (bits m (32 * i) 32) (bits d (256 * i) 256) (poison.getLsbD i))

/-- Merges the bytes of one write into a line value. -/
def mergeLine (v : BitVec 1024 × BitVec 4 × BitVec 4) (m d : Nat) (poison : BitVec 4) : BitVec 1024 × BitVec 4 × BitVec 4 :=
  mergeLineAs (wholeSegs m) v m d poison

/-- R318, R319: a narrow request whose line its home slice does not hold joins its stack's narrow queue; while that is full, the
slice holds it. -/
def narrowPut (s : State) (r : NReq) : State :=
  s.updStack (stackOfPc (pcOfCw s r.cw)) fun k =>
    let r := { r with at0 := s.time.ns }
    if 4096 ≤ k.narrow.length then { k with held := k.held ++ [r] } else { k with narrow := k.narrow ++ [r] }

/-- R318, R319: a narrow read of a codeword: from the line where its slice holds it; else at the base die, behind the requests to the
codeword that arrived before it, whose completion the reader waits for.  It allocates nothing. -/
def narrowRead (s : State) (cw : Nat) : Seg × State :=
  match llcLine s (cw / 4) with
  | some l => let g := lineSeg l (cw % 4); ({ g with poison := g.poison || s.mem.offline }, touch s (cw / 4))
  | none => memReadCw (settleCws s (stackOfPc (pcOfCw s cw)) fun c => c = cw) cw

/-- R276, R277, R320: a write of bytes of a line at its home slice, allocating or not; `whole` marks the segments written as one. -/
def llcWriteAs (whole : BitVec 4) (s : State) (line : Nat) (m d : Nat) (poison : BitVec 4) (alloc : Bool) : State :=
  match llcLine s line with
  | some l =>
    let v := mergeLineAs whole (l.data, l.poison, l.dead) m d poison
    touch (putLine s line (some { l with data := v.1, poison := v.2.1, dead := v.2.2, dirty := true })) line
  | none =>
    let blocked := forwarded s line
    let s := settle s line
    if alloc && !blocked then
      let (v, t) := memReadLine s line
      let v := mergeLineAs whole v m d poison
      allocLine t line v.1 v.2.1 v.2.2 true
    else
      (List.range 4).foldl (fun t i =>
        let mi := bits m (32 * i) 32
        if mi = 0 then t
        else if whole.getLsbD i then
          memWriteSeg t (4 * line + i) ⟨BitVec.ofNat 256 (bits d (256 * i) 256), poison.getLsbD i, false⟩
        else
          let (g, t) := memReadCw t (4 * line + i)
          memWriteSeg t (4 * line + i) (mergeSegAs false g mi (bits d (256 * i) 256) (poison.getLsbD i))) s

/-- A write of bytes of a line at its home slice. -/
def llcWrite (s : State) (line : Nat) (m d : Nat) (poison : BitVec 4) (alloc : Bool) : State :=
  llcWriteAs (wholeSegs m) s line m d poison alloc

-- accesses of agents other than coaches (movers, Tender, host, Carriage, Thonar)

/-- Reads n bytes at their home slices: the bytes and whether a touched segment is poisoned (R337, R338). -/
def sysRead (s : State) (pa n : Nat) (alloc : Bool) : (List Byte × Bool) × State :=
  let first := pa / 128
  let count := if n = 0 then 0 else (pa + n - 1) / 128 - first + 1
  let (vs, t) := (List.range count).foldl (fun (p : List (BitVec 1024 × BitVec 4) × State) i =>
    let (v, t) := llcRead p.2 (first + i) alloc
    (p.1 ++ [(v.1, v.2.1)], t)) ([], s)
  let bytes := (List.range n).map fun i =>
    let k := (pa + i) / 128 - first
    BitVec.ofNat 8 (bits ((vs.getD k (0, 0)).1.toNat) (8 * ((pa + i) % 128)) 8)
  let poison := (List.range n).any fun i =>
    ((vs.getD ((pa + i) / 128 - first) (0, 0)).2).getLsbD ((pa + i) % 128 / 32)
  ((bytes, poison), t)

/-- Writes bytes at their home slices; every touched segment is poisoned when `poison` holds. -/
def sysWrite (s : State) (pa : Nat) (bs : List Byte) (poison alloc : Bool) : State :=
  let n := bs.length
  let first := pa / 128
  let count := if n = 0 then 0 else (pa + n - 1) / 128 - first + 1
  let v := leNat bs
  (List.range count).foldl (fun t i =>
    let base := 128 * (first + i)
    -- bytes of the line that the write covers
    let lo := max pa base
    let hi := min (pa + n) (base + 128)
    let m := (2 ^ (hi - lo) - 1) * 2 ^ (lo - base)
    let d := bits v (8 * (lo - pa)) (8 * (hi - lo)) * 2 ^ (8 * (lo - base))
    llcWrite t (first + i) m d (if poison then 0xF else 0) alloc) s

/-- Writes a little-endian number of n bytes. -/
def sysPut (s : State) (pa n v : Nat) : State := sysWrite s pa (leBytes n v) false false

/-- R22: flash bytes. -/
def flashBytes : Nat := 4000000000000

end Sys2Proof.Machine
end

