-- ==== Sys2Proof/Machine/Stacks.lean ====
section
/-! DEFINITION. The home slices' adds (R281 to R291) and the memory controllers (R304 to R325), with the meanings of their
commands. -/

namespace Sys2Proof.Machine

-- LADD at the home slice (R285 to R291)

/-- The number of pinned ways of a line's set. -/
def pinnedWays (s : State) (line : Nat) : Nat := ((setMates s line).filter fun m => pinned s m.1).length

/-- R319: the bank of a codeword, with its pseudo-channel. -/
def narrowBank (s : State) (cw : Nat) : Nat := 16 * pcOfCw s cw + 4 * (bankOfCw cw).1 + (bankOfCw cw).2

/-- R294: the adder of an add's stack has 512 forwarded adds, in the narrow queue and at the adder. -/
def nearFull (s : State) (a : LaddReq) : Bool :=
  let st := stackOfPc (pcOfCw s (a.pa / 32))
  512 ≤ (s.llc.fwd.filter fun b => stackOfPc (pcOfCw s (b.pa / 32)) = st).length
    + ((s.stack st).requests.filter fun r => r.add.isSome).length

/-- R289, R291, R318: an add is forwarded: it joins its stack's narrow queue as a narrow request.  One that the pin limit forwards
counts (R295). -/
def forwardAdd (s : State) (a : LaddReq) : State :=
  let t := narrowPut s ⟨a.pa / 32, 0, 0, false, some a, 0⟩
  if a.way = .pinLimit then t.bump (.llcSlice (sliceFin (sliceOf (a.pa / 128))) 1) else t

/-- The adds that a slice holds in its queue. -/
def sliceQueue (s : State) (slice : Nat) : List LaddReq := s.llc.adds.filter fun a => sliceOf (a.pa / 128) = slice

/-- R285: whether a slice's queue of 64 adds is full. -/
def sliceFull (s : State) (slice : Nat) : Bool := 64 ≤ (sliceQueue s slice).length

/-- R294: an add on its way to the adder; a full adder leaves it in the slice's queue. -/
def sendAdd (s : State) (a : LaddReq) : State :=
  if nearFull s a then s.updLlc fun c => { c with adds := c.adds ++ [a] } else forwardAdd s a

/-- R288 to R291: an add reaches its home slice, which has room: it is queued, or forwarded to the near-memory adder. -/
def laddArrive (s : State) (a : LaddReq) : State :=
  let line := a.pa / 128
  let slice := sliceFin (sliceOf line)
  let enq (t : State) : State := t.updLlc fun c => { c with adds := c.adds ++ [a] }
  if forwarded s line then sendAdd s { a with way := .behind }
  else
    let crowded := 12 ≤ pinnedWays s line
    match llcLine s line with
    | some l =>
      if pinned s line || !crowded then enq s
      else
        let t := s.bump (.llcSlice slice 3)
        let t := if l.dirty then writeBack t line l else t
        sendAdd (putLine t line none) { a with way := .pinLimit }
    | none =>
      if crowded then sendAdd (s.bump (.llcSlice slice 3)) { a with way := .pinLimit }
      else
        let t := settle s line
        let (v, t) := memReadLine t line
        enq (allocLine t line v.1 v.2.1 v.2.2 false)

/-- R285: when a slice has room, the first coach that holds an add for it sends it (the order of coaches is row 14 of the log). -/
def pullHeld (s : State) (slice : Nat) : State :=
  if sliceFull s slice then s
  else
    match (List.range 96).find? fun c => (s.coach c).ladds.any fun a => sliceOf (a.pa / 128) = slice with
    | none => s
    | some c =>
      match (s.coach c).ladds.find? fun a => sliceOf (a.pa / 128) = slice with
      | none => s
      | some a => laddArrive (s.updCoach c fun k => { k with ladds := k.ladds.erase a }) a

/-- R282, R287: an add is applied to the segment of a present line. -/
def applyToLine (s : State) (l : LLine) (a : LaddReq) : State :=
  let line := a.pa / 128
  let i := a.pa % 128 / 32
  let g := lineSeg l i
  if g.poison then addLost s a
  else
    let g := addToSeg g (a.pa % 32) a.ty a.addend
    touch ((putLine s line (some { l with
      data := BitVec.ofNat 1024 (putBits l.data.toNat (256 * i) 256 g.data.toNat), dirty := true })).bump
        (.llcSlice (sliceFin (sliceOf line)) 0)) line

/-- R282, R288: an add is applied in its slice; a line that an uncorrectable error has invalidated meanwhile (R278) is fetched again. -/
def applyAdd (s : State) (a : LaddReq) : State :=
  let line := a.pa / 128
  match llcLine s line with
  | some l => applyToLine s l a
  | none =>
    let (v, t) := memReadLine (settle s line) line
    let t := allocLine t line v.1 v.2.1 v.2.2 false
    match llcLine t line with
    | some l => applyToLine t l a
    | none => nearAdd t a

/-- R285: a slice takes the oldest add of its queue: it applies it, or forwards it once its adder has room. -/
def sliceStep (s : State) (slice : Nat) : State :=
  match sliceQueue s slice with
  | [] => s
  | a :: _ =>
    let t := s.updLlc fun c => { c with adds := c.adds.erase a }
    if a.way = .here then applyAdd t a
    else if nearFull t a then s
    else forwardAdd t a

/-- LADD_APPLY: a slice takes the oldest add of its queue, and an add that a coach holds for it moves up. -/
def execLaddApply (slice : Fin 64) (s : State) : Result := .next (pullHeld (sliceStep s slice) slice)

/-- R318, R319: the narrow queue of a stack issues a request: a write is performed, and an add goes to the adder, behind the adds to
its codeword.  A request that a slice holds takes the place. -/
def issueNarrow (s : State) (stack : Nat) (r : NReq) : State :=
  let t := s.updStack stack fun k => { k with
    narrow := k.narrow.erase r
    openRow := mset none k.openRow (narrowBank s r.cw) (some (rowOfCw r.cw / 16))
    lastBg := mset none k.lastBg (pcOfCw s r.cw) (some (bankOfCw r.cw).1) }.refill
  match r.add with
  | some a => t.updLlc fun c => { c with fwd := c.fwd ++ [a] }
  | none => narrowApply (settleAdds t fun cw => cw = r.cw) r

/-- NEAR_MEMORY_ADD: the adder of a stack performs its oldest forwarded add. -/
def nearStep (s : State) (stack : Nat) : State :=
  match s.llc.fwd.find? fun a => stackOfPc (pcOfCw s (a.pa / 32)) = stack with
  | none => s
  | some a => nearAdd (s.updLlc fun c => { c with fwd := c.fwd.erase a }) a

def execNearMemoryAdd (stack : Stack) (s : State) : Result := .next (nearStep s stack)

-- the LLC

/-- LLC_MISS_FILL: a missed line is fetched and allocated (R277). -/
def execLlcMissFill (line : BitVec 43) (s : State) : Result :=
  if !wf (.llcMissFill line) then .fault .illFormed
  else .next (if (llcLine s line.toNat).isSome then s else (llcRead s line.toNat true).2)

-- memory (R304 to R312)

/-- A symbol of a stored codeword changes in the stack (the write queue is not in the stack). -/
def upsetStored (s : State) (cw : Nat) (u : Option (Fin 36 × Byte)) : State :=
  match u with
  | none => s
  | some (p, v) =>
    let (d, rel) := upsetCw (cellsCw s.mem.cells cw) (mget 0 s.mem.rel cw) p.val v.toNat
    storeCw s cw d rel

/-- MEMORY_READ: a base die reads and decodes a codeword, which may have been upset. -/
def execMemoryRead (cw : BitVec 45) (upset : Option (Fin 36 × Byte)) (s : State) : Result :=
  if !wf (.memoryRead cw upset) then .fault .illFormed
  else .next (memReadCw (upsetStored s cw.toNat upset) cw.toNat).2

/-- MEMORY_WRITE: a base die writes a codeword, clean or with a mark (R303, R309). -/
def execMemoryWrite (cw : BitVec 45) (data : BitVec 256) (poison dead : Bool) (s : State) : Result :=
  if !wf (.memoryWrite cw data poison dead) then .fault .illFormed
  else .next (memWriteSeg s cw.toNat ⟨data, poison, dead⟩)

/-- CORRECTED_WRITEBACK: the oldest write-back of a stack is performed; a write since the read has removed it (R308). -/
def execCorrectedWriteback (stack : Stack) (s : State) : Result :=
  .next (match s.mem.fixq.find? fun e => stackOfPc (pcOfCw s e.cw) = stack.val with
    | none => s
    | some e => (storeCw s e.cw e.data e.rel).updMem fun m => { m with fixq := m.fixq.filter fun f => f.cw != e.cw })

/-- R319: the requests of a narrow queue that may issue: for each codeword, the oldest. -/
def narrowReady (k : StackState) : List NReq :=
  k.narrow.filter fun r => (k.narrow.find? fun q => q.cw = r.cw) = some r

/-- R319: how well a request suits the banks: one to an open row first, then one to another bank group than the last. -/
def narrowRank (s : State) (k : StackState) (r : NReq) : Nat :=
  2 * b2n (mget none k.openRow (narrowBank s r.cw) != some (rowOfCw r.cw / 16))
    + b2n (mget none k.lastBg (pcOfCw s r.cw) = some (bankOfCw r.cw).1)

/-- R319: the requests that may issue next: the oldest when it has waited 1 µs, else those that suit the banks best. -/
def narrowNext (s : State) (k : StackState) : List NReq :=
  match k.narrow with
  | [] => []
  | q :: _ =>
    if q.at0 + 1000 ≤ s.time.ns then [q]
    else
      let rs := narrowReady k
      rs.filter fun r => rs.all fun o => narrowRank s k r ≤ narrowRank s k o

/-- NARROW_REQUEST_ISSUE: a stack issues a request of its narrow queue (R319); of those that suit equally, the command says which
(row 31 of the log). -/
def execNarrowRequestIssue (stack : Stack) (n : Fin 4096) (s : State) : Result :=
  .next (
    let rs := narrowNext s (s.stack stack)
    match rs[n.val % rs.length]? with
    | none => s
    | some r => issueNarrow s stack r)

/-- WRITE_QUEUE_BATCH_DRAIN: a controller drains its write queue until 16 entries remain (R322). -/
def execWriteQueueBatchDrain (pc : Fin 512) (s : State) : Result := .next (drainPc s pc 16)

-- scrub (R312, R313)

/-- The number of codewords that the address map gives a pseudo-channel (R299). -/
def pcCodewords (s : State) (pc : Nat) : Nat :=
  let h := memBytes / 256 / 512
  let rest := memBytes / 256 % 512
  8 * (h + if pc ^^^ (h * (2 * s.mem.key.toNat + 1) % 2 ^ 33 / 2 ^ 24) < rest then 1 else 0)

/-- R313: the scrub interval of a class of pages in hours, activation class or not; 0 is off. -/
def scrubHours (s : State) (act : Bool) : Nat :=
  if s.expert 1 then (if act then s.consist.scrubA else s.consist.scrubS) else if act then 0 else 24

/-- The nanoseconds of an hour. -/
def hourNs : Nat := 3600000000000

/-- R325: scrub skips a channel under retraining. -/
def retraining (s : State) (pc : Nat) : Bool :=
  match s.mem.retrain with
  | some r => r.stack = stackOfPc pc && r.channel = pc % 64 / 2
  | none => false

/-- Scrub of a class in a pseudo-channel. -/
def Mem.scrubOf (m : Mem) (pc : Nat) (act : Bool) : Scrub := mget {} m.scrub (2 * pc + b2n act)

/-- Completed scrub passes of a stack: of each class, those that every pseudo-channel of it has completed. -/
def scrubPasses (s : State) (stack : Nat) : Nat :=
  let of (act : Bool) : Nat := (List.range 64).foldl (fun t i => min t (s.mem.scrubOf (64 * stack + i) act).passes) (2 ^ 64)
  of false + of true

/-- R312, R313: the class whose pass runs in a pseudo-channel, with its scrub: a pass that is not at its end, or the next one once the
interval since the last began has passed; the state class first. -/
def scrubDue (s : State) (pc : Nat) : Option (Bool × Scrub) :=
  [false, true].findSome? fun act =>
    let k := s.mem.scrubOf pc act
    let h := scrubHours s act
    if h = 0 then none
    else if k.at0 < pcCodewords s pc then some (act, k)
    else if k.since + h * hourNs ≤ s.time.ns then some (act, { k with at0 := 0, since := s.time.ns })
    else none

/-- SCRUB_READ: scrub visits the next codeword of a pseudo-channel, and reads it when its page is of the pass's class (R312). -/
def execScrubRead (pc : Fin 512) (upset : Option (Fin 36 × Byte)) (s : State) : Result :=
  .next (
    if retraining s pc then s
    else
      match scrubDue s pc with
      | none => s
      | some (act, k) =>
        let cw := cwOfPc s pc k.at0
        let st := stackFin (stackOfPc pc)
        let k := { k with at0 := k.at0 + 1, passes := k.passes + b2n (k.at0 + 1 = pcCodewords s pc) }
        let t := s.updMem fun m => { m with scrub := mset {} m.scrub (2 * pc.val + b2n act) k }
        let t := if scrubPasses s st < scrubPasses t st then t.bump (.stack st 5) else t
        if activation s (pageOfCw cw) = act then (memReadCw (upsetStored t cw upset) cw).2 else t)

-- retirement (R314 to R316)

/-- The pages of module memory, the last one partial (R307). -/
def memPages : Nat := (memBytes + 2 ^ 21 - 1) / 2 ^ 21

/-- R529: raises one event per value of a range of ARG; those beyond the room for 256 count as lost. -/
def raiseRange (s : State) (code n extra : Nat) : State :=
  let room := min n (256 - (s.rings.events.filter fun e => e.code != 1).length)
  let t := (List.range room).foldl (fun t i => t.raise code i extra) s
  if room < n then
    let k := n - room
    t.updRings fun h => { h with lost := h.lost.add 24 k, lostNow := min (h.lostNow + k) (2 ^ 32 - 1) }
  else t

/-- The retired pseudo-channels of a stack. -/
def retiredCount (b : BitVec 64) : Nat := ((List.range 64).filter fun i => b.getLsbD i).length

/-- R315, R316: a pseudo-channel retires: its blocks move, or, as the fifth of its stack, its pages go offline. -/
def retirePc (s : State) (pc : Nat) : State :=
  let st := stackFin (stackOfPc pc)
  if (s.stack st).pcRetired.getLsbD (pc % 64) then s
  else
    let t := s.updStack st fun k => { k with pcRetired := k.pcRetired ||| (1 <<< (pc % 64)) }
    let n := retiredCount (t.stack st).pcRetired
    let t := t.raise 0x0042 pc n
    if n ≤ 4 then t.updMem fun m => { m with moving := m.moving ++ [(pc, 0)] }
    else if t.mem.offline then t
    else raiseRange ((t.updMem fun m => { m with offline := true }).bump (.stack st 1) memPages) 0x0043 memPages st.val

/-- ROW_RETIRE: the base die starts to copy a row that is due into a spare row; with none left the pseudo-channel retires (R314, R315). -/
def execRowRetire (pc : Fin 512) (row : BitVec 31) (s : State) : Result :=
  .next (
    if (s.mem.rowErrs.any fun r => r.pc = pc.val && r.row = row.toNat && r.due) && mget none s.mem.retiring pc.val = none then
      if mget 0 s.mem.spares pc.val < 4096 then s.updMem fun m => { m with retiring := mset none m.retiring pc.val (some row.toNat) }
      else retirePc s pc
    else s)

/-- R308, R310, R311, R314: the copy of one codeword of a retired row: the base die reads it, writes back what its class corrects, and
marks what it cannot; a codeword that waits in the write queue is written over both rows. -/
def copyCw (s : State) (cw : Nat) : State :=
  if s.mem.wq.any fun e => e.cw = cw then s
  else
    match rsDecode (mget 0 s.mem.rel cw) with
    | .clean => s
    | .marked _ => s
    | .errors a v b w =>
      let (g, t) := memReadCw s cw
      if g.poison then t else storeCw t cw (fixData (fixData (cellsCw s.mem.cells cw) a v) b w) 0
    | .beyond => (memReadCw s cw).2

/-- ROW_RETIRE_COMPLETE: the copy ends and accesses switch to the spare row (R314, R315, R317). -/
def execRowRetireComplete (pc : Fin 512) (s : State) : Result :=
  .next (match mget none s.mem.retiring pc.val with
    | none => s
    | some row =>
      let t := (List.range 32).foldl (fun t i => copyCw t (cwOfPc s pc (32 * row + i))) s
      let t := t.updMem fun m => { m with
        retiring := mset none m.retiring pc.val none
        spares := mupd 0 m.spares pc.val (· + 1)
        moved := m.moved ++ [(pc.val, row)]
        rowErrs := m.rowErrs.filter fun r => !(r.pc = pc.val && r.row = row) }
      t.bump (.stack (stackFin (stackOfPc pc)) 0))

def execPseudoChannelRetire (pc : Fin 512) (s : State) : Result := .next (retirePc s pc)

/-- PSEUDO_CHANNEL_MOVE_COMPLETE: the boundary has passed the whole pseudo-channel, whose codewords are all in the pools (R315). -/
def execPseudoChannelMoveComplete (pc : Fin 512) (s : State) : Result :=
  .next (s.updMem fun m => { m with moving := m.moving.map fun e => if e.1 = pc.val then (e.1, pcCodewords s pc) else e })

/-- REFRESH_RATE_CHANGE: the base-die temperature, in 0.125 °C, sets the refresh rate (R323). -/
def execRefreshRateChange (stack : Stack) (temp : BitVec 16) (s : State) : Result :=
  .next (s.updStack stack fun k =>
    { k with temp := temp, refresh2 := if 680 < temp.toInt then true else if temp.toInt ≤ 656 then false else k.refresh2 })

-- retraining (R324, R325)

/-- R324: a channel is due for training: its temperature has moved by 15 °C since its last training, or 12 h have passed. -/
def retrainDue (s : State) (stack channel : Nat) : Bool :=
  let (temp, at0) := mget (0, 0) s.mem.trained (32 * stack + channel)
  120 ≤ ((s.stack stack).temp.toInt - temp.toInt).natAbs || at0 + 12 * hourNs ≤ s.time.ns

/-- CHANNEL_RETRAIN_START: a channel that is due retrains, one at a time (R324). -/
def execChannelRetrainStart (stack : Stack) (channel : Fin 32) (s : State) : Result :=
  .next (if s.mem.retrain.isSome || !retrainDue s stack channel then s
    else s.updMem fun m => { m with retrain := some ⟨stack.val, channel.val, 0, none⟩ })

/-- R324: a channel's training has ended: its temperature and time count from here. -/
def trainedNow (stack channel : Nat) (s : State) : State :=
  s.updMem fun m => { m with trained := mset (0, 0) m.trained (32 * stack + channel) ((s.stack stack).temp, s.time.ns) }

/-- R317: the memory status record of a stack: 64 bytes. -/
def memStatus (s : State) (k : Nat) : List Byte :=
  let t := s.stack k
  let r := match s.mem.retrain with
    | some r => if r.stack = k then r.channel + 1 else 0
    | none => 0
  let ovf := b2n t.rowsRetired.ovf + 2 * b2n t.offline.ovf + 4 * b2n t.poisoned.ovf + 8 * b2n t.corrected.ovf
    + 16 * b2n t.uncorr.ovf + 32 * b2n t.scrubs.ovf
  leBytes 4 s.mem.key.toNat ++ leBytes 4 t.rowsRetired.val ++ leBytes 8 t.pcRetired.toNat ++ leBytes 4 t.offline.val
    ++ leBytes 4 t.poisoned.val ++ leBytes 8 t.corrected.val ++ leBytes 8 t.uncorr.val ++ leBytes 4 t.scrubs.val
    ++ leBytes 2 t.temp.toNat ++ leBytes 1 (b2n t.refresh2) ++ leBytes 1 r ++ leBytes 4 ovf ++ leBytes 12 0

end Sys2Proof.Machine
end

