-- ==== Sys2Proof/Machine/Cord.lean ====
section
/-! DEFINITION. The Cord: barrier channels (R409, R417, R425), micro-flits (R421 to R424), and the stop paths (R429 to R433),
with the meanings of their commands. -/

namespace Sys2Proof.Machine

/-- R417: the local phase of a channel: 1 plus its local shares completed. -/
def Channel.localPhase (c : Channel) : BitVec 32 := c.shares + 1

/-- R400: the members of a collective group, in leaf order. -/
def groupMembers (s : State) (g : Nat) : List Nat := (mget (0, []) s.consist.groups g).2

/-- The members over which a channel's phase runs, in leaf order (R409, R413, R425). -/
def chanMembers (s : State) (ch : Nat) : List Nat :=
  let c := s.chan ch
  if 62 ≤ ch then List.range s.consist.ranks.length
  else if c.scope = 2 then groupMembers s c.group
  else if c.scope = 1 then
    (List.range s.consist.ranks.length).filter fun r => (s.consist.ranks.getD r (0, 0)).1 = s.consist.rake
  else [s.consist.rank]

/-- R424: a barrier or step micro-flit. -/
def barrierFlit (s : State) (kind ch scope flags phase : Nat) : Word :=
  BitVec.ofNat 64 (kind + scope % 4 * 2 ^ 4 + ch % 64 * 2 ^ 6 + flags % 16 * 2 ^ 12 + phase % 2 ^ 16 * 2 ^ 16
    + s.consist.rank % 2 ^ 15 * 2 ^ 32)

/-- Ranks of the subtree below this module whose arrival for a phase is still missing (group scope). -/
def missing (s : State) (ch phase : Nat) : List Nat :=
  let ms := chanMembers s ch
  let me := ms.idxOf s.consist.rank
  let kids := (treeChildren ms.length me).filterMap fun i => ms[i]?
  (s.consist.rank :: kids).filter fun r => !((s.chan ch).got.any fun g => g.1 = phase % 2 ^ 16 && g.2.1 = r)

/-- The OR of the flags that have come for a phase. -/
def gotFlags (s : State) (ch phase : Nat) : BitVec 4 :=
  ((s.chan ch).got.filter fun g => g.1 = phase % 2 ^ 16).foldl (fun t g => t ||| g.2.2) 0

/-- R425: this module's node of the tree has combined its children: it sends its parent the arrival, unless it is the root. -/
def sendUp (s : State) (ch phase kind : Nat) : State :=
  let ms := chanMembers s ch
  let me := ms.idxOf s.consist.rank
  if me = 0 || missing s ch phase != [] then s
  else
    s.flitTo ((ms[treeParent me]?).toList)
      (barrierFlit s kind ch (s.chan ch).scope (gotFlags s ch phase).toNat phase)

/-- An arrival of a rank for a phase enters the channel's record. -/
def recordArrival (s : State) (ch phase rank : Nat) (flags : BitVec 4) : State :=
  s.updChan ch fun c => { c with got := (phase % 2 ^ 16, rank, flags) :: c.got }

/-- R417: one arrival at a channel; the arrival that completes the local share sends it to the scope. -/
def arrive (s : State) (ch : Nat) : State :=
  let c := s.chan ch
  if c.arrived + 1 < c.locArr then s.updChan ch fun c => { c with arrived := c.arrived + 1 }
  else
    let ph := c.localPhase.toNat
    let t := s.updChan ch fun c => { c with arrived := 0, shares := c.shares + 1 }
    if c.scope = 0 then t
    else
      let t := recordArrival t ch ph s.consist.rank 0
      if c.scope = 1 then
        t.flitTo ((chanMembers s ch).filter fun r => r != s.consist.rank) (barrierFlit s 0 ch 1 0 ph)
      else sendUp t ch ph 0

/-- R414, R425: a phase completes on this module. -/
def phaseDone (s : State) (ch : Nat) : State :=
  let c := s.chan ch
  let ph := (c.phase + 1).toNat % 2 ^ 16
  let t := s.updChan ch fun c => { c with phase := c.phase + 1, got := c.got.filter fun g => g.1 != ph }
  let t := t.bump (.cordChannel ⟨ch % 64, Nat.mod_lt _ (by decide)⟩)
  if c.notify.getLsbD 9 then t.notify c.notify.toNat 5 ch else t

/-- Whether the next phase of a channel is complete at its scope, as this module can tell (R425). -/
def phaseReady (s : State) (ch : Nat) : Bool :=
  let c := s.chan ch
  let next := (c.phase + 1).toNat
  let mine := c.shares != c.phase
  if c.scope = 0 then mine
  else if c.scope = 1 then
    mine && (chanMembers s ch).all fun r => c.got.any fun g => g.1 = next % 2 ^ 16 && g.2.1 = r
  else (chanMembers s ch).idxOf s.consist.rank = 0 && missing s ch next = []

/-- PHASE_COMPLETE: a phase that is complete at its scope completes on the module, and its root sends the completion down. -/
def execPhaseComplete (ch : Fin 64) (s : State) : Result :=
  if ch.val < 62 && phaseReady s ch then
    let ms := chanMembers s ch
    let t := phaseDone s ch
    .next (if (s.chan ch).scope = 2 then
      t.flitTo ((treeChildren ms.length 0).filterMap fun i => ms[i]?)
        (barrierFlit s 1 ch 2 0 ((s.chan ch).phase + 1).toNat) else t)
  else .next s

/-- R412: a write of CONFIG. -/
def configWrite (s : State) (ch : Nat) (v : Nat) : State :=
  let c := s.chan ch
  if 62 ≤ ch || c.arrived != 0 || bits v 9 2 = 3 || 384 < bits v 0 9 || v / 2 ^ 19 != 0 then s
  else s.updChan ch fun c => { c with locArr := bits v 0 9, scope := bits v 9 2, group := bits v 11 8 }

def execBarrierConfigWrite (ch : Fin 64) (v : Word32) (s : State) : Result := .next (configWrite s ch v.toNat)

/-- R412, R414: a write of VALUE alone. -/
def execSemaphoreValueWrite (n : BitVec 12) (v : Word32) (s : State) : Result := .next (s.semSet n.toNat v)

/-- R414: a write of ARM takes effect before the VALUE part of the same write; at most one notice is raised. -/
def armWrite (s : State) (n : Nat) (arm : BitVec 32) (value : Option (BitVec 32)) : State :=
  let old := s.sem n
  let t := s.updSem n fun m => { m with arm := arm }
  let hit := old.notify.getLsbD 9 && reached old.value arm
  let t := if hit then t.notify old.notify.toNat 5 (n % 256) else t
  match value with
  | none => t
  | some v => if hit then t.updSem n fun m => { m with value := v } else t.semSet n v

def execSemaphoreArmWrite (n : BitVec 12) (arm : Word32) (value : Option Word32) (s : State) : Result :=
  .next (armWrite s n.toNat arm value)

/-- R433: a scheduled stop arrives: it replaces a pending one, and takes effect at once when its time has passed. -/
def schedule (s : State) (time : Nat) : State :=
  if time * 1000 ≤ s.time.ns then (s.stopModule 5).updHalt fun h => { h with late := true }
  else s.updHalt fun h => { h with due := some time, state := if h.state = 2 then 2 else 1 }

/-- R432, R616: the fields that a HALT write stores. -/
def haltFields (s : State) (v : Nat) : State :=
  s.updHalt fun h => { h with scope := bits v 1 2, sched := bit v 3, time := bits v 16 48, late := h.late && !bit v 7 }

/-- The ranks of the rake besides this module's. -/
def rakeFellows (s : State) : List Nat :=
  (List.range s.consist.ranks.length).filter fun r => inRake s r && r != s.consist.rank

/-- R424, R431: a KIND 5 micro-flit spreads a scheduled stop over the channel 63 tree; one of rake scope, which has no place for its
origin, goes to the modules of the rake alone (row 84 of the log). -/
def spreadSched (s : State) (scope time : Nat) : State :=
  let w : Word := BitVec.ofNat 64 (5 + scope * 16 + 63 * 64 + time % 2 ^ 48 * 2 ^ 16)
  if scope = 1 then s.flitTo (rakeFellows s) w
  else if s.consist.rank = 0 then s.flitTo (treeChildren s.consist.ranks.length 0) w
  else s.flitTo [treeParent s.consist.rank] w

/-- R432, R600, R616: an 8-byte write of HALT. -/
def haltWrite (s : State) (v : Nat) : State :=
  if bits v 1 2 = 3 then s
  else
    let t := haltFields s v
    if !bit v 0 then t
    else if !bit v 3 then t.raiseStop 2 (bits v 1 2)
    else
      let t := schedule t (bits v 16 48)
      if bits v 1 2 = 0 || s.alone then t
      else spreadSched t (bits v 1 2) (bits v 16 48)

def execHaltStopNow (v : Word) (s : State) : Result := .next (haltWrite s (putBits (v.toNat ||| 1) 3 1 0))
def execHaltSchedule (v : Word) (s : State) : Result := .next (haltWrite s (v.toNat ||| 9))
def execHaltStore (v : Word) (s : State) : Result := .next (haltWrite s (putBits v.toNat 0 1 0))

def scopeNat : StopScope → Nat
  | .module => 0
  | .rake => 1
  | .consist => 2

def execImmediateStop (source : BitVec 4) (scope : StopScope) (s : State) : Result :=
  .next (s.raiseStop source.toNat (scopeNat scope))

/-- R430: HALT_N held low for 100 ns: a stop of the module, or of the consist when the consist says so. -/
def execHaltNAssert (s : State) : Result :=
  .next ((s.updSys fun y => { y with haltN := false }).raiseStop 1 (if s.consist.haltAll then 2 else 0))

/-- R433: the epoch counter has reached the pending stop's TIME. -/
def execScheduledStopTime (s : State) : Result :=
  .next (match s.halt.due with
    | some t => if t * 1000 ≤ s.time.ns then s.stopModule 5 else s
    | none => s)

/-- R422: the flit with KIND 7. -/
def echoOf (w : Word) : Word := BitVec.ofNat 64 (putBits w.toNat 0 4 7)

/-- R430, R431: a stop of another module's reaches this one, which halts when it is in scope. -/
def stopFrom (s : State) (scope origin : Nat) : State :=
  if origin != s.consist.rank && (scope != 1 || inRake s origin) then s.stopModule 3 else s

/-- R425, R426, R431: what an accepted flit does; it comes from the parent in the channel 63 tree, or not. -/
def flitEffect (s : State) (fromParent : Bool) (w : Word) : State :=
  let v := w.toNat
  let ch := bits v 6 6
  let scope := bits v 4 2
  let phase := bits v 16 16
  let rank := bits v 32 15
  let me := s.consist.rank
  let down (t : State) : State := t.flitTo (treeChildren s.consist.ranks.length me) w
  match bits v 0 4 with
  | 0 =>
    let t := recordArrival s ch phase rank (BitVec.ofNat 4 (bits v 12 4))
    if scope = 2 then sendUp t ch phase 0 else t
  | 1 =>
    if 62 ≤ ch then s
    else
      let ms := chanMembers s ch
      let i := ms.idxOf me
      (phaseDone s ch).flitTo ((treeChildren ms.length i).filterMap fun j => ms[j]?) w
  | 2 =>
    let t := recordArrival s ch phase rank (BitVec.ofNat 4 (bits v 12 4))
    sendUp t ch phase 2
  | 3 => down s
  | 4 =>
    if me = 0 then (stopFrom s scope (bits v 16 15)).spreadStop w
    else if fromParent then down (stopFrom s scope (bits v 16 15))
    else s.flitTo [treeParent me] w
  | 5 =>
    let time := bits v 16 48
    if scope = 1 then schedule s time
    else if me = 0 then down (schedule s time)
    else if fromParent then down (schedule s time)
    else s.flitTo [treeParent me] w
  | _ => s

/-- R370: whether a coupling port leads to the parent in the channel 63 tree. -/
def parentPort (s : State) (p : Nat) : Bool :=
  let up := treeParent s.consist.rank
  s.consist.rank != 0 && inRake s up && p = portOfPos s (posOfRank s up)

/-- R423: the micro-flits of a payload codeword; an empty place holds 0, which no sender puts in one (its scope would be the module). -/
def flitsOf (d : BitVec 256) : List Word :=
  ((List.range 4).map fun i => BitVec.ofNat 64 (bits d.toNat (64 * i) 64)).filter fun w => w != 0

/-- R422: an accepted flit, of which a repeat may still come. -/
def PortState.accept (t : PortState) (w : Word) : PortState := { t with seen := w :: t.seen.erase w }

/-- R422: a flit that arrives for the first time, but cannot be corrected: its repeat is still to be accepted. -/
def PortState.missed (t : PortState) (w : Word) : PortState := { t with seen := t.seen.erase w }

/-- R301, R421, R422: a micro-flit is decoded, echoed and processed, and an echo ends the oldest flit that waits for it; a repeat already
accepted is echoed and discarded.  `rx.again` says whether the sender repeats the flit, which the port knows and the spec does not say
how (row 82 of the log); a new flit of the same bits is no repeat.  A coupling that is not Up carries no flit (R372, R373), and a
scale-out port none outside a frame (R423). -/
def execMicroFlitReceive (p : Port) (flit : Word) (rx : FlitRx) (s : State) : Result :=
  .next (
    if 7 ≤ p.val || !carrying s p then s
    else if 3 ≤ rx.syms then (if rx.again then s else s.updPort p fun t => t.missed flit).bump (.port p 1)
    else
      let s := if rx.syms = 0 then s else s.bump (.port p 0)
      if bits flit.toNat 0 4 = 7 then s.updPort p fun t => { t with flits := t.flits.eraseP fun w => echoOf w = flit }
      else
      let e := s.send (.flit p (echoOf flit))
      if rx.again && (s.port p).seen.contains flit then e
      else flitEffect (e.updPort p fun t => t.accept flit) (parentPort s p) flit)

/-- R422: the oldest flit without an echo is sent again, while the coupling carries. -/
def execMicroFlitRepeat (p : Port) (s : State) : Result :=
  .next (match (s.port p).flits with
    | w :: _ => if carrying s p then s.send (.flit p w) else s
    | [] => s)

/-- R431: a stop reached the channel 63 root before completion: no module swaps, and this module halts. -/
def execHaltedResult (s : State) : Result :=
  .next ((s.stopModule (if s.halted then s.halt.source else 3)).updTender fun t => { t with contrib63 := false, result62 := none })

end Sys2Proof.Machine
end

