-- ==== Sys2Proof/Machine/Operands.lean ====
section
/-! DEFINITION. Operand forms of a coach's instructions: scalar, vector and predicate registers (R62, R63, R109 to R114), tiles and
accumulators (R139 to R165) and the control registers' bit layouts (R60, R89, R90, R157). -/

namespace Sys2Proof.Machine

-- scalar registers (R62, R63)

def Seat.rx (t : Seat) (n : RegNo) : Word := if n = 0 then 0 else mget 0 t.x n.toNat
def Seat.rxp (t : Seat) (n : RegNo) : Bool := n != 0 && mget false t.xp n.toNat

/-- R62, R63: a write of X[n] with its poison; writes of X0 are discarded. -/
def Seat.wx (t : Seat) (n : RegNo) (v : Word) (p : Bool := false) : Seat :=
  if n = 0 then t else { t with x := mset 0 t.x n.toNat v, xp := mset false t.xp n.toNat p }

-- vector registers (R109, R110, R113)

def Seat.rv (t : Seat) (n : RegNo) : BitVec 2048 := mget 0 t.v n.toNat
def Seat.rvp (t : Seat) (n : RegNo) : BitVec 8 := mget 0 t.vp n.toNat
def Seat.wv (t : Seat) (n : RegNo) (v : BitVec 2048) (p : BitVec 8) : Seat :=
  { t with v := mset 0 t.v n.toNat v, vp := mset 0 t.vp n.toNat p }

/-- R110: F[n] as its low 64 bits. -/
def Seat.rf (t : Seat) (n : RegNo) : Nat := (t.rv n).toNat % 2 ^ 64

/-- R110, R113: a scalar floating-point result, with every other bit 0; a poisoned one marks segment 0. -/
def Seat.wf (t : Seat) (n : RegNo) (v : Nat) (p : Bool := false) : Seat :=
  t.wv n (BitVec.ofNat 2048 (v % 2 ^ 64)) (if p then 1 else 0)

/-- R111: P[n]. -/
def Seat.rp (t : Seat) (n : BitVec 4) : BitVec 256 := mget 0 t.p n.toNat
def Seat.wp (t : Seat) (n : BitVec 4) (v : BitVec 256) : Seat := { t with p := mset 0 t.p n.toNat v }

-- seat classes, tiles and accumulators

def seatFin (n : Nat) : Fin 4 := ⟨n % 4, Nat.mod_lt _ (by decide)⟩
def coachFin (n : Nat) : Fin 96 := ⟨n % 96, Nat.mod_lt _ (by decide)⟩

/-- R157, R160: bit t of GRP. -/
def Coach.grouped (k : Coach) (t : Nat) : Bool := k.grp.getLsbD t

/-- R155, R160: whether a seat's tile reads as full. -/
def Coach.full (k : Coach) (seat t : Nat) : Bool :=
  if k.grouped t && !((List.range 4).all fun i => (k.seat i).classC) then true
  else !(k.seat seat).classC || (k.seat seat).full.getLsbD t

/-- Row r of a seat's tile t. -/
def Seat.tileRow (s : Seat) (t r : Nat) : TileRow := mget {} s.tiles (128 * t + r)

/-- R158: row r of a tile operand: of the grouped tile, seat r ÷ 128 holds it. -/
def Coach.tileRow (k : Coach) (seat t : Nat) (g : Bool) (r : Nat) : TileRow :=
  if g then (k.seat (r / 128)).tileRow t (r % 128) else (k.seat seat).tileRow t r

/-- R151: poison of segments after a write of bytes: those written whole take the write's mark, those touched join it. -/
def segPoison (n old touched whole new : Nat) : Nat :=
  (List.range n).foldl (fun t i =>
    t + b2n (if bit whole i then bit new i else if bit touched i then bit old i || bit new i else bit old i) * 2 ^ i) 0

/-- The segments of a row that a run of bytes touches, or covers. -/
def segsTouched (n off len : Nat) : Nat :=
  (List.range n).foldl (fun t i => t + b2n (off < 32 * (i + 1) && 32 * i < off + len) * 2 ^ i) 0
def segsWhole (n off len : Nat) : Nat :=
  (List.range n).foldl (fun t i => t + b2n (off ≤ 32 * i && 32 * (i + 1) ≤ off + len) * 2 ^ i) 0

/-- R146, R151: a tile row with `len` bytes from byte `off` written; `p` marks the row's segments that the write poisons. -/
def TileRow.put (w : TileRow) (off len d p : Nat) : TileRow :=
  { data := BitVec.ofNat 1024 (putBits w.data.toNat (8 * off) (8 * len) d)
    poison := BitVec.ofNat 4 (segPoison 4 w.poison.toNat (segsTouched 4 off len) (segsWhole 4 off len) p) }

def AccRow.put (w : AccRow) (off len d p : Nat) : AccRow :=
  { data := BitVec.ofNat 4096 (putBits w.data.toNat (8 * off) (8 * len) d)
    poison := BitVec.ofNat 16 (segPoison 16 w.poison.toNat (segsTouched 16 off len) (segsWhole 16 off len) p) }

/-- R184: bytes of a tile row without their marks. -/
def TileRow.poke (w : TileRow) (off len d : Nat) : TileRow := { w with data := BitVec.ofNat 1024 (putBits w.data.toNat (8 * off) (8 * len) d) }

/-- R151: the marks of a row of which an instruction has written a run of bytes with clean data. -/
def TileRow.wrote (w : TileRow) (off len : Nat) : TileRow :=
  { w with poison := BitVec.ofNat 4 (segPoison 4 w.poison.toNat (segsTouched 4 off len) (segsWhole 4 off len) 0) }

/-- Rewrites a tile row of a coach. -/
def Coach.putTile (k : Coach) (seat t : Nat) (g : Bool) (r : Nat) (f : TileRow → TileRow) : Coach :=
  let (si, ri) := if g then (r / 128, r % 128) else (seat, r)
  { k with seats := mupd {} k.seats si fun s => { s with tiles := mupd {} s.tiles (128 * t + ri) f } }

/-- R165: a write of a seat's tile invalidates the latches that hold rows of it. -/
def dropLatch (l : Option Latch) (seat t : Nat) (g : Bool) : Option Latch :=
  match l with
  | some h => if h.tile.toNat = t && (g || h.seat.val = seat) then none else l
  | none => none

def Coach.touchTile (k : Coach) (seat t : Nat) (g : Bool) : Coach :=
  { k with latchS := dropLatch k.latchS seat t g, latchW := dropLatch k.latchW seat t g }

/-- R156, R160: marks a tile full; every seat shows the state of a grouped tile. -/
def Coach.setFull (k : Coach) (seat t : Nat) (v : Bool) : Coach :=
  let one (s : Seat) : Seat :=
    { s with full := if v then s.full ||| ((1 : BitVec 8) <<< t) else s.full &&& ~~~((1 : BitVec 8) <<< t) }
  if k.grouped t then (List.range 4).foldl (fun k i => { k with seats := mupd {} k.seats i one }) k
  else { k with seats := mupd {} k.seats seat one }

/-- Removes the rows of a seat's tile: they read as 0. -/
def Seat.clearTile (s : Seat) (t : Nat) : Seat := { s with tiles := s.tiles.filter fun e => e.1 / 128 != t }

/-- R156: the rows of an empty tile, or of all fragments of an empty grouped tile, read as 0. -/
def Coach.clearRows (k : Coach) (seat t : Nat) (g : Bool) : Coach :=
  (List.range 4).foldl (fun k i =>
    if g || i = seat then { k with seats := mupd {} k.seats i fun s => s.clearTile t } else k) k

/-- R156, R165, R342: a tile that a TLD or a mover writes: an empty one starts from rows of 0; it is marked full, for a class S seat too
(row 78 of the log), and latches on it go. -/
def Coach.fillTile (k : Coach) (seat t : Nat) (g : Bool) : Coach :=
  ((if k.full seat t then k else k.clearRows seat t g).setFull seat t true).touchTile seat t g

/-- R154, R160: releases a tile of a class C seat: it is empty and its rows read as 0.  A grouped tile counts as always full, and keeps
its rows, unless all four seats are of class C (row 78 of the log). -/
def Coach.release (k : Coach) (seat t : Nat) : Coach :=
  if !(k.seat seat).classC then k
  else if k.grouped t && !((List.range 4).all fun i => (k.seat i).classC) then k
  else
    let k := (k.setFull seat t false).touchTile seat t (k.grouped t)
    if k.grouped t then (List.range 4).foldl (fun k i => { k with seats := mupd {} k.seats i fun s => s.clearTile t }) k
    else { k with seats := mupd {} k.seats seat fun s => s.clearTile t }

def Coach.accRow (k : Coach) (a r : Nat) : AccRow := mget {} k.acc (128 * a + r)
def Coach.putAcc (k : Coach) (a r : Nat) (f : AccRow → AccRow) : Coach := { k with acc := mupd {} k.acc (128 * a + r) f }

/-- R145: the element formats of FMT that are floating point. -/
def fmtOfCode : Nat → Option Fmt
  | 1 => some fmtE4M3
  | 2 => some fmtE5M2
  | 3 => some fmtE2M1
  | 4 => some fmtBF16
  | 5 => some fmtFP32
  | _ => none

/-- Bits per element of a FMT code; raw bytes count as 8. -/
def fmtBits : Nat → Nat
  | 3 => 4
  | 4 => 16
  | 5 => 32
  | 7 => 16
  | _ => 8

/-- Element i of packed elements of w bits. -/
def elemAt (d w i : Nat) : Nat := bits d (w * i) w

/-- Packs element codes of w bits. -/
def packElems (w : Nat) (es : List Nat) : Nat := es.foldr (fun e t => e % 2 ^ w + 2 ^ w * t) 0

end Sys2Proof.Machine
end

