-- ==== Sys2Proof/Machine/Watch.lean ====
section
/-! DEFINITION. The numerics watch (R225 to R249) and the slot ledger (R469 to R474), with the meanings of their commands. -/

namespace Sys2Proof.Machine

-- settings of the consist (R237, R246 to R248, R648)

def watchExpert (s : State) : Bool := s.expert 7

/-- R648: a slot's tensor class. -/
def slotClass (s : State) (k : Nat) : Nat := mget 4 s.consist.slotClass k

/-- R233: a slot's class is watched. -/
def slotOn (s : State) (k : Nat) : Bool := s.consist.classOn.getLsbD (slotClass s k)

/-- An expert value, or its default (R11). -/
def slotValue (s : State) (m : SMap (Option Nat)) (k d : Nat) : Nat :=
  if watchExpert s then (mget none m k).getD d else d

def slotT (s : State) (k : Nat) : Nat := slotValue s s.consist.slotT k 64881
def slotLen (s : State) (k : Nat) : Nat := slotValue s s.consist.slotLen k 64
def slotS (s : State) (k : Nat) : Nat := slotValue s s.consist.slotS k 64

/-- R237, R246, R248: alarms enabled for a slot: bit 0 underflow, bit 1 saturation. -/
def slotAlarms (s : State) (k : Nat) : BitVec 2 :=
  let c := slotClass s k
  let d : BitVec 2 := if c = 1 then 1 else if c = 2 then 2 else if c = 3 then 3 else 0
  if watchExpert s then (mget none s.consist.slotAlarm k).getD d else d

def agreeThr (s : State) : Nat := if watchExpert s then s.consist.agreeThr else 0x3B800000
def lossAlpha (s : State) : Nat := if watchExpert s then s.consist.alpha else 0x3C800000
def lossZ (s : State) : Nat := if watchExpert s then s.consist.z else 0x40C00000
def lossWarmup (s : State) : Nat := if watchExpert s then s.consist.warmup else 64

/-- R239, R247: the sampling exponent k, when the sampler is on. -/
def samplerK (s : State) : Option Nat := s.consist.sampler.map fun k => if watchExpert s then k else 12

def slotFin (k : Nat) : Fin 1024 := ⟨k % 1024, Nat.mod_lt _ (by decide)⟩

-- counting (R225 to R228)

/-- R226, R228, R238: elements, zeros, saturations and non-finite elements enter a watched slot's counts. -/
def watchCount (s : State) (k e z sat nf : Nat) : State :=
  if !slotOn s k then s
  else
    let f := slotFin k
    let add (t : State) (b : Fin 5) (n : Nat) : State := if n = 0 then t else t.bump (.watchSlot f b) n
    let t := add (add (add (add s 0 e) 1 z) 2 sat) 3 nf
    t.updSlot f fun w => { w with de := w.de + e, dz := w.dz + z, ds := w.ds + sat }

/-- R227: a magnitude enters the step maximum: NaNs are excluded and −0.0 counts as 0; non-negative codes order as their values. -/
def watchMax (s : State) (k code : Nat) : State :=
  let m := code % 2 ^ 31
  if 0x7F800000 < m then s else s.updSlot (slotFin k) fun w => { w with amax := max w.amax m }

/-- R231: a store to the contribution view. -/
def contribute (s : State) (off size v : Nat) : State :=
  let k := off / 64
  if size = 8 && off % 64 = 0 then watchCount s k v 0 0 0
  else if size = 8 && off % 64 = 8 then watchCount s k 0 v 0 0
  else if size = 8 && off % 64 = 16 then watchCount s k 0 0 v 0
  else if size = 8 && off % 64 = 24 then watchCount s k 0 0 0 v
  else if size = 4 && off % 64 = 32 then watchMax s k v
  else s

def execWatchContributionStore (off : Half) (size : Fin 9) (v : Word) (s : State) : Result :=
  .next (contribute s off.toNat size.val (v.toNat % 2 ^ (8 * size.val)))

/-- STICKY_OVF_CLEAR: writing 1 to a counter's sticky bit clears the bit and the counter (R635). -/
def execStickyOvfClear (ref : StatRef) (s : State) : Result := .next (statSet ref (statGet ref s).clear s)

-- the loss watch (R243 to R245)

/-- R507: the step in progress is replayed; REPLAY_TO at its reset value 0 asks for no replay (row 20 of the log). -/
def replaying (s : State) : Bool := s.way.replayTo != 0 && s.tender.step ≤ s.way.replayTo

/-- Bytes of the stage record as software wrote it (R485). -/
def stageRaw (s : State) (off n : Nat) : List Byte := (List.range n).map fun i => mget 0 s.way.stage (off + i)

/-- Stage fields of the step: of the stage record, or of the recorded entry of a replayed step (R507). -/
def stageNat (s : State) (off n : Nat) : Nat :=
  if replaying s then leNat ((s.way.entry.drop off).take n) else leNat (stageRaw s off n)

/-- R484, R485: LOSS of the stage record. -/
def stageLoss (s : State) : Nat := stageNat s 0x0B8 4

def flt32 (a b : Nat) : Bool := flt (fdecode fmtFP32 a) (fdecode fmtFP32 b)

/-- An FP32 value between two bounds, both included; a NaN lies between none. -/
def within32 (lo hi v : Nat) : Bool := !nonFinite32 v && !flt32 v lo && !flt32 hi v

/-- R243: the spike test of a loss on the present state: whether it is a spike, and d. -/
def spikeTest (s : State) (l : Nat) : Bool × Nat :=
  let w := s.watch
  let d := sub32 l w.mu
  let z := lossZ s
  (!nonFinite32 l && lossWarmup s ≤ w.steps.val && flt32 (mul32 (mul32 z z) w.var) (mul32 d d) && flt32 0 d, d)

/-- R243: the evaluation of the step's loss, before the channel 62 contribution. -/
def lossEvaluate (s : State) : State :=
  let l := stageLoss s
  let (spike, d) := spikeTest s l
  s.updWatch fun w => { w with spike := s.consist.lossOn && spike, loss := l, d := d }

/-- R243: the update of the loss watch by a committed finite loss: the mean and the variance follow it, or the level shifts. -/
def lossUpdate (s : State) (l : Nat) (spike : Bool) (d : Nat) : State :=
  let w := s.watch
  let alpha := lossAlpha s
  let t :=
    if w.streak = 8 then s.updWatch fun w => { w with mu := l, var := 0, steps := { w.steps with val := 0 } }
    else if spike then s
    else (s.updWatch fun w => { w with
      mu := add32 w.mu (mul32 alpha d)
      var := mul32 (sub32 0x3F800000 alpha) (add32 w.var (mul32 (mul32 alpha d) d)) }).bump .lossSteps
  t.updWatch fun u => { u with streak := if spike then w.streak + 1 else 0 }

/-- R243, R244: the loss watch at a step's end, by the L, d and spike flag evaluated before the contribution. -/
def lossEnd (s : State) (skipped : Bool) : State :=
  if !s.consist.lossOn then s
  else
    let w := s.watch
    let t := s.updWatch fun w => { w with last := w.loss }
    let t := if w.spike then t.raise 0x0033 w.loss (w.streak + 1) else t
    if skipped || nonFinite32 w.loss then t
    else
      let u := lossUpdate t w.loss w.spike w.d
      if w.streak = 8 then u.raise 0x0034 w.loss 0 else u

-- the step end (R235, R236, R246)

/-- R246: the watch's events of the step are posted. -/
def postWatch (s : State) : State :=
  let t := s.watch.due.foldl (fun t e => t.raise e.1 e.2.1 e.2.2) s
  t.updWatch fun w => { w with due := [] }

/-- R236, R237: the underflow run of a watched slot; the event needs the slot's alarm. -/
def underflowRun (s : State) (k : Nat) (w : Slot) (skipped : Bool) : State :=
  if skipped || w.de = 0 || w.elements.ovf || w.zeros.ovf then s
  else if slotT s k * w.de < 65536 * w.dz then
    let t := s.bump (.watchSlot (slotFin k) 4)
    let run := (t.slot k).run.val
    if run != w.run.val && run = slotLen s k then
      (if (slotAlarms s k).getLsbD 0 then t.raise 0x0030 k run else t).updSlot k fun w => { w with alarm := true }
    else t
  else s.updSlot k fun w => { w with run := { w.run with val := 0 }, alarm := false }

/-- R235, R236, R246: the watch latches one slot at a step's end. -/
def latchSlot (s : State) (k : Nat) (skipped : Bool) : State :=
  let w := s.slot k
  let t := s.updSlot k fun w => { w with
    amaxLast := w.amax
    amax := 0
    empty := w.de = 0
    zshare := if w.de = 0 then 0 else min (65536 * w.dz / w.de) 0xFFFF
    de := 0, dz := 0, ds := 0 }
  if !slotOn s k then t
  else
    let t := underflowRun t k w skipped
    if (slotAlarms s k).getLsbD 1 && slotS s k * w.de < 65536 * w.ds then t.raise 0x0031 k (min w.ds 0xFFFF) else t

/-- R242: the agreement records latch. -/
def latchAgree (s : State) : State :=
  s.updWatch fun w => { w with agree := w.agree.filterMap fun e =>
    let a := { e.2 with maxErr := e.2.curErr, curErr := 0 }
    if a = {} then none else some (e.1, a) }

/-- R235: the watch latches a step whose commit or skip becomes visible. -/
def latchWatch (s : State) (skipped : Bool) : State :=
  let t := postWatch s
  let t := (List.range 1024).foldl (fun t k => latchSlot t k skipped) t
  let t := lossEnd (latchAgree t) skipped
  (postWatch t).updWatch fun w => { w with spike := false }

-- the slot ledger (R469 to R474)

/-- R471: a write to CONFIG. -/
def ledgerConfig (s : State) (v : Nat) : State :=
  if s.ledger.opened = 0 && s.ledger.fold = [] then
    s.updLedger fun l => { l with b := bits v 0 13, p1 := bits v 13 6 }
  else s

def execLedgerConfigWrite (v : Word32) (s : State) : Result := .next (ledgerConfig s v.toNat)

/-- R474: a store that the ledger rejects. -/
def ledgerReject (s : State) (j part : Nat) (folded : Bool) : State :=
  let t := s.bump .sched
  (t.updLedger fun l => { l with order := true }).raise 0x0024
    (j + part * 2 ^ 12 + b2n folded * 2 ^ 18 + b2n s.halted * 2 ^ 19) 0

/-- The lowest-numbered free slot. -/
def freeSlot (l : Ledger) : Option Nat := (List.range 64).find? fun k => mget none l.slot k = none

/-- R472: a store to OPEN. -/
def ledgerOpen (s : State) (v : Nat) : State :=
  let j := bits v 0 12
  let l := s.ledger
  match freeSlot l with
  | none => ledgerReject s j 0 false
  | some k =>
    if s.halted || l.b = 0 || l.b ≤ j || l.used.contains j then ledgerReject s j 0 false
    else s.updLedger fun l => { l with
      slot := mset none l.slot k (some j), opened := l.opened + 1, used := j :: l.used }

def execLedgerOpen (v : Word32) (s : State) : Result := .next (ledgerOpen s v.toNat)

/-- The slot that holds a micro-batch. -/
def slotHolding (l : Ledger) (j : Nat) : Option Nat := (List.range 64).find? fun k => mget none l.slot k = some j

/-- R473: a store to FOLDED. -/
def ledgerFolded (s : State) (v : Nat) : State :=
  let j := bits v 0 12
  let p := bits v 12 6
  let l := s.ledger
  match slotHolding l j with
  | none => ledgerReject s j p true
  | some k =>
    if s.halted || l.p1 < p || mget 0 l.fold p != j then ledgerReject s j p true
    else
      let t := s.updLedger fun l => { l with fold := mset 0 l.fold p (j + 1) }
      let t := t.semAdd (s.consist.foldsem + p) 1
      if (List.range (l.p1 + 1)).all fun q => j < mget 0 t.ledger.fold q then
        (t.updLedger fun l => { l with slot := mset none l.slot k none, opened := l.opened - 1 }).semAdd s.consist.freesem 1
      else t

def execLedgerFolded (v : Word32) (s : State) : Result := .next (ledgerFolded s v.toNat)

/-- R471: the ledger resets when a commit or skip becomes visible. -/
def ledgerReset (s : State) : State :=
  let t := s.updLedger fun l => { l with slot := [], fold := [], opened := 0, used := [] }
  let t := t.semSet s.consist.freesem 64
  (List.range 64).foldl (fun t p => t.semSet (s.consist.foldsem + p) 0) t

end Sys2Proof.Machine
end

