-- ==== Sys2Proof/Machine/Convert.lean ====
section
/-! DEFINITION. The converting store that TCVT (R184, R185) and the movers' CONVERT and TCONVERT (R340, R341) share, with what it
counts in a watch slot (R226, R227). -/

namespace Sys2Proof.Machine

/-- One converted block of 32 elements: its scale, its codes, and its counts: zeros, saturations, non-finite elements, maximum. -/
structure CvtBlock where
  scale : Nat
  codes : List Nat
  zeros : Nat
  sats  : Nat
  nonf  : Nat
  amax  : Nat
  deriving DecidableEq, Repr

/-- The largest magnitude of FP32 codes, NaNs excluded and −0.0 as 0 (R227). -/
def maxMag (vs : List Nat) : Nat :=
  vs.foldl (fun t v => let m := v % 2 ^ 31; if 0x7F800000 < m then t else max t m) 0

/-- R184, R340: converts 32 FP32 codes with factor p; a block that touches poison takes the scale 0xFF (R341). -/
def cvtBlock (f : Fmt) (p : Nat) (poison : Bool) (vs : List Nat) : CvtBlock :=
  let ys := vs.map fun v => mul32 v p
  let x := if poison then 0xFF else jitScale f ys
  let codes := ys.map (roundElem f x)
  let vals := codes.map (fdecode f)
  let nonf (v : FVal) : Bool := x = 0xFF || !fisFinite v
  { scale := x
    codes := codes
    zeros := (vals.filter fun v => !nonf v && fisZero v).length
    sats := ((ys.zip vals).filter fun q => !nonf q.2 && !fisZero q.2 && satElem f x q.1).length
    nonf := (vals.filter nonf).length
    amax := if poison then 0 else maxMag vs }

/-- The blocks of one destination row. -/
def cvtRow (f : Fmt) (p : Nat) : List (List Nat × Bool) → List CvtBlock
  | [] => []
  | (vs, q) :: rest => cvtBlock f p q vs :: cvtRow f p rest

/-- Splits a row of elements into blocks of 32; a block is poisoned when an element of it is. -/
def blocksOf (es : List (Nat × Bool)) : List (List Nat × Bool) :=
  (List.range (es.length / 32)).map fun j =>
    let b := (es.drop (32 * j)).take 32
    (b.map (·.1), b.any (·.2))

/-- R185, R226, R227, R341: the converted blocks enter a watch slot's counts and its step maximum. -/
def countBlocks (s : State) (slot : Nat) (bs : List CvtBlock) : State :=
  bs.foldl (fun t b => watchMax (watchCount t slot 32 b.zeros b.sats b.nonf) slot b.amax) s

end Sys2Proof.Machine
end

