-- ==== Sys2Proof/Machine/Ports.lean ====
section
/-! DEFINITION. Optical engines, laser units, lanes and ports (R354 to R379), with the meanings of their commands. -/

namespace Sys2Proof.Machine

def portFin (p : Nat) : Port := ⟨p % 12, Nat.mod_lt _ (by decide)⟩

/-- R18, R20: the engine of a port, and the ports of an engine. -/
def engineOf (p : Nat) : Nat := p / 3
def portsOf (e : Nat) : List Nat := [3 * e, 3 * e + 1, 3 * e + 2]

/-- R360: a unit that supplies power. -/
def lit : Laser → Bool
  | .sharing => true
  | .alone => true
  | _ => false

def laserOf (k : Engine) : LaserUnit → Laser
  | .a => k.a
  | .b => k.b

def setLaser (k : Engine) (u : LaserUnit) (v : Laser) : Engine :=
  match u with
  | .a => { k with a := v }
  | .b => { k with b := v }

/-- R361: whether the bay of a unit is seated. -/
def setBay (k : Engine) (u : LaserUnit) (v : Bool) : Engine :=
  match u with
  | .a => { k with inA := v }
  | .b => { k with inB := v }

def otherUnit : LaserUnit → LaserUnit
  | .a => .b
  | .b => .a

/-- R360: the code of a unit's state. -/
def laserCode : Laser → Nat
  | .absent => 0
  | .qualifying => 1
  | .sharing => 2
  | .alone => 3
  | .retired => 4
  | .failed => 5

/-- A port goes down; a Dark port stays Dark, and a Fault stays to be read (R375). -/
def portDown (s : State) (p : Nat) : State :=
  s.updPort p fun t => if t.state = 0 || t.state = 7 then { t with lanes := 0 } else { t with state := 6, lanes := 0, subst := none }

/-- R361: an engine without a lit unit goes dark, and its three ports go down. -/
def darken (s : State) (e : Nat) : State := (portsOf e).foldl portDown s

/-- R358, R361: a lit unit is lost and reads `v`: the other takes over, or the engine goes dark. -/
def loseUnit (s : State) (e : Nat) (u : LaserUnit) (v : Laser) : State :=
  let o := laserOf (s.engine e) (otherUnit u)
  if lit o then
    let t := s.updEngine e fun k => { setLaser k u v with ramp := true }
    (portsOf e).foldl (fun t p => t.bump (.port (portFin p) 4)) t
  else darken (s.updEngine e fun k => { setLaser k u v with ramp := false }) e

/-- LASER_FAILURE: Thonar declares a lit unit failed (R358). -/
def execLaserFailure (e : Fin 4) (u : LaserUnit) (s : State) : Result :=
  .next (if lit (laserOf (s.engine e) u) then loseUnit s e u .failed else s)

/-- LASER_TAKEOVER_COMPLETE: the other unit reaches full power (R358, R359). -/
def execLaserTakeoverComplete (e : Fin 4) (s : State) : Result :=
  .next (s.updEngine e fun k =>
    if !k.ramp then k
    else { k with ramp := false, a := if lit k.a then .alone else k.a, b := if lit k.b then .alone else k.b })

/-- LASER_SEATED: a newly seated unit qualifies (R361). -/
def execLaserSeated (e : Fin 4) (u : LaserUnit) (s : State) : Result :=
  .next (s.updEngine e fun k =>
    let k := setBay k u true
    if laserOf k u = .absent then setLaser k u .qualifying else k)

/-- LASER_QUALIFIED: a unit enters Sharing, and a unit that was Alone shares with it; or it enters Failed (R361). -/
def execLaserQualified (e : Fin 4) (u : LaserUnit) (passed : Bool) (s : State) : Result :=
  .next (s.updEngine e fun k =>
    if laserOf k u != .qualifying then k
    else if !passed then setLaser k u .failed
    else
      let k := setLaser k u .sharing
      if laserOf k (otherUnit u) = .alone then setLaser k (otherUnit u) .sharing else k)

/-- LASER_UNSEATED: a removed unit reads Absent; one that was lit is handled as a failure (R361). -/
def execLaserUnseated (e : Fin 4) (u : LaserUnit) (s : State) : Result :=
  .next (
    let s := s.updEngine e fun k => setBay k u false
    if lit (laserOf (s.engine e) u) then loseUnit s e u .absent
    else s.updEngine e fun k => setLaser k u .absent)

/-- R361: Thonar retires a unit: the other supplies the engine alone; none when the other is not lit. -/
def retireLaser (s : State) (e : Nat) (u : LaserUnit) : Option State :=
  let k := s.engine e
  if lit (laserOf k u) && lit (laserOf k (otherUnit u)) then
    some (s.updEngine e fun k => setLaser (setLaser k u .retired) (otherUnit u) .alone)
  else none

-- lanes (R362 to R365)

def coupling (p : Nat) : Bool := p < 7

/-- R354: the physical lane of a logical lane. -/
def physLane (t : PortState) (l : Nat) : Nat := mget l t.map l

/-- The logical lane in service on a physical lane. -/
def logicalOn (t : PortState) (lane : Nat) : Option Nat :=
  (List.range 8).find? fun l => physLane t l = lane && t.lanes.getLsbD l

def laneCount (t : PortState) : Nat := ((List.range 8).filter fun i => t.lanes.getLsbD i).length

/-- R364: a logical lane is lost: the port is degraded, or down with fewer than 4 lanes. -/
def loseLane (s : State) (p l : Nat) : State :=
  let t := s.updPort p fun t => { t with lanes := t.lanes &&& ~~~((1 : BitVec 8) <<< l) }
  if laneCount (t.port p) < 4 then portDown t p else t.updPort p fun t => { t with state := if t.state = 4 then 5 else t.state }

/-- R363, R364: a logical lane moves onto the spare at the next marker, or is lost when the spare is in use. -/
def moveLane (s : State) (p l : Nat) : State :=
  let t := s.port p
  if t.spare.isSome && t.subst = none then s.updPort p fun t => { t with subst := some l } else loseLane s p l

/-- R363: the lane-management frame that asks the partner's end to move a logical lane: TYPE 7, class control, the lane in TAG (row 81
of the log). -/
def laneFrame (s : State) (l : Nat) : Frame :=
  ⟨{ type := 7, flags := 5, flow := 0, seq := 0, ack := 0, src := BitVec.ofNat 16 s.consist.rank, gen := 0
     tag := BitVec.ofNat 32 l, leaf := 0, offset := 0 }, [(0, false)]⟩

/-- LANE_FAILURE: a receiver declares a lane failed, and tells the other end (R359, R362 to R365).  When the spare fails before its
substitution, the lane that waited for it is lost. -/
def execLaneFailure (p : Port) (lane : Fin 9) (s : State) : Result :=
  .next (
    let t := s.port p
    if (s.engine (engineOf p)).ramp || t.failed.getLsbD lane then s
    else
      let u := s.updPort p fun t => { t with failed := t.failed ||| (1 <<< lane.val) }
      if !coupling p then (if lane.val = 8 then s else portDown u p)
      else if t.spare = some lane.val then
        let u := u.updPort p fun t => { t with spare := none, subst := none }
        match t.subst with
        | some l => (loseLane u p l).send (.frame p (laneFrame s l))
        | none => u
      else match logicalOn t lane with
        | none => u
        | some l => (moveLane u p l).send (.frame p (laneFrame s l)))

/-- R363, R364: the partner's receiver has declared a logical lane failed: the lane moves at this end too, or leaves service. -/
def laneRequest (s : State) (p : Nat) (f : Frame) : State :=
  let l := f.hdr.tag.toNat
  if coupling p && l < 8 && (s.port p).lanes.getLsbD l && (s.port p).subst != some l then moveLane s p l else s

/-- LANE_SUBSTITUTION: the logical lane moves onto the spare at the next alignment marker (R363). -/
def execLaneSubstitution (p : Port) (s : State) : Result :=
  .next (match (s.port p).subst, (s.port p).spare with
    | some l, some sp =>
      (s.updPort p fun t => { t with map := mset l t.map l sp, spare := none, subst := none }).bump (.port p 3)
    | _, _ => s)

/-- LANE_RETEST: a failed lane that passes becomes the new spare (R364). -/
def execLaneRetest (p : Port) (lane : Fin 9) (passed : Bool) (s : State) : Result :=
  .next (
    let t := s.port p
    if passed && coupling p && (t.state = 4 || t.state = 5) && t.failed.getLsbD lane then
      s.updPort p fun t => { t with
        failed := t.failed &&& ~~~((1 : BitVec 9) <<< lane.val)
        spare := if t.spare = none then some lane.val else t.spare }
    else s)

/-- SCALEOUT_PORT_DOWN: a failed or FEC-degraded lane takes a scale-out port down (R359, R365). -/
def execScaleoutPortDown (p : Port) (s : State) : Result :=
  .next (if coupling p || (s.engine (engineOf p)).ramp then s else portDown s p)

-- bring-up (R371, R376, R377)

/-- R370: the position that a coupling port connects to, and the port on which it arrives there. -/
def partnerPos (s : State) (p : Nat) : Nat := (s.consist.position + p + 1) % 8
def partnerPort (p : Nat) : Nat := 6 - p

/-- R371: a coupling towards an unpopulated position is never lit. -/
def declaredDark (s : State) (p : Nat) : Bool := coupling p && !s.consist.populated.getLsbD (partnerPos s p)

/-- R376: the LLDP identity that the consist expects on a scale-out port. -/
def lldpWant (s : State) (p : Nat) : Option (List Byte × List Byte) :=
  let w := mget ([], []) s.consist.lldp p
  if w = ([], []) then none else some w

/-- R354, R377: a link trains from signal detect, with its lanes as at bring-up; one towards an unpopulated position is Dark (R371). -/
def startTraining (s : State) (p : Nat) : State :=
  s.updPort p fun t => { t with
    state := if declaredDark s p then 0 else 1, lanes := 0, map := [], spare := some 8, failed := 0, subst := none
    partner := 0xFFFF, lldpOk := false, fault := false }

/-- R372: the bytes of an identity frame that its signature covers, with the nonce of the end that checks it. -/
def identityBytes (f : IdFrame) (nonce : BitVec 256) : List Byte :=
  leBytes 1 f.position.val ++ leBytes 1 f.port.val ++ leBytes 4 f.consist.toNat ++ leBytes 48 f.digest.toNat ++ leBytes 32 nonce.toNat

/-- R581: the digest of this module's device identity public key. -/
def ownDigest : BitVec 384 := BitVec.ofNat 384 (leNat (sha384 Config.deviceKey))

/-- R372: sends this end's identity frame on a coupling, with a fresh nonce.  It is signed over the partner's nonce once that is known
(row 80 of the log). -/
def sendIdentity (s : State) (p : Nat) : State :=
  let (v, s) := s.free
  let (k, s) := s.free
  let t := s.port p
  let f : IdFrame := { position := ⟨s.consist.position % 8, Nat.mod_lt _ (by decide)⟩, port := ⟨p % 7, Nat.mod_lt _ (by decide)⟩
                       consist := BitVec.ofNat 32 s.consist.number, digest := ownDigest, nonce := BitVec.ofNat 256 v, signed := [] }
  let signed := if t.peerNonce = 0 then [] else Config.sign (shaNat (identityBytes f t.peerNonce)) k
  (s.updPort p fun t => { t with nonce := BitVec.ofNat 256 v }).send (.identity p { f with signed := signed })

/-- R372, R376, R377: alignment is locked: a coupling exchanges identity frames; a scale-out port enters service or waits for LLDP. -/
def alignPort (s : State) (p : Nat) : State :=
  if (s.port p).state != 1 then s
  else if coupling p then sendIdentity (s.updPort p fun t => { t with state := 2, lanes := 0xFF, peerNonce := 0 }) p
  else
    s.updPort p fun t => { t with
      state := if (lldpWant s p).isSome && !t.lldpOk then 2 else 4, lanes := 0xFF, linkAt := s.time.ns }

/-- The number of a bring-up stage. -/
def stageNo : BringUp → Nat
  | .rails => 1
  | .dsp => 2
  | .lasers => 3
  | .signal => 4
  | .trained => 5
  | .aligned => 6
  | .up => 7

/-- R360, R361, R377: the seated units of an engine light at bring-up, but for those retired or failed; a single one is Alone. -/
def lightUnits (k : Engine) : Engine :=
  let ok (l : Laser) (seated : Bool) : Bool := seated && l != .retired && l != .failed
  let a := ok k.a k.inA
  let b := ok k.b k.inB
  let v : Laser := if a && b then .sharing else .alone
  { k with a := if a then v else k.a, b := if b then v else k.b }

/-- PORT_BRING_UP: an engine reaches a stage; the stages come in order, and a retrain repeats them from signal detect (R377). -/
def bringUp (s : State) (e : Nat) (st : BringUp) : State :=
  let k := s.engine e
  let n := stageNo st
  let next := if 4 ≤ n then n ≤ k.stage + 1 else n = k.stage + 1
  if !next || !(s.sys.railEng.getLsbD e) then s
  else
    let t := s.updEngine e fun k => { k with stage := max k.stage n }
    match st with
    | .rails => t
    | .dsp => t
    | .lasers => t.updEngine e lightUnits
    | .signal =>
      if lit k.a || lit k.b then
        (portsOf e).foldl (fun t p => if (t.port p).state = 0 || (t.port p).state = 6 then startTraining t p else t) t
      else s
    | .trained => t
    | .aligned => (portsOf e).foldl alignPort t
    | .up => t

def execPortBringUp (e : Fin 4) (stage : BringUp) (s : State) : Result := .next (bringUp s e stage)

/-- R377: a link retrains from signal detect while its engine is lit. -/
def retrainLink (s : State) (p : Nat) : State :=
  let k := s.engine (engineOf p)
  if lit k.a || lit k.b then startTraining s p else s

def execLinkRetrain (p : Port) (s : State) : Result := .next (retrainLink s p)

/-- SCALEOUT_RETRAIN: a scale-out port that is down retrains (R365). -/
def execScaleoutRetrain (p : Port) (s : State) : Result :=
  .next (if !coupling p && (s.port p).state = 6 then retrainLink s p else s)

-- identity (R372 to R376)

/-- R375: an environment fault of a port. -/
def portFault (s : State) (p q found expected : Nat) : State :=
  (s.updPort p fun t => { t with state := 7, fault := true, lldpOk := false }).envEvent q p found expected

/-- R372: the four checks; the signature covers the nonce that this end sent. -/
def identityOk (s : State) (p : Nat) (f : IdFrame) : Bool :=
  Config.verify (leBytes 48 f.digest.toNat) (identityBytes f (s.port p).nonce) f.signed
    && f.digest = mget 0 s.consist.digests (partnerPos s p)
    && f.position.val = partnerPos s p && f.port.val = partnerPort p

/-- A verified coupling carries traffic when the consist numbers agree, and is Held otherwise (R373). -/
def identityPassed (s : State) (p : Nat) : State :=
  s.updPort p fun t =>
    if t.pcons.toNat = s.consist.number then { t with state := if laneCount t < 8 then 5 else 4 }
    else if t.state = 3 then t else { t with state := 3, heldAt := s.time.ns }

/-- R372, R373, R375: what a partner's frame decides; one without a signature only brings its nonce. -/
def identityCheck (s t : State) (p : Nat) (f : IdFrame) : State :=
  if identityOk s p f then
    identityPassed (t.updPort p fun t => { t with partner := BitVec.ofNat 16 (f.position.val + 8 * f.port.val) }) p
  else if f.signed = [] then t
  else portFault t p 4 (f.position.val + 8 * f.port.val) (partnerPos s p + 8 * partnerPort p)

/-- IDENTITY_FRAME_RECEIVE: a coupling behind alignment checks a partner's frame (R372, R373, R375, R377).  A new nonce of the partner
is answered with this end's identity signed over it. -/
def execIdentityFrameReceive (p : CoupPort) (f : IdFrame) (s : State) : Result :=
  .next (
    let k := s.port p.val
    if k.state = 0 || k.state = 1 || k.state = 6 || k.state = 7 then s
    else
      let t := s.updPort p.val fun t => { t with pcons := f.consist, peerNonce := f.nonce }
      identityCheck s (if f.nonce = k.peerNonce then t else sendIdentity t p.val) p.val f)

/-- COUPLING_HELD_TIMEOUT (R373). -/
def execCouplingHeldTimeout (p : CoupPort) (s : State) : Result :=
  .next (
    if (s.port p.val).state = 3 && (s.port p.val).heldAt + 600000000000 ≤ s.time.ns then portFault s p.val 6 0 0 else s)

/-- MISSING_PARTNER_TIMEOUT: 120 s from readiness (R374). -/
def execMissingPartnerTimeout (p : CoupPort) (s : State) : Result :=
  .next (
    if readyFor s 120000000000 && !declaredDark s p.val && (s.port p.val).partner = 0xFFFF && (s.port p.val).state != 7 then
      portFault s p.val 5 0 (partnerPos s p.val + 8 * partnerPort p.val)
    else s)

/-- DARK_PORT_LIGHT (R371). -/
def execDarkPortLight (p : Port) (s : State) : Result :=
  .next (if declaredDark s p && (s.port p).state = 0 then portFault s p 7 0 0 else s)

/-- LLDP_RECEIVE (R376). -/
def execLldpReceive (p : Port) (chassis portId : List Byte) (s : State) : Result :=
  .next (
    if coupling p || (s.port p).lanes = 0 || (s.port p).state = 7 then s
    else match lldpWant s p with
      | none => s
      | some w =>
        if w = (chassis, portId) then
          s.updPort p fun t => { t with lldpOk := true, state := if t.state = 2 then 4 else t.state }
        else portFault s p 8 0 0)

/-- LLDP_TIMEOUT: 35 s from link-up (R376). -/
def execLldpTimeout (p : Port) (s : State) : Result :=
  .next (if !coupling p && (s.port p).state = 2 && !(s.port p).lldpOk && (s.port p).linkAt + 35000000000 ≤ s.time.ns then portFault s p 8 0 0 else s)

/-- LLDP_SEND: an LLDPDU leaves on a scale-out port whose link is up, in Fault too (R376). -/
def execLldpSend (p : Port) (s : State) : Result :=
  .next (if !coupling p && (s.port p).lanes != 0 then s.send (.lldp p) else s)

/-- PAUSE_PFC_FRAME_RECEIVE: the frame is dropped and counted (R356). -/
def execPausePfcFrameReceive (p : Port) (s : State) : Result :=
  .next (if coupling p then s else s.bump (.portDrop p 0))

/-- R373: a verified coupling under a new consist: its end announces the new number, and it is Up or Held by the partner's last one. -/
def couplingAgain (s : State) (p : Nat) : State :=
  if (s.port p).partner = 0xFFFF then s else sendIdentity (identityPassed s p) p

/-- R376: a scale-out port whose expected identity is new waits for an LLDPDU that matches it; one without an expectation serves. -/
def scaleoutAgain (old s : State) (p : Nat) : State :=
  if lldpWant old p = lldpWant s p then s
  else s.updPort p fun t => { t with
    lldpOk := false
    linkAt := s.time.ns
    state := if t.state = 2 || t.state = 4 then (if (lldpWant s p).isSome then 2 else 4) else t.state }

/-- R371, R373, R375, R376: what a new consist makes of a port: it goes Dark towards a position that is no longer populated, and trains
towards one that is now; a port in Fault is examined again. -/
def portAgain (old : State) (s : State) (p : Nat) : State :=
  let t := s.port p
  if declaredDark s p then startTraining s p
  else if declaredDark old p then (if 4 ≤ (s.engine (engineOf p)).stage then startTraining s p else s)
  else if t.state = 7 then
    (if t.lanes = 0 then startTraining s p
     else alignPort (s.updPort p fun u => { u with state := 1, partner := 0xFFFF, fault := false, lldpOk := false }) p)
  else if coupling p then (if t.state = 3 || t.state = 4 || t.state = 5 then couplingAgain s p else s)
  else scaleoutAgain old s p

/-- The ports under a new consist. -/
def portsNewConsist (old s : State) : State := (List.range 12).foldl (portAgain old) s

/-- R378: WORST_BER, which nothing but the links knows: a free value while lanes are in service. -/
def measureBer (s : State) (p : Nat) : State :=
  if (s.port p).lanes = 0 then s.updPort p fun t => { t with ber := 0 }
  else
    let (v, s) := s.free
    s.updPort p fun t => { t with ber := BitVec.ofNat 32 v }

/-- R378: the status record of a port: 64 bytes. -/
def portStatus (s : State) (p : Nat) : List Byte :=
  let t := s.port p
  let e := s.engine (engineOf p)
  let ovf := b2n t.corrected.ovf + 2 * b2n t.uncorr.ovf + 4 * b2n t.e2e.ovf + 8 * b2n t.subs.ovf + 16 * b2n t.takeovers.ovf
  let spareFor := (logicalOn t 8).getD 0xFF
  leBytes 1 t.state ++ leBytes 1 (laneCount t) ++ leBytes 1 spareFor ++ leBytes 1 0 ++ leBytes 2 t.failed.toNat
    ++ leBytes 2 t.partner.toNat ++ leBytes 4 t.pcons.toNat ++ leBytes 1 (laserCode e.a) ++ leBytes 1 (laserCode e.b)
    ++ leBytes 2 0 ++ leBytes 8 t.corrected.val ++ leBytes 8 t.uncorr.val ++ leBytes 8 t.e2e.val ++ leBytes 4 t.subs.val
    ++ leBytes 4 t.takeovers.val ++ leBytes 4 t.ber.toNat ++ leBytes 4 ovf ++ leBytes 8 0

end Sys2Proof.Machine
end

