-- ==== Sys2Proof/Machine/Flows.lean ====
section
/-! DEFINITION. Carriage, sending side: flows, frames, acknowledgement, retransmission, rate control and routes (R380 to R399), with
the meanings of their commands. -/

namespace Sys2Proof.Machine

/-- R396: the scale-out ports that are Up. -/
def upScaleout (s : State) : List Nat := [7, 8, 9, 10, 11].filter (carrying s)

/-- R396: the port of a scale-out flow in rank order of its peer across the ports that are Up. -/
def assignPort (s : State) (n : Nat) : Option Nat :=
  let f := s.flow n
  let ups := upScaleout s
  let before := (s.flows.filter fun e =>
    e.2.bound && !inRake s e.2.peer && (e.2.peer < f.peer || (e.2.peer = f.peer && e.1 < n))).length
  ups[before % max ups.length 1]?

/-- R386: the starting retransmission timeout of a flow, ns. -/
def startTimeout (s : State) (n : Nat) : Nat := if inRake s (s.flow n).peer then 4000 else 40000

/-- R380, R400, R532: binds a flow to a peer and a class. -/
def bindFlow (s : State) (n peer cls : Nat) : State :=
  let t := s.updFlow n fun _ => { bound := true, peer := peer, cls := cls }
  t.updFlow n fun f => { f with port := if inRake s peer then none else assignPort t n }

/-- R368, R384: bytes as payload codewords, the last one padded with zeros, all with one mark. -/
def codewords (poison : Bool) (bs : List Byte) : List (BitVec 256 × Bool) :=
  (List.range ((bs.length + 31) / 32)).map fun i => (BitVec.ofNat 256 (leNat ((bs.drop (32 * i)).take 32)), poison)

/-- Sends bytes as the frames of one message: at most 4,096 bytes each (R368). -/
def sendMessage (s : State) (n type cls gen tag leaf offset : Nat) (bs : List Byte) (poison : Bool) : State :=
  let k := max ((bs.length + 4095) / 4096) 1
  (List.range k).foldl (fun t i =>
    let part := (bs.drop (4096 * i)).take 4096
    enqueueFrame t ⟨flowHdr t n type cls gen tag leaf (offset + 4096 * i) (i + 1 = k),
      if part = [] then [(0, poison)] else codewords poison part⟩) s

-- collectives that vote (R449)

/-- R401, R449: a collective descriptor of vote bits for the Tender. -/
def namesVote (d : List Byte) : Bool := leNat ((d.drop 1).take 1) = 3 && bit (leNat ((d.drop 6).take 1)) 2

/-- R449: the group of a vote-mode Tender collective has an even number of members, at most 32,766. -/
def voteGroupOk (members : List Nat) : Bool := members.length % 2 = 0 && members.length ≤ 32766

-- sending (R386, R388, R389)

/-- R388: bytes that the unacknowledged frames of a class group take in the retransmit store. -/
def storeBytes (s : State) (data : Bool) : Nat :=
  s.flows.foldl (fun t e => e.2.unacked.foldl (fun t u =>
    if (frameClass u.frame = 2) = data then t + 36 * (1 + u.frame.payload.length) else t) t) 0

/-- R381, R368: the bytes of a frame's codewords. -/
def wireBytes (f : Frame) : Nat := 36 * (1 + f.payload.length)

/-- R388: whether the store has room for a frame: 2 MiB of the 32 MiB are reserved for Cord and control. -/
def storeRoom (s : State) (f : Frame) : Bool :=
  let n := wireBytes f
  storeBytes s false + storeBytes s true + n ≤ 33554432 && (frameClass f != 2 || storeBytes s true + n ≤ 31457280)

/-- R390: the bytes of a class that a coupling's partner still holds for this port: those of frames sent there and not yet
acknowledged, which give their credits back (row 36 of the log). -/
def buffered (s : State) (p c : Nat) : Nat :=
  s.flows.foldl (fun t e => if portOfFlow s e.1 = some p then e.2.unacked.foldl (fun t u =>
    if frameClass u.frame = c then t + wireBytes u.frame else t) t else t) 0

/-- R390: credits for a frame on a coupling: of the 512 KiB, 16 KiB are reserved for Cord and 64 KiB for control; what a class takes
beyond its reserve comes from the rest, and data has no reserve. -/
def creditFor (s : State) (p : Nat) (f : Frame) : Bool :=
  let used (c : Nat) : Nat := buffered s p c + if frameClass f = c then wireBytes f else 0
  !coupling p || (used 0 - 16384) + (used 1 - 65536) + used 2 ≤ 442368

/-- R382, R387, R388, R390, R429: whether a waiting frame may start on a port. -/
def maySend (s : State) (p : Nat) (f : Frame) : Bool :=
  let n := frameFlow f
  portOfFlow s n = some p && (s.flow n).unacked.length < 512 && !(s.flow n).failed && storeRoom s f && creditFor s p f
    && !(s.halted && frameClass f = 2)

/-- R389: the next frame of a port: the oldest that may start, of the highest priority. -/
def nextFrame (s : State) (p : Nat) : Option Frame :=
  let q := (s.port p).txq.filter (maySend s p)
  match q.find? fun f => frameClass f = 0 with
  | some f => some f
  | none => match q.find? fun f => frameClass f = 1 with
    | some f => some f
    | none => q.head?

-- the wire (R381, R391 to R393)

/-- R381: the header codeword of a frame. -/
def headerBytes (f : Frame) : List Byte :=
  let h := f.hdr
  leBytes 1 h.type.toNat ++ leBytes 1 h.flags.toNat ++ leBytes 2 h.flow.toNat ++
    leBytes 4 (h.seq.toNat + (f.payload.length - 1) * 2 ^ 24) ++ leBytes 4 h.ack.toNat ++ leBytes 2 h.src.toNat ++ leBytes 2 h.gen.toNat ++
    leBytes 4 h.tag.toNat ++ leBytes 4 h.leaf.toNat ++ leBytes 8 h.offset.toNat

/-- R301, R303, R392: a codeword as 36 bytes with its check symbols; a marked one carries the poison mark. -/
def codewordBytes (d : BitVec 256) (poison : Bool) : List Byte :=
  leBytes 32 d.toNat ++ leBytes 4 (segCheck d ^^^ if poison then poisonRel else 0).toNat

/-- R393: SHA-384 over the sender's rank, the receiver's rank and the flow number, each little-endian in 2 bytes (row 83 of the log). -/
def flowDigest (src dst flow : Nat) : Nat := shaNat (leBytes 2 src ++ leBytes 2 dst ++ leBytes 2 flow)

/-- Bytes with the most significant first, as Internet headers hold numbers. -/
def beBytes (n v : Nat) : List Byte := (leBytes n v).reverse

/-- The Internet checksum's sum of big-endian 16-bit words, an odd byte padded with 0, folded to 16 bits. -/
def onesSum : List Byte → Nat
  | a :: b :: t => let s := onesSum t + a.toNat * 256 + b.toNat; s % 65536 + s / 65536
  | [a] => a.toNat * 256
  | [] => 0

/-- R391, R392: DSCP of a class, and ECT(0) for data. -/
def trafficClass (s : State) (c : Nat) : Nat := s.consist.dscp.getD c 0 * 4 + if c = 2 then 2 else 0

/-- R391 to R393: the Ethernet frame of a Carriage frame to a rank; the Ethernet addresses, of which the spec says nothing, are `mac`. -/
def etherBytes (s : State) (mac : Nat) (dst : Nat) (f : Frame) : List Byte :=
  let dg := flowDigest s.consist.rank dst (frameFlow f)
  let cws := codewordBytes (BitVec.ofNat 256 (leNat (headerBytes f))) false ++ f.payload.flatMap fun w => codewordBytes w.1 w.2
  let len := 8 + cws.length
  let a := beBytes 16 (mget 0 s.consist.addrs s.consist.rank).toNat ++ beBytes 16 (mget 0 s.consist.addrs dst).toNat
  let ports := beBytes 2 (49152 + dg % 2 ^ 14) ++ beBytes 2 s.consist.udpPort
  let sum := onesSum (a ++ beBytes 4 len ++ beBytes 4 17 ++ ports ++ beBytes 2 len ++ cws)
  let check := if sum % 65536 = 65535 then 65535 else 65535 - sum % 65536
  leBytes 12 mac ++ beBytes 2 0x86DD ++
    beBytes 4 (6 * 2 ^ 28 + trafficClass s (frameClass f) * 2 ^ 20 + dg % 2 ^ 20) ++ beBytes 2 len ++ [17, 64] ++ a ++
    ports ++ beBytes 2 len ++ beBytes 2 check ++ cws

/-- R392: a frame goes onto the wire of a port: as a coupler frame, or in an Ethernet frame to its flow's peer. -/
def onWire (s : State) (p : Nat) (f : Frame) : State :=
  if coupling p then s.send (.frame p f)
  else
    let (mac, t) := s.free
    t.send (.packet p f (etherBytes s mac (s.flow (frameFlow f)).peer f))

/-- A frame leaves: it takes its sequence number and the flow's cumulative acknowledgement, and enters the store (R381, R386). -/
def transmit (s : State) (p : Nat) (f : Frame) : State :=
  let n := frameFlow f
  let k := s.flow n
  let g : Frame := { f with hdr := { f.hdr with seq := k.tx, ack := k.rx } }
  let t := s.updFlow n fun k => { k with
    tx := k.tx + 1, unacked := k.unacked ++ [⟨g, 0, startTimeout s n⟩], toAck := 0 }
  onWire t p g

/-- FRAME_SEND: a port sends the next frame in strict priority of class. -/
def execFrameSend (p : Port) (s : State) : Result :=
  .next (match nextFrame s p with
    | none => s
    | some f => transmit (s.updPort p fun t => { t with txq := t.txq.erase f }) p f)

-- acknowledgement (R385, R395)

/-- R385: sends an acknowledgement of what the flow has delivered; ECE is set when it is due (R395). -/
def sendAck (s : State) (n : Nat) : State :=
  let k := s.flow n
  let h := flowHdr s n 1 1 (genNow s) 0 0 0 true
  let f : Frame := ⟨{ h with ack := k.rx, flags := h.flags ||| (if k.ece then 8 else 0) }, [(0, false)]⟩
  let t := s.updFlow n fun k => { k with toAck := 0, ece := false }
  match portOfFlow s n with
  | some p => onWire t p f
  | none => t

/-- R385: sends a negative acknowledgement that names the first missing frame. -/
def sendNack (s : State) (n : Nat) : State :=
  let k := s.flow n
  let h := flowHdr s n 2 1 (genNow s) 0 0 0 true
  let t := s.updFlow n fun k => { k with nackAt := some s.time.ns }
  match portOfFlow s n with
  | some p => onWire t p ⟨{ h with seq := k.rx, ack := k.rx }, [(0, false)]⟩
  | none => t

/-- ACK_TIMER: 1 µs after its oldest unacknowledged delivery the receiver acknowledges a flow (R385). -/
def execAckTimer (flow : FlowNo) (s : State) : Result :=
  .next (if (s.flow flow.toNat).toAck = 0 then s else sendAck s flow.toNat)

/-- Whether sequence number a comes before b: to a receiver that expects b it is a duplicate (R382). -/
def seqBefore (a b : BitVec 24) : Bool := 2 ^ 23 ≤ (a - b).toNat

/-- R398: an acknowledged remote store of this module leaves its seat's count; TAG names the seat. -/
def storeAcked (s : State) (f : Frame) : State :=
  if f.hdr.type = 5 then
    match notifySeat f.hdr.tag.toNat with
    | some r => s.updSeat r fun t => { t with remSt := t.remSt - 1 }
    | none => s
  else s

/-- R532: a CLOSE_FLOW completes when its unacknowledged frames are acknowledged. -/
def flowClosed (s : State) (n : Nat) : State :=
  let k := s.flow n
  match k.closing with
  | some (r, idx) =>
    if k.unacked = [] && !(s.ports.any fun e => e.2.txq.any fun f => frameFlow f = n) then
      ringDone (s.updFlow n fun _ => {}) r (BitVec.ofNat 32 idx) 0 0
    else s
  | none => s

/-- R386, R395: an acknowledgement frees frames from the retransmit store; progress resets resends and timeouts. -/
def ackFlow (s : State) (n : Nat) (ack : BitVec 24) (ece : Bool) : State :=
  let k := s.flow n
  let (gone, left) := k.unacked.partition fun u => seqBefore u.frame.hdr.seq ack
  let t := s.updFlow n fun k => { k with
    unacked := if gone = [] then left else left.map fun u => { u with resends := 0, timeout := startTimeout s n }
    acks := k.acks + 1, acksCe := k.acksCe + b2n ece }
  flowClosed (gone.foldl (fun t u => storeAcked t u.frame) t) n

def execAckReceive (flow : FlowNo) (ack : BitVec 24) (ece : Bool) (s : State) : Result := .next (ackFlow s flow.toNat ack ece)

-- retransmission (R386, R387)

/-- R352: whether a mover descriptor sends to a lost peer: a TEXCH of its group, or a remote transfer on a flow to it. -/
def usesPeer (s : State) (d : List Byte) (rank : Nat) : Bool :=
  let op := leNat (d.take 1)
  let kind := leNat ((d.drop 7).take 1)
  if op = 0x11 then (mget ([], []) s.consist.exch (leNat ((d.drop 0x34).take 2) % 16)).1.contains rank
  else (op = 1 || op = 2) && bits kind 3 3 = 4 && (s.flow (leNat ((d.drop 0x18).take 8) % 4096)).peer = rank

/-- R387, R407, R352: a collective or exchange that uses a lost peer completes with CODE 7. -/
def memberLost (s : State) (rank : Nat) : State :=
  { s with
    colls := mupdEach {} s.colls fun k =>
      match k.cur with
      | some c =>
        let g := leNat ((c.desc.drop 2).take 2)
        if (mget (0, []) s.consist.groups g).2.contains rank && c.code = 0 then { k with cur := some { c with code := 7 } } else k
      | none => k
    movers := mupdEach {} s.movers fun k =>
      match k.cur with
      | some c => if usesPeer s c.desc rank then { k with cur := some { c with result := some 7 } } else k
      | none => k }

/-- R387, R513: a flow fails; a scale-out peer is then lost, which stops the consist. -/
def flowFail (s : State) (n : Nat) : State :=
  let peer := (s.flow n).peer
  let t := memberLost ((s.updFlow n fun k => { k with failed := true, unacked := [] }).raise 0x0050 peer n) peer
  if inRake s peer then t else t.raiseStop 4 2

/-- R386, R387: a frame is sent again, with RETX set and a doubled timeout; after 16 resends the flow fails. -/
def resend (s : State) (n : Nat) (seq : BitVec 24) : State :=
  match (s.flow n).unacked.find? fun u => u.frame.hdr.seq = seq with
  | none => s
  | some u =>
    if 16 ≤ u.resends then flowFail s n
    else
      let f : Frame := { u.frame with hdr := { u.frame.hdr with flags := u.frame.hdr.flags ||| 0x10 } }
      let t := s.updFlow n fun k => { k with unacked := k.unacked.map fun v =>
        if v.frame.hdr.seq = seq then { v with resends := v.resends + 1, timeout := min (2 * v.timeout) 1000000 } else v }
      match portOfFlow s n with
      | some p => onWire t p f
      | none => t

def execNackReceive (flow : FlowNo) (seq : BitVec 24) (s : State) : Result := .next (resend s flow.toNat seq)
def execRetransmissionTimeout (flow : FlowNo) (seq : BitVec 24) (s : State) : Result := .next (resend s flow.toNat seq)

-- rate control (R395)

def Frac.lt (a b : Frac) : Bool := a.num * b.den < b.num * a.den

/-- R395: the marked fraction after an interval: a + (f − a) ÷ 16. -/
def nextMarked (k : Flow) : Frac :=
  let d := max k.acks 1
  ⟨15 * k.marked.num * d + k.acksCe * k.marked.den, 16 * k.marked.den * d⟩

/-- R395: the rate after an interval, in Gb/s. -/
def nextRate (k : Flow) (a : Frac) : Frac :=
  if 0 < k.acksCe then
    let r : Frac := ⟨k.rate.num * (2 * a.den - a.num), k.rate.den * 2 * a.den⟩
    if r.lt ⟨8, 5⟩ then ⟨8, 5⟩ else r
  else
    let r : Frac := ⟨k.rate.num + 4 * k.rate.den, k.rate.den⟩
    if Frac.lt ⟨1600, 1⟩ r then ⟨1600, 1⟩ else r

/-- RATE_CONTROL_INTERVAL: 10 µs of a scale-out flow's life have passed (R395). -/
def execRateControlInterval (flow : FlowNo) (s : State) : Result :=
  .next (
    let k := s.flow flow.toNat
    if !k.bound || inRake s k.peer then s
    else s.updFlow flow.toNat fun k =>
      let a := nextMarked k
      { k with marked := a, rate := nextRate k a, acks := 0, acksCe := 0 })

-- routes (R396, R399)

/-- Sends every unacknowledged frame of a flow again. -/
def resendAll (s : State) (n : Nat) : State := (s.flow n).unacked.foldl (fun t u => resend t n u.frame.hdr.seq) s

/-- Frames that wait at other ports join the port of their flow. -/
def requeue (s : State) (n : Nat) : State :=
  let waiting := s.ports.flatMap fun e => e.2.txq.filter fun f => frameFlow f = n
  waiting.foldl enqueueFrame { s with ports := mupdEach {} s.ports fun u => { u with txq := u.txq.filter fun f => frameFlow f != n } }

/-- SCALEOUT_FLOW_MOVE: flows of ports that are down move to the remaining Up ports (R396). -/
def execScaleoutFlowMove (s : State) : Result :=
  .next (s.flows.foldl (fun t e =>
    let moved : Bool := match e.2.port with
      | some p => !carrying s p
      | none => true
    if e.2.bound && !inRake s e.2.peer && !e.2.failed && moved then
      resendAll (requeue (t.updFlow e.1 fun k => { k with port := assignPort s e.1 }) e.1) e.1
    else t) s)

/-- R399: the lowest-numbered position whose couplings can relay to another: this module knows its own (row 15 of the log). -/
def relayPos (s : State) (dest : Nat) : Option Nat :=
  (List.range 8).find? fun q => q != dest && q != s.consist.position && s.consist.populated.getLsbD q && carrying s (portOfPos s q)

/-- COUPLING_RELAY: flows to a position whose coupling is not Up go through the relay; they return when it is Up (R399). -/
def execCouplingRelay (dest : Fin 8) (s : State) : Result :=
  .next (
    let d := dest.val
    let up := carrying s (portOfPos s d)
    let t := s.flows.foldl (fun t e =>
      if e.2.bound && inRake s e.2.peer && posOfRank s e.2.peer = d then
        t.updFlow e.1 fun k => { k with relay := if up then none else relayPos s d }
      else t) s
    s.flows.foldl (fun t e =>
      if e.2.bound && inRake s e.2.peer && posOfRank s e.2.peer = d then requeue t e.1 else t) t)

/-- R397, R398: the rank at a position of this rake, when the partner is another module that is reachable. -/
def reachable (s : State) (pos : Nat) : Bool :=
  pos != s.consist.position && s.consist.populated.getLsbD pos &&
    (carrying s (portOfPos s pos) || (relayPos s pos).isSome)

def rankOfPos (s : State) (pos : Nat) : Option Nat :=
  (List.range s.consist.ranks.length).find? fun r => s.consist.ranks.getD r (0, 0) = (s.consist.rake, pos)

end Sys2Proof.Machine
end

