-- ==== Sys2Proof/Machine/Movers.lean ====
section
/-! DEFINITION. The data movers (R326 to R345) and the Turntable (R346 to R353), with the meanings of their commands. -/

namespace Sys2Proof.Machine

-- descriptors (R330)

/-- A field of a descriptor. -/
def dfield (d : List Byte) (off n : Nat) : Nat := leNat ((d.drop off).take n)

def dOp (d : List Byte) : Nat := dfield d 0 1
def dFlag (d : List Byte) (i : Nat) : Bool := bit (dfield d 1 1) i
def dSrcKind (d : List Byte) : Nat := bits (dfield d 7 1) 0 3
def dDstKind (d : List Byte) : Nat := bits (dfield d 7 1) 3 3
def dSrc (d : List Byte) : Nat := dfield d 8 8
def dDst (d : List Byte) : Nat := dfield d 0x10 8
def dAux (d : List Byte) : Nat := dfield d 0x18 8
def dSStride (d : List Byte) : Int := sInt 64 (dfield d 0x20 8)
def dDStride (d : List Byte) : Int := sInt 64 (dfield d 0x28 8)
def dCount (d : List Byte) : Nat := dfield d 0x30 4
def dCols (d : List Byte) : Nat := dfield d 0x34 2
def dEsz (d : List Byte) : Nat := dfield d 0x36 2
def dAlloc (d : List Byte) : Bool := dFlag d 0

/-- R336: NARROW acts on GATHER and SCATTER. -/
def dNarrow (d : List Byte) : Bool := dFlag d 1 && (dOp d = 2 || dOp d = 3)

/-- The address of row i. -/
def rowAddr (base : Nat) (stride : Int) (i : Nat) : Int := (base : Int) + stride * i

-- TAIL, QBASE, QSIZE (R328)

def moverFin (m : Nat) : MoverNo := ⟨m % 32, Nat.mod_lt _ (by decide)⟩

/-- R328: a write of TAIL. -/
def moverTail (s : State) (m : Nat) (v : BitVec 32) : State :=
  let k := s.mover m
  if v = k.tail then s
  else if k.qsize = 0 || !reached v k.tail || 2 ^ k.qsize < (v - k.head).toNat then s.bump (.mover (moverFin m))
  else s.updMover m fun k => { k with tail := v }

def execMoverTailWrite (m : MoverNo) (v : Word32) (s : State) : Result := .next (moverTail s m v)

/-- R328: a write of QBASE, or of QSIZE. -/
def moverConfig (s : State) (m : Nat) (size : Bool) (v : Nat) : State :=
  let k := s.mover m
  let busy := k.head != k.tail
  if size then
    let n := v % 256
    if n != 0 && (n < 4 || 10 < n) then s.bump (.mover (moverFin m))
    else if busy then s
    else s.updMover m fun k => { k with qsize := n }
  else if busy then s
  else s.updMover m fun k => { k with qbase := v / 64 * 64 }

def execMoverQueueConfigWrite (m : MoverNo) (size : Bool) (v : Word) (s : State) : Result := .next (moverConfig s m size v.toNat)

/-- R329: software lets a stopped queue go on. -/
def execMoverStoppedClear (m : MoverNo) (s : State) : Result := .next (s.updMover m fun k => { k with stopped := false })

-- checks (R331 to R333, R339, R340, R342)

/-- R331: whether an operation takes its source and destination kinds. -/
def kindsOk (op sk dk : Nat) : Bool :=
  if op = 1 then sk ≤ 2 && (dk ≤ 2 || dk = 4)
  else if op = 2 then sk ≤ 1 && (dk = 0 || dk = 4)
  else if op = 3 then sk = 0 && dk = 0
  else if op = 4 || op = 5 || op = 6 then sk = 0 && (dk = 0 || dk = 3)
  else if op = 0x10 then sk ≤ 4 && dk = 0
  else if op = 0x11 then sk = 0 && dk = 0
  else false

/-- R340: the source format of a conversion. -/
def cvtSource (d : List Byte) : Option Fmt :=
  let c := bits (dfield d 6 1) 0 4
  if c = 5 then some fmtFP32 else if c = 4 then some fmtBF16 else none

/-- R340: the destination format of a conversion. -/
def cvtDest (d : List Byte) : Option Fmt :=
  let c := bits (dfield d 6 1) 4 4
  if c = 1 then some fmtE4M3 else if c = 2 then some fmtE5M2 else if c = 3 then some fmtE2M1
  else if c = 4 then some fmtBF16 else none

/-- R351: the exchange group of a TEXCH: members and flows. -/
def exchOf (s : State) (d : List Byte) : List Nat × List Nat := mget ([], []) s.consist.exch (dCols d % 16)

/-- CODE 1: a reserved field, operation, kind or format. -/
def badFields (s : State) (d : List Byte) : Bool :=
  let op := dOp d
  !(kindsOk op (dSrcKind d) (dDstKind d)) || dfield d 1 1 / 16 != 0 || dfield d 4 2 / 512 != 0 || dfield d 7 1 / 64 != 0
    || bits (dfield d 0x3C 2) 10 5 != 0 || (dFlag d 3 && 4096 ≤ dfield d 2 2)
    || ((op = 5 || op = 6) && (cvtSource d = none || cvtDest d = none))
    || (op = 0x11 && (dCols d / 16 % 16 != 0 || dCols d / 512 != 0 || !(exchOf s d).1.contains s.consist.rank))
    || (dDstKind d = 4 && !(s.flow (dAux d % 4096)).bound)

/-- R333: an address, a stride and ESZ on one side of a transfer of n rows, aligned as the side's kind asks: every stride to 32 bytes, a
module address to 32, and the address and length of every row in flash to 4,096. -/
def aligned (kind addr : Nat) (stride : Int) (esz n : Nat) : Bool :=
  stride % 32 = 0 &&
    (if kind = 0 || kind = 4 then addr % 32 = 0
    else if kind = 2 then addr % 4096 = 0 && (n ≤ 1 || stride % 4096 = 0) && esz % 4096 = 0
    else true)

/-- CODE 2: alignment. -/
def misaligned (d : List Byte) : Bool :=
  let op := dOp d
  (op = 1 || op = 2 || op = 3) &&
    (dEsz d % 32 != 0 || !aligned (dSrcKind d) (dSrc d) (dSStride d) (dEsz d) (dCount d)
      || !aligned (dDstKind d) (dDst d) (dDStride d) (dEsz d) (dCount d) || (op != 1 && dAux d % 32 != 0))

/-- Rows and elements per row that TRANSPOSE, CONVERT and TCONVERT write. -/
def outRows (d : List Byte) : Nat := if dOp d = 5 then dCount d else dCols d
def outLen (d : List Byte) : Nat := if dOp d = 5 then dCols d else dCount d

/-- Bytes of an output row. -/
def outBytes (d : List Byte) : Nat :=
  if dOp d = 4 then outLen d * dEsz d
  else match cvtDest d with
    | some f => outLen d * f.width / 8
    | none => 0

/-- CODE 3: size limits (R339, R340, R342). -/
def badSize (d : List Byte) : Bool :=
  let op := dOp d
  (op = 4 && (!(dEsz d = 1 || dEsz d = 2) || 128 < dCount d || 128 < dCols d))
    || (op = 5 && dCols d % 32 != 0)
    || (op = 6 && (dCount d % 32 != 0 || 128 < dCount d || 128 < dCols d))
    || ((op = 4 || op = 5 || op = 6) && dDstKind d = 3 && 128 < outBytes d)

/-- Whether n bytes at an address lie in the memory that a kind names. -/
def inRange (kind : Nat) (a : Int) (n : Nat) : Bool :=
  if kind = 1 then true
  else if kind = 2 then 0 ≤ a && a + n ≤ flashBytes
  else (windowEnd : Int) ≤ a && a + n ≤ memBytes

/-- R26: whether a run lies in the geometry table, which any agent may write to no effect. -/
def inGeometry (kind : Nat) (a : Int) (n : Nat) : Bool := (kind = 0 || kind = 4) && 0 ≤ a && a + n ≤ 4096

/-- Whether n bytes at an address are a destination: memory, or the geometry table, which discards them. -/
def inDest (kind : Nat) (a : Int) (n : Nat) : Bool := inRange kind a n || inGeometry kind a n

/-- Whether the destination rows of a strided run lie in memory, or all in the geometry table. -/
def rowsInDest (kind base : Nat) (stride : Int) (n len : Nat) : Bool :=
  n = 0 || (inRange kind (rowAddr base stride 0) len && inRange kind (rowAddr base stride (n - 1)) len)
    || (inGeometry kind (rowAddr base stride 0) len && inGeometry kind (rowAddr base stride (n - 1)) len)

/-- Whether the rows 0 to n − 1 of a strided run lie in range: the extremes are the first and the last. -/
def rowsInRange (kind base : Nat) (stride : Int) (n len : Nat) : Bool :=
  n = 0 || (inRange kind (rowAddr base stride 0) len && inRange kind (rowAddr base stride (n - 1)) len)

/-- CODE 4: the addresses that the descriptor alone gives. -/
def badRange (d : List Byte) : Bool :=
  let op := dOp d
  let n := dCount d
  if op = 1 then !rowsInRange (dSrcKind d) (dSrc d) (dSStride d) n (dEsz d)
      || !rowsInDest (dDstKind d) (dDst d) (dDStride d) n (dEsz d)
  else if op = 2 then !rowsInDest (dDstKind d) (dDst d) (dDStride d) n (dEsz d) || !inRange 0 (dAux d) (4 * n)
  else if op = 3 then !rowsInRange 0 (dSrc d) (dSStride d) n (dEsz d) || !inRange 0 (dAux d) (4 * n)
  else if op = 0x10 then !inDest 0 (dDst d) (8 * n)
  else if op = 0x11 then !inRange 0 (dSrc d) (n * dEsz d * 256) || !inDest 0 (dDst d) (n * dEsz d * 256)
  else
    let w := match cvtSource d with
      | some f => if op = 4 then dEsz d else f.width / 8
      | none => dEsz d
    !rowsInRange 0 (dSrc d) (dSStride d) n (dCols d * w)
      || (dDstKind d = 0 && !rowsInDest 0 (dDst d) (dDStride d) (outRows d) (outBytes d))
      || (dDstKind d = 0 && op != 4 && !inDest 0 (dAux d) (outRows d * (outLen d / 32)))

/-- CODE 5: the tile locator of DST and AUX (R342). -/
def badTile (s : State) (d : List Byte) : Bool :=
  dDstKind d = 3 &&
    (dDst d / 2 ^ 19 != 0 || 96 ≤ bits (dDst d) 0 7 || 128 < bits (dDst d) 12 7 + outRows d
      || (s.coach (bits (dDst d) 0 7)).grouped (bits (dDst d) 9 3)
      || (dOp d != 4 && (dAux d / 128 != 0 || (s.coach (bits (dDst d) 0 7)).grouped (bits (dAux d) 0 3))))

/-- CODE 9: FACTOR of a conversion is zero or non-finite. -/
def badFactor (d : List Byte) : Bool :=
  (dOp d = 5 || dOp d = 6) && (dfield d 0x38 4 % 2 ^ 31 = 0 || nonFinite32 (dfield d 0x38 4))

/-- R333: the first failing check of a descriptor, by CODE. -/
def checkDesc (s : State) (d : List Byte) : Option Nat :=
  if badFields s d then some 1
  else if misaligned d then some 2
  else if badSize d then some 3
  else if badRange d then some 4
  else if badTile s d then some 5
  else if dOp d = 0x10 && s.tender.n = 0 then some 8
  else if badFactor d then some 9
  else none

-- completion (R329, R334)

/-- R334: STATUS of a descriptor. -/
def statusWord (code : Nat) (poison : Bool) : Nat := 1 + b2n (code != 0) * 2 + b2n poison * 4 + code * 16

/-- R334: SEM and the interrupt of a completed descriptor. -/
def signalDesc (s : State) (d : List Byte) (k who : Nat) : State :=
  let s := if dFlag d 3 && dfield d 2 2 < 4096 then s.semAdd (dfield d 2 2) 1 else s
  if dFlag d 2 then s.notify (dfield d 4 2) k who else s

/-- R329, R334: a mover completes its current descriptor; one of regeneration (ring 256) is then done (R458). -/
def moverDone (s : State) (m : Nat) (c : MoverCur) (code : Nat) : State :=
  let st := statusWord code c.poison
  let k := s.mover m
  let s := match c.ring with
    | none =>
      (sysPut s (k.qbase + 64 * (k.head.toNat % 2 ^ k.qsize) + 0x3E) 2 st).updMover m fun k => { k with head := k.head + 1 }
    | some _ => s
  let s := s.updMover m fun k => { k with cur := none, stopped := k.stopped || code != 0 }
  let s := if code != 0 then s.bump (.mover (moverFin m)) else s
  let s := signalDesc s c.desc 6 m
  match c.ring with
  | none => s
  | some (r, idx) =>
    if r = 256 then s.updTender fun t => { t with regen := t.regen.filter fun x => x != idx }
    else ringDone s r (BitVec.ofNat 32 idx) 0 st

/-- The bytes that COPY, GATHER or SCATTER moves in all. -/
def transferBytes (d : List Byte) : Nat := if dOp d ≤ 3 then dCount d * dEsz d else 0

/-- R352: an exchange whose group has lost a member: the flow to it has failed. -/
def exchLost (s : State) (d : List Byte) : Bool := dOp d = 0x11 && (exchOf s d).2.any fun n => (s.flow n).bound && (s.flow n).failed

/-- A mover begins a descriptor, or completes it with the CODE of a failed check; an exchange with a lost member ends with CODE 7. -/
def beginDesc (s : State) (m : Nat) (d : List Byte) (ring : Option (Nat × Nat)) (bad : Bool) : State :=
  let c : MoverCur := ⟨d, ring, 0, transferBytes d, false, if exchLost s d then some 7 else none⟩
  let t := s.updMover m fun k => { k with cur := some c }
  if bad then moverDone t m c 1
  else match checkDesc s d with
    | some code => moverDone t m c code
    | none => t

/-- MOVER_DESCRIPTOR_START: the next descriptor in queue order: a ring command's once the head has reached the tail it stood behind,
else the slot at HEAD (R328, R329); a poisoned slot reads as a descriptor with a reserved field. -/
def moverStart (s : State) (m : Nat) : State :=
  let k := s.mover m
  if k.stopped || k.cur.isSome || s.halted then s
  else
    match k.extra with
    | (at0, r, idx, d) :: rest =>
      if reached k.head at0 then beginDesc (s.updMover m fun k => { k with extra := rest }) m d (some (r, idx)) false
      else if k.qsize = 0 then s
      else
        let ((d, p), t) := sysRead s (k.qbase + 64 * (k.head.toNat % 2 ^ k.qsize)) 64 false
        if (t.mover m).stopped then t else beginDesc t m d none p
    | [] =>
      if k.head = k.tail || k.qsize = 0 then s
      else
        let ((d, p), t) := sysRead s (k.qbase + 64 * (k.head.toNat % 2 ^ k.qsize)) 64 false
        if (t.mover m).stopped then t else beginDesc t m d none p

def execMoverDescriptorStart (m : MoverNo) (s : State) : Result := .next (moverStart s m)

-- byte paths (R332, R336, R337, R345)

/-- The segments that a run of n bytes touches: for each, its first byte and the byte behind its last. -/
def segRuns (pa n : Nat) : List (Nat × Nat) :=
  let first := pa / 32
  let count := if n = 0 then 0 else (pa + n - 1) / 32 - first + 1
  (List.range count).map fun i => (max pa (32 * (first + i)), min (pa + n) (32 * (first + i) + 32))

/-- Module memory bytes with the poison of their segments. -/
def readPoison (s : State) (pa n : Nat) (alloc : Bool) : List (Byte × Bool) × State :=
  (segRuns pa n).foldl (fun (q : List (Byte × Bool) × State) r =>
    let ((bs, p), t) := sysRead q.2 r.1 (r.2 - r.1) alloc
    (q.1 ++ bs.map fun b => (b, p), t)) ([], s)

/-- R336: the same bytes by narrow requests, which allocate nothing (R318). -/
def readNarrow (s : State) (pa n : Nat) : List (Byte × Bool) × State :=
  (segRuns pa n).foldl (fun (q : List (Byte × Bool) × State) r =>
    let (g, t) := narrowRead q.2 (r.1 / 32)
    (q.1 ++ (leBytes (r.2 - r.1) (bits g.data.toNat (8 * (r.1 % 32)) (8 * (r.2 - r.1)))).map fun b => (b, g.poison), t)) ([], s)

/-- Writes bytes with their poison, segment by segment; a narrow write of a line that is not in the LLC joins the narrow queue.  A write
to the geometry table is discarded and counted (R26). -/
def writePoison (s : State) (pa : Nat) (bs : List (Byte × Bool)) (alloc narrow : Bool) : State :=
  if pa < 4096 then s.bump .sysId
  else
    (segRuns pa bs.length).foldl (fun t r =>
      let part := (bs.drop (r.1 - pa)).take (r.2 - r.1)
      let p := part.any (·.2)
      if narrow && (llcLine t (r.1 / 128)).isNone then
        narrowPut t { cw := r.1 / 32, mask := BitVec.ofNat 32 ((2 ^ (r.2 - r.1) - 1) * 2 ^ (r.1 % 32))
                      data := BitVec.ofNat 256 (leNat (part.map (·.1)) * 2 ^ (8 * (r.1 % 32))), poison := p }
      else sysWrite t r.1 (part.map (·.1)) p alloc) s

/-- A 64-bit host address. -/
def hostAddr (a : Int) : Nat := wrapInt 64 a

/-- Reads n bytes of a kind. -/
def readKind (s : State) (kind : Nat) (a : Int) (n : Nat) (alloc narrow : Bool) : List (Byte × Bool) × State :=
  if kind = 1 then ((getCells s.hostMem (hostAddr a) n).map fun b => (b, false), s)
  else if kind = 2 then ((getCells s.flash a.toNat n).map fun b => (b, false), s)
  else if narrow then readNarrow s a.toNat n
  else readPoison s a.toNat n alloc

/-- Payload codewords of bytes with their poison. -/
def poisonWords (bs : List (Byte × Bool)) : List (BitVec 256 × Bool) :=
  (List.range ((bs.length + 31) / 32)).map fun i =>
    let part := (bs.drop (32 * i)).take 32
    (BitVec.ofNat 256 (leNat (part.map (·.1))), part.any (·.2))

/-- The kind of a data frame, in the top byte of OFFSET: 0 bytes for a module address, 1 to 17 a collective's message, 32 an exchange
slot. -/
def frameKind (f : Frame) : Nat := f.hdr.offset.toNat / 2 ^ 56

/-- Writes bytes of a descriptor to a destination kind; remote bytes leave as a data frame of flow AUX (R332). -/
def writeKind (s : State) (m : Nat) (d : List Byte) (kind : Nat) (a : Int) (bs : List (Byte × Bool)) (last : Bool) : State :=
  if kind = 1 then { s with hostMem := putBytes s.hostMem (hostAddr a) (bs.map (·.1)) }
  else if kind = 2 then { s with flash := putBytes s.flash a.toNat (bs.map (·.1)) }
  else if kind = 4 then
    enqueueFrame s ⟨flowHdr s (dAux d % 4096) 0 2 (genNow s) m 0 a.toNat last, poisonWords bs⟩
  else writePoison s a.toNat bs (dAlloc d) (dNarrow d)

/-- Sets the result of mover m's current descriptor. -/
def moverResult (s : State) (m code : Nat) : State :=
  s.updMover m fun k => { k with cur := k.cur.map fun c => { c with result := some code } }

/-- R335: the index of element i, read from the array at AUX; none when its segment is poisoned. -/
def indexAt (s : State) (d : List Byte) (i : Nat) : Option Nat × State :=
  let ((bs, p), t) := sysRead s (dAux d + 4 * i) 4 (dAlloc d)
  (if p then none else some (leNat bs), t)

/-- R329, R335, R344: the next transfer of at most 256 bytes of a COPY, GATHER or SCATTER; a stop that the access itself raises leaves
the descriptor incomplete. -/
def moverChunk (s : State) (m : Nat) (c : MoverCur) : State :=
  let d := c.desc
  if c.total ≤ c.moved || dEsz d = 0 then moverResult s m 0
  else
    let i := c.moved / dEsz d
    let off := c.moved % dEsz d
    let n := min 256 (dEsz d - off)
    let (ix, t) := if dOp d = 1 then (some i, s) else indexAt s d i
    match ix with
    | none => moverResult t m 4
    | some x =>
      let sa := rowAddr (dSrc d) (dSStride d) (if dOp d = 2 then x else i)
      let da := rowAddr (dDst d) (dDStride d) (if dOp d = 3 then x else i)
      if !inRange (dSrcKind d) sa (dEsz d) || !inDest (dDstKind d) da (dEsz d) then moverResult t m 4
      else if dDstKind d = 2 && t.mgmt.flashRo then moverResult t m 6
      else
        let (bs, t) := readKind t (dSrcKind d) (sa + off) n (dAlloc d) (dNarrow d)
        let done := c.moved + n
        let t := writeKind t m d (dDstKind d) (da + off) bs (done = c.total)
        t.updMover m fun k => { k with cur := k.cur.map fun _ => { c with
          moved := done, poison := c.poison || bs.any (·.2), result := if c.total ≤ done then some 0 else none } }

/-- MOVER_TRANSFER_CHUNK. -/
def execMoverTransferChunk (m : MoverNo) (s : State) : Result :=
  .next (match (s.mover m).cur with
    | some c => if c.result = none && dOp c.desc ≤ 3 then moverChunk s m c else s
    | none => s)

/-- R345, R334: an access of the host or the flash fails in a row (CODE 6). -/
def accessFails (d : List Byte) (fail : Option Nat) (row : Nat) : Bool :=
  match fail with
  | some r => r ≤ row && (dSrcKind d = 1 || dSrcKind d = 2 || dDstKind d = 1 || dDstKind d = 2)
  | none => false

/-- All transfers that are left of a descriptor. -/
def moverRun : Nat → Nat → Option Nat → State → State
  | 0, _, _, s => s
  | n + 1, m, fail, s =>
    match (s.mover m).cur with
    | none => s
    | some c =>
      if c.result != none then s
      else if c.moved < c.total && accessFails c.desc fail (c.moved / max (dEsz c.desc) 1) then moverResult s m 6
      else moverRun n m fail (moverChunk s m c)

/-- The current descriptor of mover m, when it is of operation op and not yet performed. -/
def curOf (s : State) (m op : Nat) : Option MoverCur :=
  match (s.mover m).cur with
  | some c => if dOp c.desc = op && c.result = none then some c else none
  | none => none

/-- Performs a COPY, GATHER or SCATTER to its end. -/
def moverTransfer (s : State) (m op : Nat) (fail : Option Nat) : State :=
  match curOf s m op with
  | some c => moverRun (c.total + 1) m fail s
  | none => s

def execMoverCopy (m : MoverNo) (fail : Option Nat) (s : State) : Result := .next (moverTransfer s m 1 fail)
def execMoverGather (m : MoverNo) (fail : Option Nat) (s : State) : Result := .next (moverTransfer s m 2 fail)
def execMoverScatter (m : MoverNo) (s : State) : Result := .next (moverTransfer s m 3 none)

-- TRANSPOSE, CONVERT, TCONVERT (R339 to R342)

/-- Reads COUNT source rows of n bytes. -/
def readRows (s : State) (d : List Byte) (n : Nat) : List (List (Byte × Bool)) × State :=
  (List.range (dCount d)).foldl (fun (q : List (List (Byte × Bool)) × State) i =>
    let (bs, t) := readPoison q.2 (rowAddr (dSrc d) (dSStride d) i).toNat n (dAlloc d)
    (q.1 ++ [bs], t)) ([], s)

/-- The segments of a tile row that poisoned bytes lie in, from byte off. -/
def poisonMask (off : Nat) (bs : List (Byte × Bool)) : Nat :=
  (List.range 4).foldl (fun t i =>
    t + b2n ((bs.zipIdx).any fun q => q.1.2 && (off + q.2) / 32 = i) * 2 ^ i) 0

/-- R342: bytes of a tile row of a seat; the tile becomes full, the rest of an empty one reads as 0, and its latches are dropped. -/
def tileBytes (s : State) (coach seat tile row off : Nat) (bs : List (Byte × Bool)) : State :=
  s.updCoach coach fun k =>
    (k.fillTile seat tile false).putTile seat tile false row fun w => w.put off bs.length (leNat (bs.map (·.1))) (poisonMask off bs)

/-- One output row: to memory, or to the tile of DST. -/
def putOut (s : State) (d : List Byte) (i : Nat) (bs : List (Byte × Bool)) : State :=
  if dDstKind d = 3 then
    tileBytes s (bits (dDst d) 0 7) (bits (dDst d) 7 2) (bits (dDst d) 9 3) (bits (dDst d) 12 7 + i) 0 bs
  else writePoison s (rowAddr (dDst d) (dDStride d) i).toNat bs (dAlloc d) false

/-- A descriptor's operation has been performed with CODE 0. -/
def moverPerformed (s : State) (m : Nat) (poison : Bool) : State :=
  s.updMover m fun k => { k with cur := k.cur.map fun c => { c with result := some 0, poison := poison } }

/-- MOVER_TRANSPOSE (R339). -/
def moverTranspose (s : State) (m : Nat) (d : List Byte) : State :=
  let e := dEsz d
  let (rows, t) := readRows s d (dCols d * e)
  let t := (List.range (dCols d)).foldl (fun t c =>
    putOut t d c (rows.flatMap fun r => (r.drop (c * e)).take e)) t
  moverPerformed t m (rows.any fun r => r.any (·.2))

def execMoverTranspose (m : MoverNo) (s : State) : Result :=
  .next (match curOf s m 4 with
    | some c => moverTranspose s m c.desc
    | none => s)

/-- The elements of a source row, widened exactly to FP32, each with its poison (R213, R340). -/
def widenRow (f : Fmt) (row : List (Byte × Bool)) : List (Nat × Bool) :=
  let w := f.width / 8
  (List.range (row.length / w)).map fun i =>
    let part := (row.drop (w * i)).take w
    (widen32 f (leNat (part.map (·.1))), part.any (·.2))

/-- Column i of rows of elements. -/
def column (rows : List (List (Nat × Bool))) (i : Nat) : List (Nat × Bool) := rows.map fun r => r.getD i (0, false)

/-- The bytes of a converted block; a poisoned block poisons the segments of its elements (R341). -/
def blockBytes (f : Fmt) (b : CvtBlock) (poison : Bool) : List (Byte × Bool) :=
  (leBytes (4 * f.width) (packElems f.width b.codes)).map fun x => (x, poison)

/-- One converted row: its bytes, and its scales. -/
def putCvt (s : State) (d : List Byte) (f : Fmt) (i : Nat) (es : List (Nat × Bool)) : State :=
  let src := blocksOf es
  let bs := cvtRow f (dfield d 0x38 4) src
  let t := putOut s d i ((bs.zip src).flatMap fun q => blockBytes f q.1 q.2.2)
  let scales := bs.map fun b => (BitVec.ofNat 8 b.scale, false)
  let t := if dDstKind d = 3 then
      tileBytes t (bits (dDst d) 0 7) (bits (dDst d) 7 2) (bits (dAux d) 0 3) i (16 * bits (dAux d) 3 3 + 8 * bits (dAux d) 6 1) scales
    else writePoison t (dAux d + i * (outLen d / 32)) scales (dAlloc d) false
  if bit (dfield d 0x3C 2) 15 then countBlocks t (dfield d 0x3C 2 % 1024) bs else t

/-- CONVERT and TCONVERT (R340, R341). -/
def moverConvert (s : State) (m : Nat) (d : List Byte) : State :=
  match cvtSource d, cvtDest d with
  | some sf, some df =>
    let (rows, t) := readRows s d (dCols d * sf.width / 8)
    let es := rows.map (widenRow sf)
    let t := (List.range (outRows d)).foldl (fun t i =>
      putCvt t d df i (if dOp d = 6 then column es i else es.getD i [])) t
    moverPerformed t m (rows.any fun r => r.any (·.2))
  | _, _ => moverResult s m 1

def execMoverConvert (m : MoverNo) (s : State) : Result :=
  .next (match curOf s m 5 with
    | some c => moverConvert s m c.desc
    | none => s)

def execMoverTconvert (m : MoverNo) (s : State) : Result :=
  .next (match curOf s m 6 with
    | some c => moverConvert s m c.desc
    | none => s)

-- the Turntable (R346 to R350)

/-- R346: the rounds, and the first sample of each shard. -/
def ttRounds (s : State) : Nat := if s.expert 10 then s.consist.rounds else 4
def ttShards (s : State) : List Nat := if s.expert 10 then s.consist.shardMap else [0]

/-- R347: the round keys of an epoch. -/
def ttKeys (seed : BitVec 256) (epoch : Nat) : List Nat :=
  let h := sha384 (leBytes 32 seed.toNat ++ leBytes 8 epoch ++ [0x54, 0x55, 0x52, 0x4E])
  (List.range 6).map fun i => leNat ((h.drop (8 * i)).take 8)

/-- R348: the smallest h of at least 1 with 4^h ≥ n. -/
def ttH (n : Nat) : Nat := ((List.range 24).find? fun i => n ≤ 4 ^ (i + 1)).elim 24 (· + 1)

/-- R348: f(k, r), its high h bits. -/
def ttF (h k r : Nat) : Nat :=
  let t := (r + k) % 2 ^ 64
  let t := t ^^^ (t / 2 ^ 31)
  let t := t * 0xa24baed4963ee407 % 2 ^ 64
  let t := t ^^^ (t / 2 ^ 29)
  let t := t * 0x9fb21c651e98df25 % 2 ^ 64
  let t := t ^^^ (t / 2 ^ 32)
  t / 2 ^ (64 - h)

/-- R348: e(x). -/
def ttE (h : Nat) (keys : List Nat) (x : Nat) : Nat :=
  let (l, r) := keys.foldl (fun (q : Nat × Nat) k => (q.2, q.1 ^^^ ttF h k q.2)) (x / 2 ^ h % 2 ^ h, x % 2 ^ h)
  l * 2 ^ h + r

/-- R348: cycle walking; e permutes 0 to 4^h − 1, so a walk of 4^h steps ends below n. -/
def ttWalk (h n : Nat) (keys : List Nat) : Nat → Nat → Nat
  | 0, x => x
  | fuel + 1, x => if x < n then x else ttWalk h n keys fuel (ttE h keys x)

/-- R348: perm(q). -/
def ttPerm (h n : Nat) (keys : List Nat) (q : Nat) : Nat := ttWalk h n keys (4 ^ h) (ttE h keys q)

/-- R349: the word of position p in epoch e. -/
def tmapWord (s : State) (e p : Nat) : Nat :=
  let n := s.tender.n
  let x := ttPerm (ttH n) n ((ttKeys s.tender.seed ((e + p / n) % 2 ^ 64)).take (ttRounds s)) (p % n)
  let shards := ttShards s
  let k := (shards.filter fun f => f ≤ x).length - 1
  (x - shards.getD k 0) % 2 ^ 48 + k % 256 * 2 ^ 48 + min (p / n) 255 * 2 ^ 56

/-- TMAP: COUNT words in ascending position (R349). -/
def moverTmap (s : State) (m : Nat) (d : List Byte) : State :=
  let t := (List.range (dCount d)).foldl (fun t i =>
    writePoison t (dDst d + 8 * i) ((leBytes 8 (tmapWord s (dAux d) (dSrc d + i))).map fun b => (b, false)) (dAlloc d) false) s
  moverPerformed t m false

def execTmap (m : MoverNo) (s : State) : Result :=
  .next (match curOf s m 0x10 with
    | some c => moverTmap s m c.desc
    | none => s)

-- exchange mode (R351, R352)

/-- R351: the members to which slot j goes. -/
def slotMembers (mode : Bool) (g j : Nat) : List Nat := if mode then [j % g] else List.range g

/-- R351: the member that produces slot j. -/
def slotSource (g count j : Nat) : Nat := j * g / count

/-- Sends one slot to one member: to this member by a copy, to another as data frames for the address in OFFSET; and whether it carried
poison (R337). -/
def sendSlot (s : State) (d : List Byte) (me : Nat) (flows : List Nat) (j who : Nat) : State × Bool :=
  let n := dEsz d * 256
  let (bs, t) := readPoison s (dSrc d + j * n) n (dAlloc d)
  (if who = me then (if dSrc d = dDst d then t else writePoison t (dDst d + j * n) bs (dAlloc d) false)
  else
    (List.range ((n + 4095) / 4096)).foldl (fun t i =>
      let part := (bs.drop (4096 * i)).take 4096
      enqueueFrame t ⟨flowHdr t (flows.getD who 0) 0 2 (genNow t) (dCols d % 16) j (32 * 2 ^ 56 + dDst d + j * n + 4096 * i)
        (n ≤ 4096 * (i + 1)), poisonWords part⟩) t, bs.any (·.2) && !(who = me && dSrc d = dDst d))

/-- TEXCH: this member sends its slots in ascending j (R351, R352). -/
def moverTexch (s : State) (m : Nat) (d : List Byte) : State :=
  let (ranks, flows) := exchOf s d
  let g := ranks.length
  let me := ranks.idxOf s.consist.rank
  let mine := (List.range (dCount d)).filter fun j => slotSource g (dCount d) j = me
  let (t, p) := (mine.flatMap fun j => (slotMembers (bit (dCols d) 8) g j).map fun who => (j, who)).foldl
    (fun (q : State × Bool) x => let (t, p) := sendSlot q.1 d me flows x.1 x.2; (t, q.2 || p)) (s, false)
  moverPerformed t m p

def execTexch (m : MoverNo) (s : State) : Result :=
  .next (match curOf s m 0x11 with
    | some c => moverTexch s m c.desc
    | none => s)

/-- Whether a frame of the data class with a TAG and a kind among `lo` to `hi` waits to be sent or acknowledged. -/
def tagOpen (s : State) (tag lo hi : Nat) : Bool :=
  let mine (f : Frame) : Bool :=
    frameClass f = 2 && f.hdr.type = 0 && f.hdr.tag.toNat = tag && lo ≤ frameKind f && frameKind f ≤ hi
  (s.ports.any fun e => e.2.txq.any mine) || s.flows.any fun e => e.2.unacked.any fun u => mine u.frame

/-- R352: the slots of other members that are due to this one. -/
def slotsDue (s : State) (d : List Byte) : List Nat :=
  let g := (exchOf s d).1.length
  let me := (exchOf s d).1.idxOf s.consist.rank
  (List.range (dCount d)).filter fun j =>
    slotSource g (dCount d) j != me && (slotMembers (bit (dCols d) 8) g j).contains me

/-- The bytes of a slot of an exchange group that have arrived. -/
def slotBytes (s : State) (g j : Nat) : Nat :=
  (s.arrivals.filter fun a => a.grp = g && a.slot = j).foldl (fun t a => t + a.bytes) 0

/-- R334, R337: whether one of the bytes of some slots that have arrived was poisoned. -/
def slotPoison (s : State) (g : Nat) (js : List Nat) : Bool := s.arrivals.any fun a => a.grp = g && js.contains a.slot && a.poison

/-- R332, R352: whether what a descriptor sent is acknowledged and what is due to it has come. -/
def moverSettled (s : State) (m : Nat) (d : List Byte) : Bool :=
  if dOp d = 0x11 then
    !tagOpen s (dCols d % 16) 32 32 && (slotsDue s d).all fun j => dEsz d * 256 ≤ slotBytes s (dCols d % 16) j
  else !(dDstKind d = 4 && dOp d ≤ 2 && tagOpen s m 0 0)

/-- The arrivals of an exchange group without the first n bytes of one slot. -/
def takeSlot (g j : Nat) : Nat → List Arrival → List Arrival
  | _, [] => []
  | n, a :: as =>
    if a.grp = g && a.slot = j then
      if a.bytes ≤ n then takeSlot g j (n - a.bytes) as else { a with bytes := a.bytes - n } :: as
    else a :: takeSlot g j n as

/-- R352: a completed TEXCH consumes the bytes of its slots; those of the next exchange that came early stay. -/
def consumeSlots (s : State) (d : List Byte) : State :=
  if dOp d = 0x11 then
    { s with arrivals := (slotsDue s d).foldl (fun as j => takeSlot (dCols d % 16) j (dEsz d * 256) as) s.arrivals }
  else s

/-- MOVER_DESCRIPTOR_COMPLETE: STATUS is written, then the semaphore and the interrupt are signalled (R334). -/
def moverComplete (s : State) (m : Nat) : State :=
  match (s.mover m).cur with
  | none => s
  | some c =>
    match c.result with
    | none => s
    | some code =>
      if code = 0 && !moverSettled s m c.desc then s
      else
        let p := dOp c.desc = 0x11 && slotPoison s (dCols c.desc % 16) (slotsDue s c.desc)
        moverDone (consumeSlots s c.desc) m { c with poison := c.poison || p } code

def execMoverDescriptorComplete (m : MoverNo) (s : State) : Result := .next (moverComplete s m)

end Sys2Proof.Machine
end

