-- ==== Sys2Proof/Machine/Tender.lean ====
section
/-! DEFINITION. The Tender (R434 to R465): the directory, reduced blocks, sign-momentum, compat layers and installs, with the
meanings of their commands. -/

namespace Sys2Proof.Machine

-- buffers and entries (R434 to R440, R462)

def tenderExpert (s : State) : Bool := s.expert 5

/-- R434, R437: the base of buffer A or B. -/
def bufBase (s : State) (b : Bool) : Nat := if b then s.consist.bufB else s.consist.bufA

/-- R437: the base of the active buffer. -/
def activeBase (s : State) : Nat := bufBase s s.tender.active

/-- The base of the inactive buffer. -/
def idleBase (s : State) : Nat := bufBase s (!s.tender.active)

/-- R440: update blocks of an entry. -/
def entryBlocks (e : DirEntry) : Nat := (e.len + 4095) / 4096

/-- R440: whether an entry is applied on this module. -/
def owned (s : State) (e : DirEntry) : Bool := e.valid && e.shard = s.consist.rank

/-- R440: DUE. -/
def tenderDue (s : State) : Nat := s.tender.dir.foldl (fun t p => if owned s p.2 then t + entryBlocks p.2 else t) 0

/-- R462, R463: lr, β and λ of an entry. -/
def hyper (s : State) (e : DirEntry) : Preset :=
  if tenderExpert s && e.own then ⟨e.lr, e.beta, e.lambda⟩ else mget {} s.tender.presets e.preset

def effStrict (s : State) (e : DirEntry) : Bool := tenderExpert s && e.strict
def effClass (s : State) (e : DirEntry) : Nat := if tenderExpert s then e.mclass else 0
def effGout (s : State) (e : DirEntry) : Nat := if tenderExpert s then e.gout else 0

/-- R438, R439: the fields of a directory entry's 64 bytes. -/
def entryOf (b : List Byte) : DirEntry :=
  let f (o n : Nat) : Nat := leNat ((b.drop o).take n)
  let g := f 0x18 1
  { offset := f 0 6, pbase := f 8 6, len := f 0x10 4, shard := f 0x14 2, gen := f 0x16 2
    valid := bit g 0, sum := bit g 1, frozen := bit g 2, strict := bit g 3, compat := bit g 4, own := bit g 5
    preset := bits (f 0x19 1) 0 3, mclass := bits (f 0x19 1) 3 4, layer := bits (f 0x1A 2) 0 12, cleaf := f 0x1C 2
    fp8 := f 0x20 8, gout := f 0x28 8, lr := f 0x30 4, beta := f 0x34 4, lambda := f 0x38 4 }

/-- R438: an entry as its 64 bytes. -/
def entryBytes (e : DirEntry) : List Byte :=
  leBytes 8 e.offset ++ leBytes 8 e.pbase ++ leBytes 4 e.len ++ leBytes 2 e.shard ++ leBytes 2 e.gen
    ++ leBytes 1 (b2n e.valid + 2 * b2n e.sum + 4 * b2n e.frozen + 8 * b2n e.strict + 16 * b2n e.compat + 32 * b2n e.own)
    ++ leBytes 1 (e.preset + 8 * e.mclass) ++ leBytes 2 e.layer ++ leBytes 2 e.cleaf ++ leBytes 2 0
    ++ leBytes 8 e.fp8 ++ leBytes 8 e.gout ++ leBytes 4 e.lr ++ leBytes 4 e.beta ++ leBytes 4 e.lambda ++ leBytes 4 0

-- the drains of checkpoints (R41, R498)

/-- R498: whether a save drains the buffer that is now inactive. -/
def drains (s : State) (v : Option Save) : Bool :=
  match v with
  | some v => !v.staged && v.bufB = !s.tender.active
  | none => false

/-- R41: whether a running drain has still to read a block. -/
def mustWait (s : State) (x b : Nat) : Bool :=
  s.way.saves.any fun e => drains s e.2 &&
    match e.2 with
    | some v => owned s (mget {} v.dir x) && b < entryBlocks (mget {} v.dir x) && !v.read.contains (x, b)
    | none => false

/-- The address of a block of an entry in a buffer. -/
def blockAddr (base : Nat) (e : DirEntry) (b : Nat) : Nat := base + e.offset + 16384 * b

/-- A save reads a block out of its buffer. -/
def saveRead (s : State) (k x b : Nat) : State :=
  match mget none s.way.saves k with
  | none => s
  | some v =>
    if v.staged || v.read.contains (x, b) || !owned s (mget {} v.dir x) || entryBlocks (mget {} v.dir x) ≤ b then s
    else
      let ((bs, _), t) := sysRead s (blockAddr (bufBase s v.bufB) (mget {} v.dir x) b) 16384 false
      let u : Save := { v with read := v.read ++ [(x, b)], blocks := mset [] v.blocks (65536 * x + b) bs }
      t.updWay fun w => { w with saves := mset none w.saves k (some u) }

/-- The drains read a block out of the inactive buffer. -/
def drainRead (s : State) (x b : Nat) : State :=
  (s.way.saves.filter fun e => drains s e.2).foldl (fun t e => saveRead t e.1 x b) s

/-- A save reads every block that it has still to read. -/
def saveReadAll (s : State) (k : Nat) : State :=
  match mget none s.way.saves k with
  | none => s
  | some v => v.dir.foldl (fun t e => (List.range (entryBlocks e.2)).foldl (fun t b => saveRead t k e.1 b) t) s

-- sign-momentum (R449 to R452)

/-- R451: rnd(step, i, j). -/
def tenderRnd (kt step i j : Nat) : Nat :=
  let t := (kt + step * 0x9e3779b97f4a7c15 + 2 * i + j) % 2 ^ 64
  let t := t ^^^ (t / 2 ^ 31)
  let t := t * 0xa24baed4963ee407 % 2 ^ 64
  let t := t ^^^ (t / 2 ^ 29)
  let t := t * 0x9fb21c651e98df25 % 2 ^ 64
  let t := t ^^^ (t / 2 ^ 32)
  t / 2 ^ 48

def one32 : Nat := 0x3F800000
def minusOne32 : Nat := 0xBF800000

/-- R450: sgn of an FP32 code: 0 for ±0 and NaN. -/
def sgn32 (v : Nat) : Nat :=
  let x := fdecode fmtFP32 v
  if flt (.fin false 0 0) x then one32 else if flt x (.fin false 0 0) then minusOne32 else 0

/-- R450: s of a reduced gradient: the sign of the vote sum, or of the FP32 value. -/
def gradSign (vote : Bool) (v : Word32) : Nat :=
  if vote then (if 0 < (v.toNat % 2 ^ 16 |> sInt 16) then one32 else if (sInt 16 v.toNat) < 0 then minusOne32 else 0)
  else sgn32 v.toNat

/-- The new weight and momentum of a parameter as FP32 codes (R450). -/
def nativeUpdate (h : Preset) (omb s w m : Nat) : Nat × Nat :=
  let mn := add32 (mul32 h.beta m) (mul32 omb s)
  let u := add32 (sgn32 mn) (mul32 h.lambda w)
  (sub32 w (mul32 h.lr u), mn)

/-- R453: mn of a compat entry's parameter, and its new weight under ρ. -/
def compatMn (h : Preset) (omb g m : Nat) : Nat := add32 (mul32 h.beta m) (mul32 omb g)
def compatWn (h : Preset) (rho w mn : Nat) : Nat :=
  sub32 w (mul32 h.lr (add32 (mul32 rho mn) (mul32 h.lambda w)))

/-- The BF16 elements of half a block, with their poison. -/
def bf16s (bs : List (Byte × Bool)) : List (Nat × Bool) :=
  (List.range (bs.length / 2)).map fun i =>
    let a := bs.getD (2 * i) (0, false)
    let b := bs.getD (2 * i + 1) (0, false)
    (a.1.toNat + 256 * b.1.toNat, a.2 || b.2)

/-- BF16 as FP32, exactly. -/
def widenBf (v : Nat) : Nat := widen32 fmtBF16 v

/-- The bytes of BF16 elements with their poison. -/
def bf16Bytes (es : List (Nat × Bool)) : List (Byte × Bool) := es.flatMap fun e => (leBytes 2 e.1).map fun b => (b, e.2)

/-- R435, R450, R453: writes a block of new weights and momentum to the inactive buffer: f answers the two FP32 results of
parameter k; padding is +0.0, and a poisoned source poisons what is computed from it. -/
def putBlock (s : State) (x b : Nat) (ws ms : List (Nat × Bool)) (f : Nat → Nat → Nat → Nat × Nat) : State :=
  let e := s.dir x
  let out := (List.range 4096).map fun k =>
    let w := ws.getD k (0, false)
    let m := ms.getD k (0, false)
    let p := w.2 || m.2
    if e.len ≤ 4096 * b + k then (0, 0, false, false)
    else
      let (wn, mn) := f k (widenBf w.1) (widenBf m.1)
      let i := e.pbase + 4096 * b + k
      (srBf16 wn (tenderRnd s.tender.kt s.tender.step i 0), srBf16 mn (tenderRnd s.tender.kt s.tender.step i 1), p,
        nonFinite32 wn || nonFinite32 mn)
  let t := writePoison s (blockAddr (idleBase s) e b)
    (bf16Bytes (out.map fun o => (o.1, o.2.2.1)) ++ bf16Bytes (out.map fun o => (o.2.1, o.2.2.1))) false false
  if out.any (·.2.2.2) then t.updTender fun k => { k with nonfin := true } else t

/-- Weights and momentum of a block of the active buffer. -/
def readBlock (s : State) (x b : Nat) : List (Nat × Bool) × List (Nat × Bool) × State :=
  let (bs, t) := readPoison s (blockAddr (activeBase s) (s.dir x) b) 16384 false
  (bf16s (bs.take 8192), bf16s (bs.drop 8192), t)

/-- A block counts towards DONEBLK. -/
def blockDone (s : State) (x b : Nat) : State :=
  s.updTender fun t => { t with record := (x, b) :: t.record, doneBlk := t.doneBlk + 1 }

/-- R460: a vote-mode block enters the margin accumulators of its class. -/
def addMargin (s : State) (e : DirEntry) (q : TBlock) : State :=
  let vs := (q.vals.take (e.len - 4096 * q.block)).map fun v => (sInt 16 v.toNat).natAbs
  s.updTender fun t => { t with marginAcc := mupd {} t.marginAcc (effClass s e) fun m =>
    { sumAbs := m.sumAbs + vs.foldl (· + ·) 0
      elements := m.elements + vs.length
      blocks := m.blocks + 1
      zeroBlk := m.zeroBlk + b2n (vs.all (· = 0))
      n := q.n } }

/-- R452, R36: a sum-mode block with an infinite or NaN value sets the non-finite flag. -/
def blockFlag (s : State) (e : DirEntry) (q : TBlock) : State :=
  if e.sum && q.vals.any fun v => nonFinite32 v.toNat then s.updTender fun t => { t with nonfin := true } else s

/-- R450: a block is applied under the native rule. -/
def applyNative (s : State) (q : TBlock) : State :=
  let e := s.dir q.entry
  let h := hyper s e
  let omb := sub32 one32 h.beta
  let (ws, ms, t) := readBlock (blockFlag s e q) q.entry q.block
  let t := putBlock t q.entry q.block ws ms fun k w m => nativeUpdate h omb (gradSign (!e.sum) (q.vals.getD k 0)) w m
  let t := if e.sum then t else addMargin t e q
  (blockDone t q.entry q.block).bump (.tender 0)

-- arriving blocks (R445 to R448, R455)

/-- R455: a block of a frozen entry is dropped. -/
def dropBlock (s : State) (e : DirEntry) (q : TBlock) : State :=
  let t := (blockDone (blockFlag s e q) q.entry q.block).bump (.tender 1)
  let t := if effGout s e = 0 then t
    else if e.sum then
      sysWrite t (effGout s e + 16384 * q.block) (q.vals.flatMap fun v => leBytes 4 v.toNat) false false
    else sysWrite t (effGout s e + 16384 * q.block) (q.vals.flatMap fun v => leBytes 2 v.toNat) false false
  if effStrict s e && !t.tender.strictEv.contains q.entry then
    (t.updTender fun k => { k with strictEv := q.entry :: k.strictEv }).raise 0x0053 q.entry 0
  else t

/-- R445: the outcomes 1 to 3 of the check of a block; none when the block is to be dropped or applied. -/
def rejectBlock (s : State) (q : TBlock) : Option State :=
  let e := s.dir q.entry
  if !owned s e then
    some ((s.bump (.tender 3)).raise 0x0052 (q.entry + 65536 * q.block) (if e.valid then e.shard else 0xFFFF))
  else if q.gen != e.gen then some ((s.bump (.tender 2)).raise 0x0051 (q.entry + 65536 * q.block) q.gen)
  else if s.tender.record.contains (q.entry, q.block) || s.tender.qblk.any fun r => r.1 = q.entry && r.2.1 = q.block then
    some (s.bump (.tender 4))
  else none

/-- R445, R447, R448: a reduced block reaches the Tender: discarded, dropped, or queued.  One that comes between the contribution and
the step's end waits unchecked; none enters a full queue or a halted Tender (R459). -/
def tenderArrive (s : State) (q : TBlock) : State :=
  let push (t : State) : State := t.updTender fun k => { k with queue := k.queue ++ [q] }
  if s.halted || 1024 ≤ s.tender.queue.length then s
  else if s.tender.contrib then push s
  else match rejectBlock s q with
    | some t => t
    | none =>
      let e := s.dir q.entry
      if e.frozen && !e.compat && s.tender.copies = [] then dropBlock s e q else push s

def execTenderBlockArrival (entry block gen n : Half) (vals : List Word32) (s : State) : Result :=
  if wf (.tenderBlockArrival entry block gen n vals) then .next (tenderArrive s ⟨entry.toNat, block.toNat, gen.toNat, n.toNat, vals⟩) else .fault .illFormed

-- applying (R41, R447, R450)

/-- The oldest block that the Tender may take up now. -/
def frontBlock (s : State) : Option TBlock :=
  if s.halted || s.tender.contrib || s.tender.copies != [] then none else s.tender.queue.head?

def popBlock (s : State) : State := s.updTender fun t => { t with queue := t.queue.drop 1, stalled := false }

/-- R41: the Tender begins to wait for a drain. -/
def drainStall (s : State) : State :=
  if s.tender.stalled then s else (s.updTender fun t => { t with stalled := true }).bump (.tender 5)

/-- TENDER_BLOCK_APPLY: the oldest block, of an entry under the native rule, is checked and applied. -/
def applyFront (s : State) : State :=
  match frontBlock s with
  | none => s
  | some q =>
    match rejectBlock s q with
    | some t => popBlock t
    | none =>
      let e := s.dir q.entry
      if e.compat then s
      else if e.frozen then popBlock (dropBlock s e q)
      else if mustWait s q.entry q.block then drainStall s
      else popBlock (applyNative s q)

def execTenderBlockApply (s : State) : Result := .next (applyFront s)

-- compat layers (R453, R454)

/-- The sums of a block's squares over the tree of R212. -/
def blockSum (vs : List Nat) : Nat := treeFold add32 0 13 vs

/-- R454: the partials of a leaf enter the layer's record; the last of them gives the ratio. -/
def partialCame (s : State) (layer leaf qm qw : Nat) : State :=
  if s.tender.qleaf.any fun r => r.1 = layer && r.2.1 = leaf then s
  else
    let t := s.updTender fun k => { k with qleaf := k.qleaf ++ [(layer, leaf, qm, qw)] }
    let n := (mget (0, 0) s.consist.layers layer).1
    let got (i : Nat) : Option (Nat × Nat) := (t.tender.qleaf.find? fun r => r.1 = layer && r.2.1 = i).map fun r => (r.2.2.1, r.2.2.2)
    if (List.range n).all fun i => (got i).isSome then
      let ls := (List.range n).map fun i => (got i).getD (0, 0)
      let m := treeFold add32 0 17 (ls.map (·.1))
      let w := treeFold add32 0 17 (ls.map (·.2))
      let r := if m % 2 ^ 31 = 0 || w % 2 ^ 31 = 0 then one32
        else fdivRound fmtFP32 (fdecode fmtFP32 (fsqrtRound fmtFP32 (fdecode fmtFP32 w)))
          (fdecode fmtFP32 (fsqrtRound fmtFP32 (fdecode fmtFP32 m)))
      t.updTender fun k => { k with rho := mset none k.rho layer (some r) }
    else t

def execCompatPartialReceive (layer leaf : Half) (qm qw : Word32) (s : State) : Result :=
  .next (if layer.toNat < 4096 then partialCame s layer.toNat leaf.toNat qm.toNat qw.toNat else s)

/-- R453, R454: when every block of an entry has passed pass 1, its leaf's partials go to every member of the layer's group. -/
def sendPartials (s : State) (x : Nat) : State :=
  let e := s.dir x
  let got (b : Nat) : Option (Nat × Nat) := (s.tender.qblk.find? fun r => r.1 = x && r.2.1 = b).map fun r => (r.2.2.1, r.2.2.2)
  if (List.range (entryBlocks e)).all fun b => (got b).isSome then
    let ls := (List.range (entryBlocks e)).map fun b => (got b).getD (0, 0)
    let qm := treeFold add32 0 17 (ls.map (·.1))
    let qw := treeFold add32 0 17 (ls.map (·.2))
    let ranks := groupMembers s (mget (0, 0) s.consist.layers e.layer).2
    ranks.foldl (fun t r =>
      if r = s.consist.rank then partialCame t e.layer e.cleaf qm qw
      else match flowTo t r 1 with
        | some n => sendMessage t n 0 1 (genNow t) e.layer e.cleaf 0 (leBytes 4 qm ++ leBytes 4 qw) false
        | none => t) s
  else s

/-- R453: pass 1 of a compat block. -/
def pass1 (s : State) (q : TBlock) : State :=
  let e := s.dir q.entry
  let h := hyper s e
  let omb := sub32 one32 h.beta
  let t := sysWrite s (blockAddr s.consist.scratch e q.block) (q.vals.flatMap fun v => leBytes 4 v.toNat) false false
  let (ws, ms, t) := readBlock t q.entry q.block
  let inside (k : Nat) : Bool := 4096 * q.block + k < e.len
  let mns := (List.range 4096).map fun k =>
    if inside k then compatMn h omb (q.vals.getD k 0).toNat (widenBf (ms.getD k (0, false)).1) else 0
  let wv := (List.range 4096).map fun k => if inside k then widenBf (ws.getD k (0, false)).1 else 0
  let qm := blockSum (mns.map fun v => mul32 v v)
  let qw := blockSum (wv.map fun v => mul32 v v)
  let t := if mns.any nonFinite32 then t.updTender fun k => { k with nonfin := true } else t
  sendPartials ((blockFlag t e q).updTender fun k => { k with qblk := k.qblk ++ [(q.entry, q.block, qm, qw)] }) q.entry

/-- COMPAT_PASS1: the oldest block, of a compat entry, is checked and passes pass 1; that of a frozen entry is dropped as well. -/
def compatFront (s : State) : State :=
  match frontBlock s with
  | none => s
  | some q =>
    let e := s.dir q.entry
    if !e.compat then s
    else match rejectBlock s q with
      | some t => popBlock t
      | none => popBlock (pass1 (if e.frozen then dropBlock s e q else s) q)

def execCompatPass1 (s : State) : Result := .next (compatFront s)

/-- The blocks that pass 2 of a layer has still to write. -/
def pass2Blocks (s : State) (layer : Nat) : List (Nat × Nat) :=
  (s.tender.dir.filter fun p => owned s p.2 && p.2.compat && p.2.layer = layer && !p.2.frozen).flatMap fun p =>
    ((List.range (entryBlocks p.2)).map fun b => (p.1, b)).filter fun r => !s.tender.record.contains r

/-- R453: pass 2 of one block. -/
def pass2Block (rho : Nat) (s : State) (r : Nat × Nat) : State :=
  let e := s.dir r.1
  let h := hyper s e
  let omb := sub32 one32 h.beta
  let (gs, t) := readPoison s (blockAddr s.consist.scratch e r.2) 16384 false
  let g (k : Nat) : Nat := leNat (((gs.drop (4 * k)).take 4).map (·.1))
  let (ws, ms, t) := readBlock t r.1 r.2
  let t := putBlock t r.1 r.2 ws ms fun k w m =>
    let mn := compatMn h omb (g k) m
    (compatWn h rho w mn, mn)
  (blockDone t r.1 r.2).bump (.tender 0)

/-- COMPAT_PASS2: the Tender writes the layer's blocks, once its ratio is known and no drain must read one of them first. -/
def pass2 (s : State) (layer : Nat) : State :=
  match mget none s.tender.rho layer with
  | none => s
  | some rho =>
    let rs := pass2Blocks s layer
    if s.halted || s.tender.contrib || rs = [] then s
    else if rs.any fun r => mustWait s r.1 r.2 then drainStall s
    else (rs.foldl (pass2Block rho) s).updTender fun t => { t with stalled := false }

def execCompatPass2 (layer : Half) (s : State) : Result := .next (pass2 s layer.toNat)

/-- R454: STATUS.CWAIT: partials of a layer are incomplete. -/
def cwait (s : State) : Bool :=
  s.tender.qblk.any fun r => mget none s.tender.rho (s.dir r.1).layer = none

/-- The blocks for whose drain the Tender waits. -/
def waitedBlocks (s : State) : List (Nat × Nat) :=
  let front := match frontBlock s with
    | some q => [(q.entry, q.block)]
    | none => []
  (front ++ s.tender.rho.flatMap fun p => pass2Blocks s p.1).filter fun r => mustWait s r.1 r.2

/-- DRAIN_STALL_RESUME: the drain reads the blocks that the Tender waits for, and its write proceeds (R41). -/
def drainResume (s : State) : State :=
  if !s.tender.stalled then s
  else
    let t := (waitedBlocks s).foldl (fun t r => drainRead t r.1 r.2) s
    applyFront (t.updTender fun k => { k with stalled := false })

def execDrainStallResume (s : State) : Result := .next (drainResume s)

-- installs (R441, R442, R464)

/-- R464: a finite FP32 value of at least 0. -/
def rateOk (v : Nat) : Bool := !nonFinite32 v && (v < 2 ^ 31 || v = 2 ^ 31)

/-- R464: β: at least 0 and less than 1. -/
def betaOk (v : Nat) : Bool := rateOk v && flt32 v one32

/-- R441: the checks of one entry of a table. -/
def entryOk (b : List Byte) : Bool :=
  let e := entryOf b
  let f (o n : Nat) : Nat := leNat ((b.drop o).take n)
  f 6 2 = 0 && f 0xE 2 = 0 && f 0x18 1 < 64 && f 0x19 1 < 128 && f 0x1A 2 < 4096 && f 0x1E 2 = 0 && f 0x3C 4 = 0
    && e.offset % 16384 = 0 && e.pbase % 4096 = 0 && (!e.valid || (1 ≤ e.len && e.len ≤ 268435456)) && !(e.compat && !e.sum)
    && (!e.own || (rateOk e.lr && betaOk e.beta && rateOk e.lambda))

/-- Whether two extents overlap in the buffers. -/
def overlap (a b : DirEntry) : Bool :=
  a.valid && b.valid && a.shard = b.shard
    && a.offset < b.offset + 16384 * entryBlocks b && b.offset < a.offset + 16384 * entryBlocks a

/-- The directory after installs. -/
def dirAfter (dir : SMap DirEntry) (i : Install) : SMap DirEntry :=
  (i.entries.zipIdx).foldl (fun d p => mset {} d (i.first + p.2) p.1) dir

/-- Whether no two extents of a directory overlap. -/
def disjoint (dir : SMap DirEntry) : Bool :=
  dir.all fun a => dir.all fun b => a.1 = b.1 || !overlap a.2 b.2

/-- R441: a Tender-install command: the entries that it installs, or none when a check fails. -/
def installOf (s : State) (table first count : Nat) : Option Install × State :=
  let ((bs, p), t) := sysRead s table (64 * count) false
  let es := (List.range count).map fun i => (bs.drop (64 * i)).take 64
  let inst : Install := ⟨first, es.map entryOf⟩
  let dir := dirAfter (s.tender.installs.foldl dirAfter s.tender.dir) inst
  (if !p && (es.all entryOk) && disjoint dir then some inst else none, t)

/-- R442: an install replaces its entries; the frozen extents among them are to be copied into the inactive buffer. -/
def installApply (s : State) (i : Install) : State :=
  let frozen := ((i.entries.zipIdx).filter fun p => p.1.valid && p.1.frozen && p.1.shard = s.consist.rank).map fun p => i.first + p.2
  s.updTender fun t => { t with dir := dirAfter t.dir i, copies := (t.copies.filter fun x => !frozen.contains x) ++ frozen }

/-- Accepted installs take effect; a drain in progress reads out its blocks under the old directory first. -/
def installsApply (s : State) : State :=
  let s := if s.tender.installs = [] then s else s.way.saves.foldl (fun t e => saveReadAll t e.1) s
  (s.tender.installs.foldl installApply s).updTender fun t => { t with installs := [] }

/-- R442: the blocks of a frozen extent are copied from the active to the inactive buffer. -/
def copyExtent (s : State) (x : Nat) : State :=
  (List.range (entryBlocks (s.dir x))).foldl (fun t b =>
    let (bs, t) := readPoison t (blockAddr (activeBase t) (t.dir x) b) 16384 false
    writePoison t (blockAddr (idleBase t) (t.dir x) b) bs false false) s

/-- TENDER_INSTALL_APPLY: at a quiescent point accepted installs apply; then the frozen extents are copied, each once no drain has to
read its blocks first (R41, R442). -/
def tenderInstallApply (s : State) : State :=
  let s := if s.quiescent then installsApply s else s
  let wait := s.tender.copies.any fun x => (List.range (entryBlocks (s.dir x))).any fun b => mustWait s x b
  if wait then drainStall s
  else (s.tender.copies.foldl copyExtent s).updTender fun t => { t with copies := [], stalled := false }

def execTenderInstallApply (s : State) : Result := .next (tenderInstallApply s)

end Sys2Proof.Machine
end

