-- ==== Sys2Proof/Machine/Collectives.lean ====
section
/-! DEFINITION. Collective queues and the reduction tree (R400 to R407), with the meanings of their commands. -/

namespace Sys2Proof.Machine

-- descriptors (R401)

def cOp (d : List Byte) : Nat := dfield d 0 1
def cType (d : List Byte) : Nat := dfield d 1 1
def cGroup (d : List Byte) : Nat := dfield d 2 2
def cGen (d : List Byte) : Nat := dfield d 4 2
def cFlag (d : List Byte) (i : Nat) : Bool := bit (dfield d 6 1) i
def cTender (d : List Byte) : Bool := cFlag d 2
def cAlloc (d : List Byte) : Bool := cFlag d 3
def cSrc (d : List Byte) : Nat := dfield d 8 8
def cDst (d : List Byte) : Nat := dfield d 0x10 8
def cScales (d : List Byte) : Nat := dfield d 0x18 8
def cCount (d : List Byte) : Nat := dfield d 0x20 8
def cTag (d : List Byte) : Nat := dfield d 0x28 4

def queueFin (q : Nat) : QueueNo := ⟨q % 16, Nat.mod_lt _ (by decide)⟩

/-- R401, R328: a write of TAIL. -/
def collTail (s : State) (q : Nat) (v : BitVec 32) : State :=
  let k := s.coll q
  if v = k.tail then s
  else if k.qsize = 0 || !reached v k.tail || 2 ^ k.qsize < (v - k.head).toNat then s.bump (.collective (queueFin q))
  else s.updColl q fun k => { k with tail := v }

/-- R401, R328: a write of QBASE, or of QSIZE. -/
def collConfig (s : State) (q : Nat) (size : Bool) (v : Nat) : State :=
  let k := s.coll q
  let busy := k.head != k.tail
  if size then
    let n := v % 256
    if n != 0 && (n < 4 || 10 < n) then s.bump (.collective (queueFin q))
    else if busy then s
    else s.updColl q fun k => { k with qsize := n }
  else if busy then s
  else s.updColl q fun k => { k with qbase := v / 64 * 64 }

-- element types and chunks (R402)

/-- Bits of an element of a contribution. -/
def srcBits (ty : Nat) : Nat := if ty = 0 then 32 else if ty = 1 then 16 else if ty = 2 then 8 else if ty = 3 then 1 else if ty = 4 then 32 else 64

/-- Bytes of an element of a sum. -/
def sumBytes (ty : Nat) : Nat := if ty ≤ 2 then 4 else if ty = 3 then 2 else if ty = 4 then 4 else 8

/-- The first element of chunk c. -/
def chunkLo (count g c : Nat) : Nat := c * count / g

/-- R402: one addition of a sum. -/
def sumAdd (ty a b : Nat) : Nat := if ty ≤ 2 then add32 a b else (a + b) % 2 ^ (8 * sumBytes ty)

/-- R213: an element of a contribution as a sum's element: FP32, ±1 as INT16, or the integer. -/
def widenElem (ty v scale : Nat) : Nat :=
  if ty = 1 then widen32 fmtBF16 v
  else if ty = 2 then
    (if scale = 255 then nanBits fmtFP32 else fround fmtFP32 false (fscale (fdecode fmtE5M2 v) ((scale : Int) - 127)))
  else if ty = 3 then (if v = 1 then 1 else 0xFFFF)
  else v

/-- The members of a descriptor's group, and this module's leaf. -/
def collMembers (s : State) (d : List Byte) : List Nat := groupMembers s (cGroup d)
def collMe (s : State) (d : List Byte) : Nat := (collMembers s d).idxOf s.consist.rank

/-- Bytes of the scales that elements lo to hi − 1 use. -/
def scaleBytes (lo hi : Nat) : Nat := if lo = hi then 0 else (hi + 31) / 32 - lo / 32

/-- R402, R403: bytes of a leaf's message for elements lo to hi − 1, and of a sum's. -/
def leafBytes (ty lo hi : Nat) : Nat :=
  (srcBits ty * (hi - lo) + 7) / 8 + if ty = 2 then scaleBytes lo hi else 0

/-- The bytes of a message of a kind: 1 a leaf, 2 to 16 a node, 17 a result. -/
def messageBytes (s : State) (d : List Byte) (kind i : Nat) : Nat :=
  let g := (collMembers s d).length
  let ty := cType d
  let n := cCount d
  if cOp d = 3 then srcBits ty * n / 8
  else if cOp d = 4 then srcBits ty * (n / max g 1) / 8
  else
    let lo := chunkLo n g i
    let hi := chunkLo n g (i + 1)
    if kind = 1 then leafBytes ty lo hi else (hi - lo) * sumBytes ty

/-- The elements of a message as a sum's elements, with their poison. -/
def messageElems (s : State) (d : List Byte) (kind chunk : Nat) (bs : List (Byte × Bool)) : List (Nat × Bool) :=
  let g := (collMembers s d).length
  let ty := cType d
  let lo := chunkLo (cCount d) g chunk
  let n := chunkLo (cCount d) g (chunk + 1) - lo
  let at1 (i : Nat) : Byte × Bool := bs.getD i (0, false)
  let num (off w : Nat) : Nat × Bool :=
    (leNat ((List.range w).map fun j => (at1 (off + j)).1), (List.range w).any fun j => (at1 (off + j)).2)
  (List.range n).map fun k =>
    if kind != 1 then num (k * sumBytes ty) (sumBytes ty)
    else if ty = 3 then
      let b := at1 (k / 8)
      (widenElem 3 (bits b.1.toNat (k % 8) 1) 0, b.2)
    else if ty = 2 then
      let b := at1 k
      let x := at1 (n + (lo + k) / 32 - lo / 32)
      (widenElem 2 b.1.toNat x.1.toNat, b.2 || x.2)
    else
      let v := num (k * (srcBits ty / 8)) (srcBits ty / 8)
      (widenElem ty v.1 0, v.2)

/-- The bytes of a sum's elements. -/
def sumMessage (ty : Nat) (es : List (Nat × Bool)) : List (Byte × Bool) :=
  es.flatMap fun e => (leBytes (sumBytes ty) e.1).map fun b => (b, e.2)

/-- R402: this member's contribution to chunk c, as a message. -/
def leafMessage (s : State) (d : List Byte) (c : Nat) : List (Byte × Bool) × State :=
  let g := (collMembers s d).length
  let ty := cType d
  let lo := chunkLo (cCount d) g c
  let hi := chunkLo (cCount d) g (c + 1)
  if ty = 3 then
    let first := lo / 8
    let (bs, t) := readPoison s (cSrc d + first) ((hi + 7) / 8 - first) (cAlloc d)
    let one (k : Nat) : Nat × Bool :=
      let b := bs.getD ((lo + k) / 8 - first) (0, false)
      (bits b.1.toNat ((lo + k) % 8) 1, b.2)
    ((List.range ((hi - lo + 7) / 8)).map fun j =>
      let ks := (List.range 8).map fun i => if 8 * j + i < hi - lo then one (8 * j + i) else (0, false)
      (BitVec.ofNat 8 (packElems 1 (ks.map (·.1))), ks.any (·.2)), t)
  else
    let w := srcBits ty / 8
    let (bs, t) := readPoison s (cSrc d + lo * w) ((hi - lo) * w) (cAlloc d)
    if ty = 2 then
      let (xs, t) := readPoison t (cScales d + lo / 32) (scaleBytes lo hi) (cAlloc d)
      (bs ++ xs, t)
    else (bs, t)

-- checks (R401, R402, R404, R443, R444)

/-- R444: whether a Tender collective covers whole blocks of its entry in its entry's mode. -/
def tenderFits (s : State) (d : List Byte) (g : Nat) : Bool :=
  let e := s.dir (cTag d % 65536)
  let b0 := cTag d / 65536
  cCount d % (4096 * g) = 0 && 4096 * b0 + cCount d ≤ 4096 * entryBlocks e
    && (if e.sum then cType d ≤ 2 else cType d = 3)

/-- The first failing check of a collective descriptor, by CODE. -/
def checkColl (s : State) (d : List Byte) : Option Nat :=
  let op := cOp d
  let ty := cType d
  let g := (collMembers s d).length
  let n := cCount d
  let me := collMe s d
  let src := (srcBits ty * n + 7) / 8
  let dst := if op = 1 then n * sumBytes ty
    else if op = 2 then (chunkLo n g (me + 1) - chunkLo n g me) * sumBytes ty
    else if op = 3 then g * (srcBits ty * n / 8) else srcBits ty * n / 8
  if op = 0 || 4 < op || 5 < ty || dfield d 6 1 / 16 != 0 || dfield d 7 1 != 0 || dfield d 0x30 14 != 0 || dfield d 0x2E 2 / 512 != 0
      || (cFlag d 1 && 4096 ≤ dfield d 0x2C 2) || (cTender d && op != 1) || 256 ≤ cGroup d then some 1
  else if g < 2 || g ≤ me then some 11
  else if (ty = 3 && op ≤ 2 && 32767 < g) || (op = 4 && n % g != 0) || (op = 3 && srcBits ty * n % 8 != 0)
      || (op = 4 && srcBits ty * (n / g) % 8 != 0) || (cTender d && !tenderFits s d g)
      || (namesVote d && !voteGroupOk (collMembers s d)) then some 3
  else if !inRange 0 (cSrc d) src || (ty = 2 && op ≤ 2 && !inRange 0 (cScales d) ((n + 31) / 32))
      || (!cTender d && !inDest 0 (cDst d) dst) then some 4
  else none

-- the tree (R403, R212)

/-- R212: the nodes of a level of the tree over g leaves. -/
def levelNodes (g l : Nat) : Nat := (g + 2 ^ l - 1) / 2 ^ l

/-- R212: the levels above the leaves. -/
def treeLevels (g : Nat) : Nat := ((List.range 16).find? fun l => levelNodes g l ≤ 1).getD 15

/-- R403: the member that computes node i at level l of chunk c. -/
def nodeMember (g c l i : Nat) : Nat :=
  let m := 2 ^ l * i + c % 2 ^ l
  if m < g then m else min (2 ^ l * (i + 1)) g - 1

-- messages

/-- Adds bytes to a message of the collective in progress on a queue. -/
def storeMessage (s : State) (q chunk kind i : Nat) (bs : List (Byte × Bool)) : State :=
  s.updColl q fun k => { k with cur := k.cur.map fun c =>
    let old := (c.nodes.find? fun e => e.1 = chunk && e.2.1 = kind && e.2.2.1 = i).elim [] fun e => e.2.2.2
    { c with nodes := (c.nodes.filter fun e => !(e.1 = chunk && e.2.1 = kind && e.2.2.1 = i)) ++ [(chunk, kind, i, old ++ bs)] } }

/-- A message that has come whole. -/
def getMessage (s : State) (d : List Byte) (c : CollCur) (chunk kind i : Nat) : Option (List (Byte × Bool)) :=
  match c.nodes.find? fun e => e.1 = chunk && e.2.1 = kind && e.2.2.1 = i with
  | some e =>
    let n := messageBytes s d kind chunk
    if n ≤ e.2.2.2.length then some (e.2.2.2.take n) else none
  | none => none

/-- Sends a message to a member; to this one it is stored. -/
def sendNode (s : State) (q : Nat) (d : List Byte) (who chunk kind i : Nat) (bs : List (Byte × Bool)) : State :=
  if who = collMe s d then storeMessage s q chunk kind i bs
  else
    match flowTo s ((collMembers s d).getD who 0) 2 with
    | none => s
    | some n =>
      let k := max ((bs.length + 4095) / 4096) 1
      (List.range k).foldl (fun t j =>
        let part := (bs.drop (4096 * j)).take 4096
        enqueueFrame t ⟨flowHdr t n 0 2 (cGen d) (cTag d) chunk (kind * 2 ^ 56 + i * 2 ^ 40 + 4096 * j) (j + 1 = k),
          if part = [] then [(0, false)] else poisonWords part⟩) s

-- results (R404, R405, R443)

/-- R405, R443: the reduced blocks of a chunk go to this member's Tender while its queue has room. -/
def toTender (s : State) (q : Nat) (d : List Byte) (chunk : Nat) (bs : List (Byte × Bool)) : State :=
  let g := (collMembers s d).length
  let lo := chunkLo (cCount d) g chunk / 4096
  let hi := chunkLo (cCount d) g (chunk + 1) / 4096
  let es := messageElems s d 17 chunk bs
  (List.range (hi - lo)).foldl (fun t j =>
    match (t.coll q).cur with
    | some c =>
      if c.done.contains (lo + j) || 1024 ≤ t.tender.queue.length then t
      else
        let vals := ((es.drop (4096 * j)).take 4096).map fun e => BitVec.ofNat 32 e.1
        (tenderArrive t ⟨cTag d % 65536, cTag d / 65536 + lo + j, cGen d, g, vals⟩).updColl q fun k =>
          { k with cur := k.cur.map fun c => { c with done := (lo + j) :: c.done } }
    | none => t) s

/-- A result that has come whole is written at its destination, or goes to the Tender. -/
def deliver (s : State) (q : Nat) (d : List Byte) (i : Nat) (bs : List (Byte × Bool)) : State :=
  let g := (collMembers s d).length
  match (s.coll q).cur with
  | none => s
  | some c =>
    if cTender d then toTender s q d i bs
    else if c.done.contains i then s
    else
      let off := if cOp d = 1 then chunkLo (cCount d) g i * sumBytes (cType d)
        else if cOp d = 2 then 0
        else i * messageBytes s d 17 i
      (writePoison s (cDst d + off) bs (cAlloc d) false).updColl q fun k => { k with cur := k.cur.map fun c =>
        { c with done := i :: c.done, poison := c.poison || bs.any (·.2) } }

/-- Every result that has come whole is delivered. -/
def deliverAll (s : State) (q : Nat) : State :=
  match (s.coll q).cur with
  | none => s
  | some c => c.nodes.foldl (fun t e =>
      if e.2.1 = 17 then
        match getMessage s c.desc c e.1 17 e.2.2.1 with
        | some bs => deliver t q c.desc e.1 bs
        | none => t
      else t) s

/-- R404, R405: the root of chunk c has its result. -/
def rootDone (s : State) (q : Nat) (d : List Byte) (chunk : Nat) (es : List (Nat × Bool)) : State :=
  let bs := sumMessage (cType d) es
  let t := storeMessage s q chunk 17 0 bs
  let t := if cTender d && cType d ≤ 2 && es.any fun e => nonFinite32 e.1 then t.updTender fun k => { k with nonfin := true } else t
  let t := deliver t q d chunk bs
  if cOp d = 1 then
    (List.range (collMembers s d).length).foldl (fun t m => if m = collMe s d then t else sendNode t q d m chunk 17 0 bs) t
  else t

/-- R403: a node of this member combines its children, and its value goes to its parent, or is the chunk's result. -/
def reduceNode (s : State) (q chunk level i : Nat) : State :=
  match (s.coll q).cur with
  | none => s
  | some c =>
    let d := c.desc
    let g := (collMembers s d).length
    let up := treeLevels g
    if !c.ran || c.code != 0 || 2 < cOp d || level = 0 || up < level || levelNodes g level ≤ i || g ≤ chunk
        || nodeMember g chunk level i != collMe s d || (c.nodes.any fun e => e.1 = chunk && e.2.1 = level + 1 && e.2.2.1 = i) then s
    else
      let child (j : Nat) : Option (List (Nat × Bool)) :=
        (getMessage s d c chunk level j).map (messageElems s d level chunk)
      let two : Bool := 2 * i + 1 < levelNodes g (level - 1)
      let value := match child (2 * i), two, child (2 * i + 1) with
        | some a, true, some b => some ((a.zip b).map fun p => (sumAdd (cType d) p.1.1 p.2.1, p.1.2 || p.2.2))
        | some a, false, _ => some a
        | _, _, _ => none
      match value with
      | none => s
      | some es =>
        let bs := sumMessage (cType d) es
        let t := storeMessage s q chunk (level + 1) i bs
        if level = up then rootDone t q d chunk es
        else
          let who := nodeMember g chunk (level + 1) (i / 2)
          if who = collMe s d then t else sendNode t q d who chunk (level + 1) i bs

def execReductionNode (q : QueueNo) (chunk : Half) (level : Fin 16) (i : Half) (s : State) : Result :=
  .next (reduceNode s q chunk.toNat level i.toNat)

-- receiving (R402, R403, R406)

/-- The payload of a frame as bytes with their poison. -/
def payloadBytes (f : Frame) : List (Byte × Bool) := f.payload.flatMap fun w => (leBytes 32 w.1.toNat).map fun b => (b, w.2)

/-- A frame of a collective in progress on a queue. -/
def collFrame (s : State) (q : Nat) (c : CollCur) (f : Frame) : State :=
  let d := c.desc
  if f.hdr.gen.toNat != cGen d then
    let t := (s.updColl q fun k => { k with cur := k.cur.map fun c => { c with bad := true } }).bump (.mixedFrames (queueFin q))
    t.raise 0x0051 f.hdr.tag.toNat f.hdr.gen.toNat
  else
    let kind := frameKind f
    let chunk := f.hdr.leaf.toNat
    let i := bits f.hdr.offset.toNat 40 16
    let t := storeMessage s q chunk kind i (payloadBytes f)
    let have1 := ((t.coll q).cur.bind fun c => c.nodes.find? fun e => e.1 = chunk && e.2.1 = kind && e.2.2.1 = i).elim 0 fun e => e.2.2.2.length
    let want := messageBytes s d kind chunk
    let wrong : Bool := (f.hdr.flags.getLsbD 2 && have1 < want) || want + 32 ≤ have1 && !(want = 0 && have1 = 32)
    let t := t.updColl q fun k => { k with cur := k.cur.map fun c =>
      { c with good := true, code := if wrong && c.code = 0 then 12 else c.code } }
    deliverAll t q

/-- A collective's data frame reaches the queue that runs its TAG, or waits for it. -/
def collReceive (s : State) (f : Frame) : State :=
  match (List.range 16).find? fun q => (s.coll q).cur.any fun c => cTag c.desc = f.hdr.tag.toNat with
  | some q => match (s.coll q).cur with
    | some c => collFrame s q c f
    | none => s
  | none => { s with early := s.early ++ [f] }

-- running a queue (R401, R404)

/-- A queue takes up a descriptor, with the CODE of a failed check; frames that came before it are received now. -/
def collBegin (s : State) (q : Nat) (d : List Byte) (ring : Option (Nat × Nat)) (bad : Bool) : State :=
  let code := if bad then 1 else (checkColl s d).getD 0
  let t := s.updColl q fun k => { k with cur := some ⟨d, ring, [], [], false, false, false, code, false⟩ }
  let mine (f : Frame) : Bool := f.hdr.tag.toNat = cTag d
  let t := { t with early := t.early.filter fun f => !mine f }
  (s.early.filter mine).foldl collReceive t

/-- The next descriptor in queue order is taken up when none is in progress. -/
def collLoad (s : State) (q : Nat) : State :=
  let k := s.coll q
  if k.stopped || k.cur.isSome || s.halted then s
  else
    let fromMem (s : State) : State :=
      let ((d, p), t) := sysRead s (k.qbase + 64 * (k.head.toNat % 2 ^ k.qsize)) 64 false
      if (t.coll q).stopped then t else collBegin t q d none p
    match k.extra with
    | (at0, r, idx, d) :: rest =>
      if reached k.head at0 then collBegin (s.updColl q fun k => { k with extra := rest }) q d (some (r, idx)) false
      else if k.qsize = 0 then s else fromMem s
    | [] => if k.head = k.tail || k.qsize = 0 then s else fromMem s

def execCollectiveTailWrite (q : QueueNo) (v : Word32) (s : State) : Result := .next (collLoad (collTail s q v) q)

/-- R402, R404: this member sends its contributions to the first nodes of every chunk. -/
def sendLeaves (s : State) (q : Nat) (d : List Byte) : State :=
  let g := (collMembers s d).length
  let me := collMe s d
  (List.range g).foldl (fun t c =>
    let (bs, t) := leafMessage t d c
    sendNode t q d (nodeMember g c 1 (me / 2)) c 1 me bs) s

/-- R404: this member sends bytes of SRC to every member: all of them, or the member's slice. -/
def sendSlices (s : State) (q : Nat) (d : List Byte) : State :=
  let n := messageBytes s d 17 0
  let me := collMe s d
  let t := (List.range (collMembers s d).length).foldl (fun t m =>
    let (bs, t) := readPoison t (cSrc d + if cOp d = 4 then m * n else 0) n (cAlloc d)
    sendNode t q d m me 17 0 bs) s
  deliverAll t q

/-- A collective of an operation begins on a queue. -/
def collRun (s : State) (q op : Nat) : State :=
  let s := collLoad s q
  match (s.coll q).cur with
  | some c =>
    if cOp c.desc = op && !c.ran && c.code = 0 then
      let t := s.updColl q fun k => { k with cur := k.cur.map fun c => { c with ran := true } }
      if op ≤ 2 then sendLeaves t q c.desc else sendSlices t q c.desc
    else s
  | none => s

def execAllReduce (q : QueueNo) (s : State) : Result := .next (collRun s q 1)
def execReduceScatter (q : QueueNo) (s : State) : Result := .next (collRun s q 2)
def execAllGather (q : QueueNo) (s : State) : Result := .next (collRun s q 3)
def execAllToAll (q : QueueNo) (s : State) : Result := .next (collRun s q 4)

-- completion (R407, R334)

/-- R403: whether every node of this member is computed. -/
def nodesDone (s : State) (d : List Byte) (c : CollCur) : Bool :=
  let g := (collMembers s d).length
  2 < cOp d || (List.range (treeLevels g)).all fun l => (List.range (levelNodes g (l + 1))).all fun i =>
    (List.range g).all fun ch => nodeMember g ch (l + 1) i != collMe s d
      || c.nodes.any fun e => e.1 = ch && e.2.1 = l + 2 && e.2.2.1 = i

/-- R404, R407: whether everything due to this member is delivered. -/
def collDelivered (s : State) (d : List Byte) (c : CollCur) : Bool :=
  if cTender d then (List.range (cCount d / 4096)).all fun b => c.done.contains b
  else if cOp d = 2 then c.done.contains (collMe s d)
  else (List.range (collMembers s d).length).all fun i => c.done.contains i

/-- R401, R329, R334: a collective completes with a CODE.  The DETAIL of its cause 0x26 is 32 + the queue number: R88 gives only a mover's
(DESIGN CHOICE, row 74). -/
def collDone (s : State) (q : Nat) (c : CollCur) (code : Nat) : State :=
  let st := statusWord code c.poison
  let k := s.coll q
  let s := match c.ring with
    | none =>
      (sysPut s (k.qbase + 64 * (k.head.toNat % 2 ^ k.qsize) + 0x3E) 2 st).updColl q fun k => { k with head := k.head + 1 }
    | some _ => s
  let s := s.updColl q fun k => { k with cur := none, stopped := k.stopped || code != 0 }
  let s := if code != 0 then s.bump (.collective (queueFin q)) else s
  let d := c.desc
  let s := if cFlag d 1 && dfield d 0x2C 2 < 4096 then s.semAdd (dfield d 0x2C 2) 1 else s
  let s := if cFlag d 0 then s.notify (dfield d 0x2E 2) 6 (32 + q) else s
  match c.ring with
  | none => s
  | some (r, idx) => ringDone s r (BitVec.ofNat 32 idx) 0 st

/-- COLLECTIVE_COMPLETE. -/
def collComplete (s : State) (q : Nat) : State :=
  let s := deliverAll (collLoad s q) q
  match (s.coll q).cur with
  | none => s
  | some c =>
    if c.code != 0 then collDone s q c c.code
    else if c.bad && !c.good then collDone s q c 10
    else if c.ran && collDelivered s c.desc c && nodesDone s c.desc c && !tagOpen s (cTag c.desc) 1 17 then collDone s q c 0
    else s

def execCollectiveComplete (q : QueueNo) (s : State) : Result := .next (collComplete s q)

end Sys2Proof.Machine
end

