-- ==== Sys2Proof/Machine/Power.lean ====
section
/-! DEFINITION. Pace (R47 to R54), the slew governor (R555 to R562), coolant (R563 to R566), and the trips and environment faults
of R554, R566, R567 and R568, with the meanings of their commands. -/

namespace Sys2Proof.Machine

-- positions (R13, R14, R28)

/-- The position (row × 10 + column) of a logical coach. -/
def posOf (s : State) (c : Nat) : Nat := s.sys.posMap.idxOf (BitVec.ofNat 8 c)

/-- R13: whether a position is in the west half. -/
def westPos (p : Nat) : Bool := p % 10 < 5

/-- The logical coaches of a half. -/
def coachesOf (s : State) (west : Bool) : List Nat :=
  (List.range 96).filter fun c => posOf s c < 100 && westPos (posOf s c) = west

-- the pace meter (R51, R52)

/-- R51: beats completed in the last whole microsecond. -/
def rateNow (s : State) (c : Nat) : Nat :=
  let k := s.coach c
  let us := s.time.ns / 1000
  if us = k.us then k.rate else if us = k.us + 1 then min k.usBeats 0xFFFF else 0

/-- R52: minimum, mean and maximum rate count of a half. -/
def halfRates (s : State) (west : Bool) : List Nat :=
  let rs := (coachesOf s west).map (rateNow s)
  match rs with
  | [] => [0, 0, 0]
  | r :: rest => [rest.foldl min r, rs.foldl (· + ·) 0 / rs.length, rest.foldl max r]

/-- PACE_METER_SAMPLE: Thonar samples every pace meter (R52). -/
def execPaceMeterSample (s : State) : Result :=
  .next (s.updPower fun p => { p with paceRep := halfRates s true ++ halfRates s false ++ [s.time.ns] })

-- rails (R47 to R50, R53, R54)

/-- R47: core and SRAM rail of a basic pace point. -/
def paceRails (pace : Nat) : Nat × Nat :=
  if pace = 0 then (620, 700) else if pace = 1 then (700, 750) else (760, 810)

/-- A voltage moved by a signed offset. -/
def addMv (v : Nat) (d : Int) : Nat := ((v : Int) + d).toNat

/-- R47, R50, R597: the rails that the consist asks for: core and SRAM west, core and SRAM east. -/
def consistRails (s : State) : Nat × Nat × Nat × Nat :=
  let c := s.consist
  if s.expert 0 then (c.rails.getD 0 700, c.rails.getD 1 750, c.rails.getD 2 700, c.rails.getD 3 750)
  else
    let (core, sram) := paceRails c.pace
    (addMv core s.power.trimW, sram, addMv core s.power.trimE, sram)

/-- R53: a pace command's target for a half, clamped, with the SRAM rail that goes with it.  Where the floor lies above the consist's core
rail the two clamps conflict and the spec names no winner: the consist's core rail wins (DESIGN CHOICE, row 74). -/
def clampPace (core floor target : Nat) : Nat × Nat :=
  let v := min core (max floor target)
  (v, max (v + 50) 700)

/-- R49, R54: a rail held at or below a reduction. -/
def capped (v : Nat) (cap : Option Nat) : Nat := match cap with
  | some m => min v m
  | none => v

/-- R48 to R54: the rails that are requested now: the lowest core rail of consist, pace command and reduction. -/
def wantedRails (s : State) : Nat × Nat × Nat × Nat :=
  let (cw, sw, ce, se) := consistRails s
  let (cw, sw, ce, se) :=
    match s.power.paceCmd, s.consist.floorMv with
    | some (w, e), some f =>
      if s.expert 0 then
        let a := clampPace cw f w
        let b := clampPace ce f e
        (a.1, a.2, b.1, b.2)
      else (cw, sw, ce, se)
    | _, _ => (cw, sw, ce, se)
  (capped cw s.power.capW, sw, capped ce s.power.capE, se)

/-- R48: Thonar takes the requested rails as its targets; a change of pace is in progress until both rails of both halves are near them. -/
def retarget (s : State) : State :=
  let (cw, sw, ce, se) := wantedRails s
  s.updPower fun p =>
    if p.tCoreW = cw && p.tSramW = sw && p.tCoreE = ce && p.tSramE = se then p
    else { p with tCoreW := cw, tSramW := sw, tCoreE := ce, tSramE := se, changing := true }

/-- R49: at a quiescent point the requested pace returns once the limiting condition has cleared. -/
def restorePace (s : State) : State :=
  retarget (if s.power.tdp || s.power.hot then s else s.updPower fun p => { p with capW := none, capE := none })

/-- One move of a rail of at most 5 mV towards its target. -/
def moveRail (v t : Nat) : Nat := if v < t then min t (v + 5) else max t (v - 5)

/-- PACE_CHANGE: at a quiescent point the targets follow the request; the rails move towards their targets wherever they are apart (R48). -/
def execPaceChange (s : State) : Result :=
  .next (
    (if s.quiescent then restorePace s else s).updPower fun p => { p with
      coreW := moveRail p.coreW p.tCoreW, sramW := moveRail p.sramW p.tSramW
      coreE := moveRail p.coreE p.tCoreE, sramE := moveRail p.sramE p.tSramE })

/-- Within 5 mV. -/
def near5 (a b : Nat) : Bool := a ≤ b + 5 && b ≤ a + 5

/-- PACE_CHANGE_COMPLETE: both rails of both halves are within 5 mV of target (R48).  The rails stay where they are: further moves towards
the targets are PACE_CHANGE's. -/
def execPaceChangeComplete (s : State) : Result :=
  .next (
    let p := s.power
    if p.changing && near5 p.coreW p.tCoreW && near5 p.sramW p.tSramW && near5 p.coreE p.tCoreE && near5 p.sramE p.tSramE then
      s.updPower fun p => { p with changing := false }
    else s)

/-- R49, R552: a core rail goes down by 5 mV, and the half is held there. -/
def lowerHalf (s : State) (west : Bool) : State :=
  s.updPower fun p =>
    if west then
      let v := max 550 (p.coreW - 5)
      { p with coreW := v, tCoreW := min p.tCoreW v, capW := some v }
    else
      let v := max 550 (p.coreE - 5)
      { p with coreE := v, tCoreE := min p.tCoreE v, capE := some v }

/-- TDP_LIMIT: the draw of the last 1 ms and the junction temperatures, in 0.125 °C, at one 100 µs step of R49.  R49 does not say which half
is lowered when both are equally hot: the west half is (DESIGN CHOICE, row 74). -/
def execTdpLimit (draw : Half) (tjW tjE : BitVec 16) (s : State) : Result :=
  .next (
    let d := draw.toNat
    let tdp := if 2200 < d then true else if d < 2150 then false else s.power.tdp
    let hot : Bool := 840 < tjW.toInt && 840 < tjE.toInt
    let w := hot || (tdp && tjE.toInt ≤ tjW.toInt)
    let e := hot || (tdp && tjW.toInt < tjE.toInt)
    let t := s.updPower fun p => { p with tdp := tdp, hot := hot }
    if !w && !e then t
    else
      let t := if w then lowerHalf t true else t
      let t := if e then lowerHalf t false else t
      let t' := t.updPower fun p => { p with limited := true, limEv := true }
      if s.power.limEv then t'
      else t'.raise 0x0013 (b2n w + 2 * b2n e) (min t.power.coreW t.power.coreE))

-- the governor (R555 to R561)

/-- R557: the step mean: the mean draw of the last 16 committed steps. -/
def stepMean (p : Power) : Nat := p.means.foldl (· + ·) 0 / max p.means.length 1

/-- R557, R559: the floor that the fraction rule gives. -/
def fractionFloor (s : State) : Nat :=
  stepMean s.power * (if s.expert 9 then s.consist.floorFrac else 56) / 64

/-- R561: the floor in force. -/
def floorNow (s : State) : Nat :=
  if s.power.rampEn && s.power.rampOn then min s.power.rampLevel 2150 else fractionFloor s

/-- R557, R559: the slew rate in W/ms: the preset's, or the consist's own with the power-governor expert flag set. -/
def slewRate (s : State) : Nat :=
  if s.expert 9 then s.consist.slew else if s.consist.slewPreset = 0 then 5 else if s.consist.slewPreset = 1 then 20 else 100

/-- R558: the post-rise draw of a rise that recurs in all of the last 4 committed steps, at an offset of 0.1 ms from step start. -/
def recurs (past : List (List (Nat × Nat))) (o : Nat) : Bool :=
  past.length = 4 && past.all fun st => st.any fun r => r.1 ≤ o + 20 && o ≤ r.1 + 20

/-- R558: the draw for which t must already rise at offset `now`, given the present target in tenths of a watt. -/
def anticipate (s : State) (now t : Nat) : Nat :=
  match s.power.past with
  | last :: _ =>
    last.foldl (fun g r =>
      if now < r.1 && recurs s.power.past r.1 && t + slewRate s * (r.1 - now) ≤ 10 * r.2 + slewRate s then max g r.2 else g) 0
  | [] => 0

/-- R558: the record of rises of the step after a draw d at offset `now`. -/
def noteRise (p : Power) (now d : Nat) : List (Nat × Nat) :=
  let low := p.recent.foldl min d
  if low + 100 < d then
    match p.rises with
    | (o, w) :: rest => if now ≤ o + 10 then (o, max w d) :: rest else (now, d) :: p.rises
    | [] => [(now, d)]
  else p.rises

/-- R555: the governor's target after one step, in tenths of a watt. -/
def nextTarget (t g rate : Nat) : Nat :=
  min 21500 (if t < 10 * g then min (10 * g) (t + rate) else max (10 * g) (t - rate))

/-- GOVERNOR_TICK: one update of the target; d is the measured draw of the last 100 µs without filler (R555, R556, R558).
Whether a floor above d can be reached is a free value (R556). -/
def execGovernorTick (draw : Half) (s : State) : Result :=
  .next (
    let d := draw.toNat
    let f := floorNow s
    let p := s.power
    let now := p.cnt
    let g := max (max d f) (anticipate s now p.target)
    let t := nextTarget p.target g (slewRate s)
    let filling : Bool := 10 * d < t
    let (v, u) := if filling then s.free else (0, s)
    let actual := if filling then t / 10 else min d (t / 10)
    u.updPower fun p => { p with
      target := t
      throttle := t < 10 * d
      fill := filling
      short := p.short || (filling && d < f && v % 2 = 1)
      rises := noteRise p now d
      recent := (d :: p.recent).take 10
      sum := p.sum + actual
      cnt := p.cnt + 1
      acts := (actual :: p.acts).take 10
      draw := (actual + (p.acts.take 9).foldl (· + ·) 0) / (1 + min p.acts.length 9) })

/-- R557, R558: the governor's records at a step's end. -/
def powerStepEnd (s : State) (committed : Bool) : State :=
  s.updPower fun p =>
    let q := { p with sum := 0, cnt := 0, rises := [], recent := [], limEv := false }
    if committed then { q with
      means := if p.cnt = 0 then p.means else (p.sum / p.cnt :: p.means).take 16
      past := (p.rises :: p.past).take 4 }
    else q

/-- R561: an 8-byte write of PWR_RAMP. -/
def rampWrite (s : State) (v : Nat) : State :=
  s.updPower fun p => { p with
    rampLevel := bits v 0 12, rampEn := bit v 12, rampTime := bits v 16 48
    rampOn := bit v 12 && bits v 16 48 * 1000 ≤ s.time.ns }

def execPwrRampWrite (v : Word) (s : State) : Result := .next (rampWrite s v.toNat)

/-- RAMP_TIME_REACHED: the counter reaches an armed ramp's TIME (R561). -/
def execRampTimeReached (s : State) : Result :=
  .next (if s.power.rampEn && s.power.rampTime * 1000 ≤ s.time.ns then s.updPower fun p => { p with rampOn := true } else s)

-- coolant (R563 to R565)

/-- R563: the inferred flow in 0.01 L/min, rounded to nearest. -/
def inferFlow (draw : Nat) (inlet outlet : BitVec 16) : Nat :=
  let dt := outlet.toInt - inlet.toInt
  if 500 ≤ draw && 8 ≤ dt then
    let den := 3980 * dt.toNat
    min ((48000 * draw + den / 2) / den) 0xFFFE
  else 0xFFFF

/-- COOLANT_SAMPLE: coolant temperatures in 0.125 °C (R563). -/
def execCoolantSample (inlet outlet : BitVec 16) (s : State) : Result :=
  .next (s.updPower fun p => { p with inlet := inlet, outlet := outlet, flow := inferFlow p.draw inlet outlet })

/-- R564: the lead in ns: 2 s, or the consist's tenths of a second. -/
def leadNs (s : State) : Nat := (if s.expert 9 then s.consist.lead else 20) * 100000000

/-- R564: the predicted draw. -/
def predictNow (s : State) : Nat :=
  let p := s.power
  let f := if p.rampEn && p.rampTime * 1000 ≤ s.time.ns + leadNs s then min p.rampLevel 2150 else fractionFloor s
  let m := if s.tender.run && p.means != [] && !s.halted then stepMean p else 0
  max (max f m) 700

/-- R565: D of a predicted draw, clamped to 41 to 983. -/
def dutyOf (predict : Nat) : Nat := min 983 (max 41 ((2 * 1024 * predict + 2500) / 5000))

/-- COOL_DEM_UPDATE: the duty follows the predicted draw; it is 983 for 60 s after a thermal trip, and stays 41 after a leak. -/
def execCoolDemUpdate (s : State) : Result :=
  .next (
    let hot : Bool := match s.power.tripAt with
      | some a => s.time.ns < a + 60000000000
      | none => false
    let w := predictNow s
    s.updPower fun p => { p with
      predict := w, duty := if hot then 983 else if s.sys.leakTrip then 41 else dutyOf w })

-- trips (R554, R566, R567)

/-- An engine without power: its units give no light, its ports go down, and bring-up starts afresh (R377). -/
def engineOff (s : State) (e : Nat) : State :=
  let out (l : Laser) : Laser := match l with
    | .retired => .retired
    | .failed => .failed
    | _ => .absent
  (darken s e).updEngine e fun k => { k with a := out k.a, b := out k.b, ramp := false, stage := 0 }

/-- Every rail but Thonar's own is off. -/
def powerDown (s : State) : State :=
  let t := s.updSys fun y => { y with
    railMem := 0, railCore := false, railEng := 0, ready := false, cxlUp := false, ideCm := false, ideIo := false }
  [0, 1, 2, 3].foldl engineOff (t.updPower fun p => { p with fill := false, throttle := false })

/-- R554, R566, R567: a trip turns every rail off but Thonar's own. -/
def railsOff (s : State) : State := powerDown (s.updSys fun y => { y with tripped := true })

/-- SUPPLY_TRIP: the input, in 0.1 V, is below 38 V or above 60 V for 100 µs (R554). -/
def execSupplyTrip (v : Half) (s : State) : Result :=
  .next (
    if 380 ≤ v.toNat && v.toNat ≤ 600 then s
    else railsOff (((s.raiseStop 4 2).updPower fun p => { p with trip := true }).raise 0x0063 v.toNat 0))

/-- THERMAL_TRIP: a junction temperature, in 0.125 °C, of 115 °C for 1 ms (R567). -/
def execThermalTrip (half : Fin 2) (tj : Half) (s : State) : Result :=
  .next (
    if (tj.toInt) < 920 then s
    else railsOff (((s.raiseStop 4 2).updPower fun p => { p with
      trip := true, tripAt := some s.time.ns, duty := 983 }).raise 0x0062 tj.toNat half.val))

/-- LEAK_DETECT: the leak sensor trips (R566). -/
def execLeakDetect (s : State) : Result :=
  .next (railsOff ((((s.raiseStop 4 2).updPower fun p => { p with
    leakLow := true, leak := true, duty := 41 }).updSys fun y => { y with leakTrip := true }).raise 0x0061 0 0))

/-- LEAK_CLEAR: the sensor stops sensing a leak (R566, R620). -/
def execLeakClear (s : State) : Result := .next (s.updPower fun p => { p with leakLow := false, leak := false })

-- environment faults (R567, R568)

/-- R530: the number of an environment quantity. -/
def envNumber : EnvQuantity → Nat
  | .inputVoltage => 0
  | .coolantInlet => 1
  | .coolantFlow => 2

/-- R567: the declared bound that a measured value breaks, in 0.1 V, 0.125 °C or 0.01 L/min. -/
def envBound (s : State) (q : EnvQuantity) (m : Half) : Option Nat :=
  let c := s.consist
  match q with
  | .inputVoltage =>
    if m.toNat < 400 || 580 < m.toNat then none
    else if m.toNat < c.vinLo then some c.vinLo else if c.vinHi < m.toNat then some c.vinHi else none
  | .coolantInlet =>
    if m.toInt < (c.inletLo : Int) then some c.inletLo else if (c.inletHi : Int) < m.toInt then some c.inletHi else none
  | .coolantFlow => if m.toNat * 100 < c.minFlow * 85 then some c.minFlow else none

/-- ENVIRONMENT_FAULT: a measured value has departed from the declaration for its persistence time (R567). -/
def execEnvironmentFault (q : EnvQuantity) (measured : Half) (s : State) : Result :=
  .next (
    match envBound s q measured with
    | none => s
    | some b =>
      if s.power.envSet.contains (envNumber q) then s
      else
        (s.updPower fun p => { p with envFault := true, envSet := p.envSet ++ [envNumber q] }).envEvent
          (envNumber q) 0xFF measured.toNat b)

/-- ENVIRONMENT_FAULT_CLEAR: the condition has stayed clear for the same time (R568). -/
def execEnvironmentFaultClear (q : EnvQuantity) (s : State) : Result :=
  .next (s.updPower fun p =>
    let left := p.envSet.filter fun k => k != envNumber q
    { p with envSet := left, envFault := p.envFault && left != [] })

end Sys2Proof.Machine
end

