-- ==== Sys2Proof/Machine/Waybill.lean ====
section
/-! DEFINITION. Waybill entries (R483 to R487, R489 to R491), the intervals of the checkpoint tiers (R500 to R503), and the start of
a step (R32, R504, R507). -/

namespace Sys2Proof.Machine

-- entries (R483, R484)

/-- R484: an entry's first 0xFD0 bytes with their DIGEST. -/
def sealEntry (bs : List Byte) : List Byte := bs.take 0xFD0 ++ sha384 (bs.take 0xFD0)

/-- Zero bytes. -/
def zeros (n : Nat) : List Byte := List.replicate n 0

def entryNat (e : List Byte) (off n : Nat) : Nat := leNat ((e.drop off).take n)

/-- R484: FLAGS of an entry: bit 0 FINITE, 1 COMMIT, 2 COLD, 3 MISMATCH, 4 SPIKE, 5 STOPREQ, 6 VOID. -/
def entryFlag (e : List Byte) (i : Nat) : Bool := bit (entryNat e 0x0E 1) i

/-- An entry with new FLAGS. -/
def withFlags (e : List Byte) (f : Nat) : List Byte := sealEntry (e.take 0x0E ++ leBytes 1 f ++ e.drop 0x0F)

/-- R483: the address of entry n in the module's own ring. -/
def entryAddr (s : State) (n : Nat) : Nat := s.consist.ring + 4096 * (n % s.consist.entries)

/-- R483: the slot of entry n in the flash mirror. -/
def flashSlot (n : Nat) : Nat := n % 1048576

/-- R504: whether bytes are a good entry of step n: whole, of that step, not void, with a matching DIGEST. -/
def goodEntry (n : Nat) (e : List Byte) : Bool :=
  e.length = 4096 && entryNat e 0 8 = n && !entryFlag e 6 && e.drop 0xFD0 = sha384 (e.take 0xFD0)

/-- R504: entry n from the local ring, else from the flash mirror. -/
def findEntry (s : State) (n : Nat) : Option (List Byte) × State :=
  let ((bs, p), t) := sysRead s (entryAddr s n) 4096 false
  if !p && goodEntry n bs then (some bs, t)
  else
    let f := mget [] t.way.flashRing (flashSlot n)
    (if goodEntry n f then some f else none, t)

/-- The scale-history region. -/
def history (s : State) : List Byte × State :=
  let ((bs, _), t) := sysRead s s.consist.histBase s.consist.histLen false
  (bs, t)

/-- R504: entry n is asked of the partner's mirror; the spec gives the request no form (row 85 of the log). -/
def askPartner (s : State) (n : Nat) : State :=
  match s.consist.partner with
  | none => s
  | some r =>
    match flowTo s r 1 with
    | some f => sendMessage s f 0 1 (genNow s) 4096 2 0 (leBytes 8 n) false
    | none => s

/-- R504: the mirror ring's entry n goes to the partner that asks for it. -/
def answerPartner (s : State) (n : Nat) : State :=
  let e := mget [] s.way.mirrorRing (n % s.consist.entries)
  match s.consist.partner with
  | some r =>
    match flowTo s r 1 with
    | some f => if goodEntry n e then sendMessage s f 0 1 (genNow s) 4096 3 0 e false else s
    | none => s
  | none => s

/-- R32, R484, R504: the step in progress begins: its scale history is noted, and a replayed step's entry is fetched from the local ring,
else from the flash mirror, else from the partner's mirror. -/
def beginStep (s : State) : State :=
  let (h, s) := history s
  let s := s.updWay fun w => { w with histAt := h, entry := [] }
  if replaying s then
    let (e, t) := findEntry s s.tender.step
    match e with
    | some e => t.updWay fun w => { w with entry := e }
    | none => askPartner t s.tender.step
  else s

-- intervals (R500 to R503)

/-- R493: the rate of a tier in bytes per second. -/
def tierRate (s : State) (k : Nat) : Nat :=
  if k = 0 then 800000000000 else if k = 1 then 28000000000 else max s.consist.rate3 1

/-- R501: floor and ceiling of a tier, µs. -/
def tierClamp (k : Nat) : Nat × Nat :=
  if k = 0 then (2000000, 120000000) else if k = 1 then (30000000, 1800000000) else (300000000, 21600000000)

/-- R500, R503: the interval of tier k + 1, µs. -/
def tierInterval (s : State) (k : Nat) : Nat :=
  if s.expert 8 then s.consist.intervals.getD k 0
  else
    let r := tierRate s k
    let c := (s.consist.bufSize * 1000000 + r - 1) / r
    let (lo, hi) := tierClamp k
    min (max (isqrt (2 * c * (s.way.mtbf * 1000000))) lo) hi

end Sys2Proof.Machine
end

