-- ==== Sys2Proof/Machine/Boundary.lean ====
section
/-! DEFINITION. The ring commands that take effect at a boundary (R532, R534): RUN_START, TENDER_RATE, PACE, PAGE_CLASS, MTBF. -/

namespace Sys2Proof.Machine

/-- A parameter at an entry offset (R525: PARAMS begin at 0x08). -/
def par (ps : List Byte) (off n : Nat) : Nat := leNat ((ps.drop (off - 8)).take n)

/-- R222, R223: history length and margin of each tensor kind with history: of its preset (standard or conservative), or the consist's own
with the scale-recipe expert flag set. -/
def recipesNow (s : State) : List (Nat × Nat) :=
  if s.expert 6 then s.consist.recipes else s.consist.recipePreset.map fun c => if c then (32, 2) else (16, 1)

/-- R220: the history lengths in force. -/
def recipeLens (s : State) : List Nat := (recipesNow s).map (·.1)

/-- R220: a cold start for the history lengths in force, from the step in progress on. -/
def coldStart (s : State) : State :=
  s.updWay fun w => { w with cold := (recipeLens s).foldl max 0, coldAt := s.tender.step }

/-- R451: kt of a seed root. -/
def ktOf (seed : Nat) : Nat := leNat ((sha384 (leBytes 32 seed ++ [0x54, 0x45, 0x4E, 0x44])).take 8)

/-- RUN_START: the Turntable and the Tender key are set; the run begins with a cold start (R220, R346, R451).  At the first one the
step in progress begins.  A non-finite result from before it stays in the flag of that step: R36 does not say whether it counts
(DESIGN CHOICE, row 74). -/
def runStart (s : State) (n seed : Nat) : State :=
  let s := if s.tender.run then s else beginStep s
  let t := s.updTender fun k => { k with n := n, seed := BitVec.ofNat 256 seed, kt := ktOf seed, run := true }
  (coldStart t).updMgmt fun m => { m with lastCommit := s.time.ns }

/-- R53: PACE: the targets in force; a clamped target completes with status 1. -/
def paceApply (s : State) (w e : Nat) : State × Nat × Nat :=
  let t := retarget (s.updPower fun p => { p with paceCmd := some (w, e) })
  let (cw, _, ce, _) := wantedRails t
  (t, if cw = w && ce = e then 0 else 1, cw % 65536 + ce % 65536 * 65536)

/-- R307: PAGE_CLASS: the class of a range of pages. -/
def pageClass (s : State) (first n cls : Nat) : State :=
  s.updMem fun m => { m with actPages := (List.range n).foldl (fun a i => mset none a (first + i) (some (cls = 1))) m.actPages }

/-- A boundary command takes effect and completes. -/
def bcApply (s : State) (b : BCmd) : State :=
  let step := s.tender.step
  let p (o n : Nat) : Nat := par b.params o n
  if b.op = 0x10 then ringDone (runStart s (p 0x08 8) (p 0x10 32)) b.ring b.idx 0 step
  else if b.op = 0x21 then
    ringDone (s.updTender fun k => { k with presets := mupd {} k.presets (p 0x08 4) fun r => { r with lr := p 0x0C 4 } }) b.ring b.idx 0 step
  else if b.op = 0x22 then
    let (t, st, res) := paceApply s (p 0x08 2) (p 0x0A 2)
    ringDone t b.ring b.idx st res
  else if b.op = 0x23 then ringDone (pageClass s (p 0x08 4) (p 0x0C 4) (p 0x10 1)) b.ring b.idx 0 step
  else if b.op = 0x15 then ringDone (s.updWay fun w => { w with mtbf := p 0x08 4 }) b.ring b.idx 0 step
  else s

/-- R534: whether a later command of the same opcode sets all that an earlier one would. -/
def supersedes (a b : BCmd) : Bool :=
  a.op = b.op &&
    (if a.op = 0x21 then par a.params 8 4 = par b.params 8 4
     else if a.op = 0x23 then
       par b.params 8 4 ≤ par a.params 8 4 && par a.params 8 4 + par a.params 0x0C 4 ≤ par b.params 8 4 + par b.params 0x0C 4
     else a.op = 0x22 || a.op = 0x15)

/-- R503: an MTBF command waits for its step; the others are due at any boundary. -/
def bcDue (s : State) (b : BCmd) : Bool := b.op != 0x15 || par b.params 0x10 8 ≤ s.tender.step

/-- R534: the commands that are due take effect in the order of acceptance; a superseded one completes with status 9. -/
def bcRun (s : State) : List BCmd → State
  | [] => s
  | b :: rest => bcRun (if rest.any (supersedes b) then ringDone s b.ring b.idx 9 0 else bcApply s b) rest

def boundaryRun (s : State) : State :=
  let due := s.rings.boundary.filter (bcDue s)
  bcRun (s.updRings fun h => { h with boundary := h.boundary.filter fun b => !bcDue s b }) due

/-- R12, R532: a boundary command is accepted: it waits, or takes effect at once at a quiescent point. -/
def bcAccept (s : State) (b : BCmd) : State :=
  let t := s.updRings fun h => { h with boundary := h.boundary ++ [b] }
  if s.quiescent then boundaryRun t else t

end Sys2Proof.Machine
end

