-- ==== Sys2Proof/Machine/Consist.lean ====
section
/-! DEFINITION. Consists (R586 to R593): what apply checks, taking effect, probation and its failure. -/

namespace Sys2Proof.Machine

-- constraints at apply (R589)

/-- A multiple of `k` within limits. -/
def within (v lo hi k : Nat) : Bool := lo ≤ v && v ≤ hi && v % k = 0

/-- R605: a region of the memory plan stays clear of the windows and inside module memory. -/
def planOk (base len : Nat) : Bool := windowEnd ≤ base && base + len ≤ memBytes

/-- R306, R253: at most 16 regions of whole pages, none overlapping. -/
def regionsOk (rs : List (Nat × Nat × Bool)) : Bool :=
  rs.length ≤ 16 && rs.all (fun r => r.1 % 2 ^ 21 = 0 && r.2.1 % 2 ^ 21 = 0) &&
    (List.range rs.length).all fun i => (List.range rs.length).all fun j =>
      i = j || (rs.getD i (0, 0, false)).1 + (rs.getD i (0, 0, false)).2.1 ≤ (rs.getD j (0, 0, false)).1
        || (rs.getD j (0, 0, false)).1 + (rs.getD j (0, 0, false)).2.1 ≤ (rs.getD i (0, 0, false)).1

/-- R346: a shard map: up to 256 ascending entries from 0. -/
def shardMapOk (m : List Nat) : Bool :=
  m.headD 1 = 0 && m.length ≤ 256 && (m.zip (m.drop 1)).all fun p => p.1 < p.2

/-- R466, R400: the collective groups; kind 0 is a tensor cut. -/
def groupsOk (c : Consist) : Bool :=
  c.groups.all fun g => g.1 < 256 && 2 ≤ g.2.2.length && g.2.2.length ≤ 32768 && g.2.2.all (· < c.ranks.length) &&
    (g.2.1 != 0 || (g.2.2.length ≤ 8 &&
      g.2.2.all fun r => (c.ranks.getD r (0, 0)).1 = (c.ranks.getD (g.2.2.headD 0) (0, 0)).1))

/-- R50: expert rails of a half. -/
def railOk (core sram : Nat) : Bool := within core 550 800 5 && within sram 700 850 5 && core + 50 ≤ sram

/-- R367: fixed taps of a lane: pre2, pre1, post1 and the main tap that they leave. -/
def tapsOk (t : List Int) : Bool :=
  match t with
  | [a, b, c, main] =>
    -8 ≤ a && a ≤ 0 && -24 ≤ b && b ≤ 0 && -16 ≤ c && c ≤ 0 && main = 63 + a + b + c && 24 ≤ main
  | _ => false

/-- R356: the PMD of each scale-out port: 0 for DR8, 1 for DR8-2. -/
def pmdOk (m : SMap Nat) : Bool := m.all fun p => 7 ≤ p.1 && p.1 < 12 && p.2 ≤ 1

/-- R449: the groups that vote-mode Tender collectives name, among the descriptors that the collective queues have taken. -/
def voteGroups (s : State) : List Nat :=
  s.colls.flatMap fun e => (((e.2.cur.map (·.desc)).toList ++ e.2.extra.map (·.2.2.2)).filter namesVote).map fun d => leNat ((d.drop 2).take 2)

/-- R449: apply rejects a consist in which such a group is none that votes. -/
def votesOk (s : State) (c : Consist) : Bool := (voteGroups s).all fun g => voteGroupOk (mget (0, []) c.groups g).2

/-- R589: the ranges and constraints that the chapters state for apply. -/
def consistOk (c : Consist) : Bool :=
  let ex (i : Nat) : Bool := c.expert.getLsbD i
  let e1 := within c.probation 60 3600 1
  let e2 := c.ranks.getD c.rank (0, 8) = (c.rake, c.position) && c.position < 8 && c.ranks.length ≤ 32768
  let e3 := match c.partner with
    | some r => r < c.ranks.length && (c.ranks.getD r (0, 0)).1 != c.rake
    | none => true
  let e4 := 400 ≤ c.vinLo && c.vinLo ≤ c.vinHi && c.vinHi ≤ 580 && c.inletLo ≤ c.inletHi
  let e5 := planOk c.bufA c.bufSize && planOk c.bufB c.bufSize && planOk c.scratch c.bufSize && planOk c.store 33554432 && planOk c.ring (4096 * c.entries)
    && (List.range 21).any (fun k => 10 ≤ k && c.entries = 2 ^ k) && c.rcount ≤ 4096 && c.rsem < 4096 && c.mover < 32
  let e6 := if ex 0 then
      railOk (c.rails.getD 0 0) (c.rails.getD 1 0) && railOk (c.rails.getD 2 0) (c.rails.getD 3 0)
        && (match c.floorMv with | some f => within f 550 800 1 | none => true)
    else c.pace ≤ 2
  let e7 := regionsOk c.prot && regionsOk c.wpol && c.prot.all (fun r => windowEnd ≤ r.1) && c.scrubS ≤ 168 && c.scrubA ≤ 168
  let e8 := !ex 2 || within c.merge 16 4096 16
  let e9 := !ex 4 || c.gating = 0 || within c.gating 256 65536 256
  let e10 := c.presets.all (fun p => rateOk p.2.lr && betaOk p.2.beta && rateOk p.2.lambda) && c.presets.all (fun p => p.1 < 8)
  let e11 := !ex 6 || c.recipes.all fun r => 1 ≤ r.1 && r.1 ≤ 64 && r.2 ≤ 7
  let e12 := !ex 7 ||
    (c.slotT.all (fun p => p.2.getD 0 ≤ 65535) && c.slotLen.all (fun p => within (p.2.getD 1) 1 65535 1)
      && c.slotS.all (fun p => p.2.getD 0 ≤ 65535) && (match c.sampler with | some k => 4 ≤ k && k ≤ 20 | none => true)
      && within32 0x35800000 0x3F800000 c.agreeThr && within32 0x39800000 0x3F000000 c.alpha && within32 0x3F800000 0x42800000 c.z
      && c.warmup ≤ 4096)
  let e13 := (!ex 8 || (within (c.intervals.getD 0 0) 2000000 120000000 1 && within (c.intervals.getD 1 0) 30000000 1800000000 1
      && within (c.intervals.getD 2 0) 300000000 21600000000 1))
    && (c.stagingSz = 0 || (c.staging % 4096 = 0 && 2 * (c.bufSize + 8388608) ≤ c.stagingSz))
  let e14 := c.slewPreset ≤ 2 && (!ex 9 || (within c.slew 1 200 1 && c.floorFrac ≤ 64 && c.lead ≤ 100))
  let e15 := !ex 10 || (4 ≤ c.rounds && c.rounds ≤ 6 && shardMapOk c.shardMap)
  let e16 := (!ex 11 || c.taps.all fun t => t.1 < 96 && tapsOk t.2) && pmdOk c.pmd
  let e17 := groupsOk c && c.foldsem + 63 ≤ 4095 && !(c.foldsem ≤ c.freesem && c.freesem ≤ c.foldsem + 63)
  e1 && e2 && e3 && e4 && e5 && e6 && e7 && e8 && e9 && e10 && e11 && e12 && e13 && e14 && e15 && e16 && e17

-- taking effect (R590, R593, R249, R373, R400)

/-- R249: the watch settings of a slot that reset its run when they change. -/
def slotSet (s : State) (k : Nat) : Nat × Nat × Nat := (slotClass s k, slotT s k, slotLen s k)

/-- R249: slots whose class, threshold or length has changed lose their run and alarm. -/
def watchChanged (old s : State) : State :=
  (List.range 1024).foldl (fun t k =>
    if slotSet old k = slotSet t k then t
    else t.updSlot k fun w => { w with run := { w.run with val := 0 }, alarm := false }) s

/-- R380, R400: the flows that the consist binds. -/
def bindFlows (s : State) : State :=
  s.consist.flows.foldl (fun t f =>
    let k := t.flow f.1
    if k.bound && k.peer = f.2.1 && k.cls = f.2.2 then t else bindFlow t f.1 f.2.1 f.2.2) s

/-- Everything that follows the current consist follows a new one; a cold start that falls due with it runs for the new history lengths
(R224). -/
def consistSettle (old s : State) : State :=
  let t := watchChanged old s
  let t := t.updTender fun k => { k with presets := s.consist.presets }
  let t := t.updWay fun w => { w with mtbf := s.consist.mtbf }
  let t := if t.way.cold != 0 && t.way.coldAt = t.tender.step then coldStart t else t
  let t := t.updPower fun p => { p with paceCmd := none }
  let t := t.updSys fun y => { y with keyPend := s.consist.key != s.mem.key }
  let t := t.updMem fun m => { m with actPages := [] }
  bindFlows (retarget (portsNewConsist old t))

/-- R590, R593: kind 0 applies the staged consist, 1 reverts to the previous one, 2 takes the factory consist. -/
def consistTake (s : State) (kind : Nat) : State :=
  let m := s.mgmt
  let none1 (m : Mgmt) : Mgmt := { m with change := none }
  if kind = 0 then
    match m.staged with
    | none => s.updMgmt none1
    | some c =>
      consistSettle s (s.updMgmt fun m => { none1 m with
        cur := c, prev := some m.cur, staged := none, lastCommit := s.time.ns
        probEnd := some (s.time.ns + c.probation * 1000000000) })
  else if kind = 1 then
    match m.prev with
    | none => s.updMgmt none1
    | some c => consistSettle s (s.updMgmt fun m => { none1 m with
        cur := c, prev := none, probEnd := none, priv := none })
  else consistSettle s (s.updMgmt fun m => { none1 m with
    cur := {}, prev := some m.cur, probEnd := none, priv := none })

/-- R590: whether an accepted change is due: its step begins, or the point is quiescent. -/
def changeDue (s : State) (boundary : Bool) : Option Nat :=
  match s.mgmt.change with
  | some (step, kind) => if s.quiescent || (boundary && (step = 0 || step ≤ s.tender.step)) then some kind else none
  | none => none

def consistRun (s : State) (boundary : Bool) : State :=
  match changeDue s boundary with
  | some kind => consistTake s kind
  | none => s

/-- CONSIST_TAKE_EFFECT: an accepted change that is due takes effect. -/
def execConsistTakeEffect (s : State) : Result := .next (consistRun s false)

-- probation (R591, R592)

/-- R530: the condition code of a consist revert. -/
def failCode : ProbFail → Nat
  | .envFault => 0
  | .coachStop => 1
  | .decisionMismatch => 2
  | .port => 3
  | .replayDivergence => 4
  | .noCommit => 5
  | .reset => 6

/-- R592: the previous consist becomes current, the failed one is discarded, and the event names the condition. -/
def probRevert (s : State) (code : Nat) : State :=
  let n := s.consist.number
  match s.mgmt.prev with
  | none => s.updMgmt fun m => { m with probEnd := none, priv := none }
  | some c =>
    (consistSettle s (s.updMgmt fun m => { m with
      cur := c, prev := none, probEnd := none, change := none, priv := none })).raise 0x0071 n code

/-- R592: a consist in probation fails: a stop of consist scope, and the revert at the halt it makes. -/
def probFail (s : State) (code : Nat) : State :=
  if s.mgmt.probEnd.isSome then probRevert (s.raiseStop 4 2) code else s

def execProbationFailure (cond : ProbFail) (s : State) : Result := .next (probFail s (failCode cond))

/-- NO_COMMIT_TIMEOUT: 120 s without a commit while a run is active and the module is not Halted (R591). -/
def execNoCommitTimeout (s : State) : Result :=
  .next (if s.tender.run && !s.halted && s.mgmt.lastCommit + 120000000000 ≤ s.time.ns then probFail s 5 else s)

/-- PROBATION_EXPIRY: the probation period passes without failure, and the consist is confirmed (R591). -/
def execProbationExpiry (s : State) : Result :=
  .next (match s.mgmt.probEnd with
    | some e => if e ≤ s.time.ns then s.updMgmt fun m => { m with probEnd := none, priv := none } else s
    | none => s)

end Sys2Proof.Machine
end

