-- ==== Sys2Proof/Machine/StepEnd.lean ====
section
/-! DEFINITION. The end of a step (R35 to R41, R426 to R428, R456 to R458), the Waybill (R484 to R491), the saves (R495 to R502) and
the comparison of a replayed step (R508), with the meanings of their commands. -/

namespace Sys2Proof.Machine

-- contributions (R35, R426, R456, R486, R507)

/-- R424, R426: the four flags of a step flit: non-finite, loss spike, stop request, skip. -/
def stepFlags (nonfin spike stop skip : Bool) : BitVec 4 :=
  BitVec.ofNat 4 (b2n nonfin + 2 * b2n spike + 4 * b2n stop + 8 * b2n skip)

/-- R425, R426: this module's contribution enters the tree of a step barrier. -/
def stepFlit (s : State) (ch : Nat) (f : BitVec 4) : State :=
  sendUp (recordArrival s ch s.tender.step s.consist.rank f) ch s.tender.step 2

/-- R35, R456, R486, R490, R507: whether the channel 62 contribution may be sent. -/
def ready62 (s : State) : Bool :=
  let t := s.tender
  t.run && !s.halted && t.done && !t.contrib && s.way.rewrite = none
    && (if replaying s then s.way.entry != [] else s.way.ready = t.step)

/-- R426: the channel 62 contribution; a stop request raised later belongs to the next step. -/
def contribute62 (s : State) : State :=
  if !ready62 s then s
  else
    let t := lossEvaluate s
    let f := stepFlags s.tender.nonfin t.watch.spike s.tender.stopReq false
    stepFlit (t.updTender fun t => { t with contrib := true, stopReq := false }) 62 f

/-- R38, R431, R456: the channel 63 contribution, once the entry is durable; a halted module withholds it. -/
def contribute63 (s : State) : State :=
  let t := s.tender
  if t.run && !s.halted && t.result62.isSome && s.way.durable && !t.contrib63 then
    stepFlit (s.updTender fun t => { t with contrib63 := true }) 63 (stepFlags false false false t.skipBit)
  else s

def execStepContribution (commit : Bool) (s : State) : Result :=
  .next (if commit then contribute63 s else contribute62 s)

/-- TENDER_DONE: DONEBLK has reached DUE; READY that differs is reported once (R456, R486). -/
def tenderDoneNow (s : State) : State :=
  if !s.tender.run || s.halted || s.tender.doneBlk < tenderDue s then s
  else
    let t := s.updTender fun t => { t with done := true }
    if replaying t || t.way.ready = t.tender.step || t.way.lateSent then contribute62 t
    else (t.updWay fun w => { w with stageLate := true, lateSent := true }).raise 0x0021 (t.way.ready % 2 ^ 32) 0

def execTenderDone (s : State) : Result := .next (tenderDoneNow s)

/-- R504, R507: the recorded entry of the step that is replayed comes from the partner's mirror. -/
def entryFetched (s : State) (e : List Byte) : State :=
  if replaying s && s.way.entry = [] && goodEntry s.tender.step e then contribute62 (s.updWay fun w => { w with entry := e }) else s

/-- READY_WRITE: software hands over the stage record (R486). -/
def readyWrite (s : State) (v : Nat) : State := contribute62 (s.updWay fun w => { w with ready := v })

def execReadyWrite (v : Word) (s : State) : Result := .next (readyWrite s v.toNat)

-- results (R36, R37, R426, R428)

/-- R409, R413: a phase of channel 62 or 63 completes on this module. -/
def stepPhase (s : State) (ch : Nat) : State :=
  let ph := s.tender.step % 2 ^ 16
  let t := s.updChan ch fun c => { c with phase := c.phase + 1, got := c.got.filter fun g => g.1 != ph }
  t.bump (.cordChannel ⟨ch % 64, Nat.mod_lt _ (by decide)⟩)

/-- The root of the step barriers sends a result down the tree. -/
def resultDown (s : State) (ch : Nat) (f : BitVec 4) : State :=
  s.flitTo (treeChildren s.consist.ranks.length 0) (barrierFlit s 3 ch 2 f.toNat s.tender.step)

/-- END_OF_STEP_RESULT: the OR of the flags arrives; at the root it is the OR of what has come to it (R35, R37, R426, R507). -/
def endOfStep (s : State) (f0 : BitVec 4) : State :=
  let root : Bool := s.consist.rank = 0
  if !s.tender.run || !s.tender.contrib || s.tender.result62.isSome || (root && missing s 62 s.tender.step != []) then s
  else
    let f := if root then gotFlags s 62 s.tender.step else f0
    let t := if root then resultDown s 62 f else s
    let t := stepPhase t 62
    let skip := if replaying s then !entryFlag s.way.entry 1 else f.getLsbD 0
    let t := t.updTender fun k => { k with result62 := some (f.getLsbD 0, f.getLsbD 1, f.getLsbD 2), skipBit := skip }
    let t := t.updWay fun w => { w with stampAt := s.time.ns }
    if replaying s then contribute63 (t.updWay fun w => { w with durable := true }) else t

def execEndOfStepResult (nonfinite spike stopReq : Bool) (s : State) : Result :=
  .next (endOfStep s (stepFlags nonfinite spike stopReq false))

/-- COMMIT_BARRIER_COMPLETE: the root combines the last contribution; a stop that came before leaves the step undecided (R428, R431). -/
def barrierDone (s : State) : State :=
  if s.consist.rank != 0 || !s.tender.contrib63 || s.tender.final.isSome || s.tender.stop63 || missing s 63 s.tender.step != [] then s
  else
    let f := gotFlags s 63 s.tender.step
    (resultDown s 63 f).updTender fun t => { t with final := some (f.getLsbD 3) }

def execCommitBarrierComplete (s : State) : Result := .next (barrierDone s)

-- entries (R38, R484, R487 to R491, R649)

/-- R484: the entry of the step in progress. -/
def entryOfStep (s : State) (nonfin spike stop : Bool) : List Byte :=
  let t := s.tender
  let flags := b2n (!nonfin) + 2 * b2n (!nonfin) + 4 * b2n (s.way.cold != 0) + 16 * b2n spike + 32 * b2n stop
  sealEntry (leBytes 8 t.step ++ leBytes 4 s.consist.number ++ leBytes 2 (genNow s) ++ leBytes 1 flags
    ++ leBytes 1 s.way.tiersNow ++ stageRaw s 0x10 16 ++ leBytes 8 t.n ++ leBytes 1 (ttRounds s) ++ zeros 7
    ++ leBytes 32 t.seed.toNat ++ sha384 ((ttShards s).flatMap (leBytes 6)) ++ sha384 s.way.histAt
    ++ stageRaw s 0xB0 6 ++ zeros 2 ++ stageRaw s 0xB8 4 ++ zeros 4
    ++ ((List.range 8).flatMap fun i => leBytes 4 (mget {} t.presets i).lr) ++ leBytes 8 s.way.stampAt ++ zeros 24
    ++ stageRaw s 0x100 3792)

/-- R487, R488, R649: an entry goes to the partner, to flash, or to both. -/
def sendEntry (s : State) (n : Nat) (e : List Byte) : State :=
  match s.consist.partner with
  | none => s.updWay fun w => { w with flashQ := w.flashQ ++ [(n, e)] }
  | some r =>
    let t := s.updWay fun w => { w with
      toPartner := some n, sentAt := s.time.ns, timedOut := false
      flashQ := if w.both then w.flashQ ++ [(n, e)] else w.flashQ }
    match flowTo t r 1 with
    | some f => sendMessage t f 0 1 (genNow t) 4096 0 0 e false
    | none => t

/-- An entry is written to its slot and sent. -/
def putEntry (s : State) (n : Nat) (e : List Byte) : State := sendEntry (sysWrite s (entryAddr s n) e false false) n e

/-- WAYBILL_ENTRY_BUILD: a replayed step rewrites no entry (R487, R507). -/
def entryBuild (s : State) : State :=
  match s.tender.result62 with
  | none => s
  | some (nf, sp, st) =>
    if s.way.built || replaying s then s
    else putEntry (s.updWay fun w => { w with built := true }) s.tender.step (entryOfStep s nf sp st)

def execWaybillEntryBuild (s : State) : Result := .next (entryBuild s)

/-- R38, R490, R491, R492: an entry has become durable. -/
def durableNow (s : State) (n : Nat) : State :=
  if s.way.rewrite = some n then contribute62 (s.updWay fun w => { w with rewrite := none })
  else if n = s.tender.step && s.way.built && !s.way.durable then
    contribute63 (s.updWay fun w => { w with durable := true, prevLast := w.last, last := n })
  else s

/-- R488: the partner has acknowledged the entry that was sent last. -/
def mirrorAck (s : State) : State :=
  match s.way.toPartner with
  | none => s
  | some n =>
    let good := if s.time.ns ≤ s.way.sentAt + 200000 then s.way.acksInTime + 1 else 0
    durableNow (s.updWay fun w => { w with
      toPartner := none, timedOut := false
      acksInTime := good % 16
      both := w.both && good < 16 }) n

def execWaybillMirrorAck (s : State) : Result := .next (mirrorAck s)

/-- MIRROR_TIMEOUT: 200 µs have passed without an acknowledgement; with a read-only flash a stop is raised (R488, R595). -/
def mirrorTimeout (s : State) : State :=
  match s.way.toPartner with
  | none => s
  | some n =>
    if s.way.timedOut || s.time.ns < s.way.sentAt + 200000 then s
    else
      let (e, t) := sysRead s (entryAddr s n) 4096 false
      let t := t.updWay fun w => { w with
        timedOut := true, mirrorLost := true, acksInTime := 0, both := true
        flashQ := if w.both then w.flashQ else w.flashQ ++ [(n, e.1)] }
      let t := (t.bump (.waybill 0)).raise 0x0022 (s.consist.partner.getD 0xFFFF) 0
      if s.mgmt.flashRo then t.raiseStop 4 2 else t

def execMirrorTimeout (s : State) : Result := .next (mirrorTimeout s)

/-- FLASH_MIRROR_WRITE_COMPLETE: the oldest write to the flash mirror ends: of an entry that waits to be durable, else of one that
already is (R488, R489, R649). -/
def flashWritten (s : State) : State :=
  if s.mgmt.flashRo then s
  else
    let put (n : Nat) (e : List Byte) (w : Waybill) : Waybill :=
      { w with flashRing := mset [] w.flashRing (flashSlot n) e, flashed := n }
    match s.way.flashQ, s.way.toFlash with
    | (n, e) :: rest, _ => durableNow (s.updWay fun w => { put n e w with flashQ := rest }) n
    | [], (n, e) :: rest => if s.way.rewrite = some n then s else s.updWay fun w => { put n e w with toFlash := rest }
    | [], [] => s

def execFlashMirrorWriteComplete (s : State) : Result := .next (flashWritten s)

/-- R487: this module holds its partner's entry in its mirror ring, and acknowledges it. -/
def mirrorReceive (s : State) (e : List Byte) : State :=
  match s.consist.partner with
  | none => s
  | some r =>
    let n := entryNat e 0 8
    let t := s.updWay fun w => { w with mirrorRing := mset [] w.mirrorRing (n % s.consist.entries) e }
    match flowTo t r 1 with
    | some f => sendMessage t f 0 1 (genNow t) 4096 1 0 (leBytes 8 n) false
    | none => t

def execWaybillMirrorReceive (entry : List Byte) (s : State) : Result :=
  if wf (.waybillMirrorReceive entry) then .next (mirrorReceive s entry) else .fault .illFormed

/-- R491: the durable entry of a step that halted without a result waits to be marked void. -/
def voidDue (s : State) : Bool := s.halted && s.way.built && s.way.durable && !s.tender.contrib63 && s.way.rewrite = none

/-- R490, R491: entry n is rewritten with new FLAGS. -/
def rewriteEntry (s : State) (n : Nat) (f : Nat → Nat) : State :=
  let ((e, _), t) := sysRead s (entryAddr s n) 4096 false
  putEntry (t.updWay fun w => { w with rewrite := some n }) n (withFlags e (f (entryNat e 0x0E 1)))

/-- WAYBILL_VOID (R491). -/
def entryVoid (s : State) : State :=
  if voidDue s then
    rewriteEntry (s.updWay fun w => { w with built := false, durable := false, last := w.prevLast }) s.tender.step
      fun f => putBits (putBits f 6 1 1) 1 1 0
  else s

def execWaybillVoid (s : State) : Result := .next (entryVoid s)

-- saves (R41, R493 to R498, R502)

/-- R495, R497: whether a tier's slot holds its last complete, or last released, checkpoint. -/
def lastSlot (s : State) (k i : Nat) : Bool :=
  match mget none s.way.slots (2 * k + i) with
  | some c => c.label = mget 0 s.way.labels k && !(k = 2 && s.way.unreleased.contains i)
  | none => false

/-- R494, R495: the slot into which a save of tier k + 1 writes. -/
def saveSlot (s : State) (k : Nat) : Option Nat :=
  [0, 1].find? fun i => !lastSlot s k i && !(k = 2 && s.way.unreleased.contains i)

/-- R502, R494, R495, R595: whether tier k + 1 falls due at a commit. -/
def tierDue (s : State) (k : Nat) : Bool :=
  let i := tierInterval s k * 1000
  i != 0 && mget 0 s.way.lastSave k / i < s.time.ns / i
    && (if k = 0 then s.consist.partner.isSome else if k = 1 then !s.mgmt.flashRo else s.consist.stagingSz != 0)

/-- R498: tier k + 1 falls due at the commit of step n: a save starts, or is counted as skipped. -/
def saveStart (s : State) (n k : Nat) : State :=
  if !tierDue s k then s
  else
    let t := s.updWay fun w => { w with lastSave := mset 0 w.lastSave k s.time.ns }
    match saveSlot t k, mget none t.way.saves k with
    | some i, none =>
      let (h, t) := if k = 2 then ([], t) else history t
      let v : Save := ⟨(n + 2 ^ 64 - 1) % 2 ^ 64, s.time.ns, i, t.consist.number, genNow t, !t.tender.active,
        t.tender.dir.filter fun e => owned t e.2, h, [], [], false⟩
      t.updWay fun w => { w with
        saves := mset none w.saves k (some v), slots := mset none w.slots (2 * k + i) none, tiersNow := w.tiersNow + 2 ^ k }
    | _, _ => t.bump (.waybill 1)

/-- The bytes of an extent in a buffer. -/
def extentBytes (s : State) (base : Nat) (e : DirEntry) : List Byte × State :=
  let ((bs, _), t) := sysRead s (blockAddr base e 0) (16384 * entryBlocks e) false
  (bs, t)

/-- R496: the shards of a save whose blocks are all read. -/
def shardsOf (v : Save) : List Shard :=
  let ext := v.dir.map fun e =>
    let bs := (List.range (entryBlocks e.2)).flatMap fun b => mget [] v.blocks (65536 * e.1 + b)
    (⟨some e.2.pbase, e.2.len, e.2.gen, shaNat bs, bs⟩ : Shard)
  if v.hist = [] then ext else ext ++ [⟨none, v.hist.length, 0, shaNat v.hist, v.hist⟩]

/-- R497: a shard's record. -/
def shardRecord (h : Shard) : List Byte :=
  leBytes 8 (h.pbase.getD (2 ^ 64 - 1)) ++ leBytes 4 h.len ++ leBytes 2 h.gen ++ zeros 2 ++ leBytes 48 h.digest

/-- R497: bytes 0x00 to 0x2F of a manifest. -/
def manifestHead (c : Ckpt) (complete : Bool) : List Byte :=
  leBytes 8 c.label ++ leBytes 4 c.consist ++ leBytes 2 c.gen ++ leBytes 2 c.rank ++ leBytes 4 c.shards.length
    ++ leBytes 1 c.tier ++ leBytes 1 (b2n complete + 2 * b2n (c.shards.any fun h => h.pbase = none)) ++ zeros 26

/-- R497: MANDIG. -/
def mandigOf (c : Ckpt) : Nat := shaNat (manifestHead c false ++ zeros 32 ++ c.shards.flatMap shardRecord)

/-- R497: a manifest. -/
def manifestBytes (c : Ckpt) : List Byte :=
  manifestHead c true ++ leBytes 48 c.mandig ++ zeros 32 ++ c.shards.flatMap shardRecord

/-- R495: the host address of a staging slot; shards follow the manifest's 8 MiB (row 21 of the log). -/
def stagingAddr (s : State) (i : Nat) : Nat := s.consist.staging + i * (s.consist.stagingSz / 2)

/-- The byte offset of shard i of a staged checkpoint. -/
def shardOff (ls : List Nat) (i : Nat) : Nat := 8388608 + (ls.take i).foldl (fun t n => t + (n + 4095) / 4096 * 4096) 0

/-- R495: a checkpoint is written to a staging slot through CXL.cache, its manifest last. -/
def stageOut (s : State) (i : Nat) (c : Ckpt) : State :=
  let ls := c.shards.map fun h => h.data.length
  let m := (c.shards.zipIdx).foldl (fun m p => putBytes m (stagingAddr s i + shardOff ls p.2) p.1.data) s.hostMem
  { s with hostMem := putBytes m (stagingAddr s i) (manifestBytes c) }

/-- CHECKPOINT_SAVE_COMPLETE: a save has read every block and writes its manifest: tiers 1 and 2 are then complete (R494, R496). -/
def saveComplete (s : State) (k : Nat) : State :=
  let s := saveReadAll s k
  match mget none s.way.saves k with
  | none => s
  | some v =>
    if v.staged then s
    else
      let c0 : Ckpt := ⟨v.label, v.consist, v.gen, s.consist.rank, k + 1, shardsOf v, 0⟩
      let c : Ckpt := { c0 with mandig := mandigOf c0 }
      let t := s.updWay fun w => { w with slots := mset none w.slots (2 * k + v.slot) (some c) }
      if k = 2 then (stageOut t v.slot c).updWay fun w => { w with saves := mset none w.saves k (some { v with staged := true }) }
      else t.updWay fun w => { w with saves := mset none w.saves k none, labels := mset 0 w.labels k v.label }

def execCheckpointSaveComplete (tier : Fin 3) (s : State) : Result := .next (saveComplete s tier.val)

/-- TIER3_STAGED: a tier-3 save is staged, and waits for its release (R495). -/
def tier3Staged (s : State) : State :=
  match mget none s.way.saves 2 with
  | none => s
  | some v =>
    if v.staged then
      (s.updWay fun w => { w with saves := mset none w.saves 2 none, unreleased := v.slot :: w.unreleased }).raise
        0x0025 (v.label % 2 ^ 32) v.slot
    else s

def execTier3Staged (s : State) : Result := .next (tier3Staged s)

-- commit and skip (R39, R40, R427, R457, R458, R490)

/-- R458: the descriptor that regenerates an entry; a frozen entry's turn is a transfer of nothing that signals RSEM alike. -/
def regenDesc (s : State) (e : DirEntry) : List Byte :=
  let n := entryBlocks e
  if e.frozen then leBytes 1 1 ++ leBytes 1 8 ++ leBytes 2 s.consist.rsem ++ zeros 60
  else
    leBytes 1 5 ++ leBytes 1 8 ++ leBytes 2 s.consist.rsem ++ zeros 2 ++ leBytes 1 0x14 ++ zeros 1
      ++ leBytes 8 (activeBase s + e.offset) ++ leBytes 8 e.fp8 ++ leBytes 8 (e.fp8 + 4096 * n)
      ++ leBytes 8 16384 ++ leBytes 8 4096 ++ leBytes 4 n ++ leBytes 2 4096 ++ zeros 2 ++ leBytes 4 one32 ++ zeros 4

/-- R458: the module's entries that have an FP8 copy, in ascending index. -/
def regenEntries (s : State) : List (Nat × DirEntry) := s.tender.dir.filter fun e => owned s e.2 && e.2.fp8 != 0

/-- R34, R458: the entries still to be regenerated go to the reserved mover, in ascending index.  Their descriptors carry ring pair 256,
which no command has, and the entry's index. -/
def regenQueue (s : State) : State :=
  s.updMover s.consist.mover fun k => { k with
    extra := k.extra ++ s.tender.regen.map fun x => (k.tail, 256, x, regenDesc s (s.dir x)) }

/-- R458: regeneration starts after a commit; after a skip RSEM advances past the entries at once. -/
def regenerate (s : State) (commit : Bool) : State :=
  let es := regenEntries s
  if commit then regenQueue (s.updTender fun t => { t with regen := es.map (·.1) })
  else s.semAdd s.consist.rsem (BitVec.ofNat 32 es.length)

/-- R532: STEP commands for step n complete. -/
def stepsDone (s : State) (n result : Nat) : State :=
  s.rings.pairs.foldl (fun t p => p.2.cmds.foldl (fun t c =>
    if c.op = 0x11 && c.started && !c.stale && par c.params 8 8 = n then ringDone t p.1 c.idx 0 result else t) t) s

/-- R457, R460: the Tender's part of a commit or skip. -/
def tenderEnd (s : State) (commit : Bool) : State :=
  let t := if commit then s.bump (.tender 7) else s.bump (.tender 6)
  t.updTender fun k => { k with
    active := if commit then !k.active else k.active
    margins := if commit then k.marginAcc else k.margins
    marginAcc := [] }

/-- R39, R490: a local decision that differs from the combined result. -/
def mismatch (s : State) (commit : Bool) : State :=
  let times := s.time.ns :: recent s.time.ns s.way.mismatches
  let t := (s.updWay fun w => { w with mismatches := times }).raise 0x0020 (b2n (!commit) + 2 * b2n commit) times.length
  let t := if s.way.built then
      rewriteEntry t s.tender.step fun f => putBits (putBits f 3 1 1) 1 1 (b2n commit)
    else t
  if 2 ≤ times.length then t.updWay fun w => { w with withdrawn := true } else t

/-- R489: the entry of a step that has ended goes to the flash mirror, when the partner holds the second copy. -/
def queueFlash (s : State) (n : Nat) : State :=
  if s.way.built && s.consist.partner.isSome then
    let ((e, _), t) := sysRead s (entryAddr s n) 4096 false
    t.updWay fun w => { w with toFlash := w.toFlash ++ [(n, e)] }
  else s

/-- R498, R502, R507: saves start at a commit, except in a replay. -/
def savesStart (s : State) (n : Nat) (commit : Bool) : State :=
  let t := s.updWay fun w => { w with tiersNow := 0 }
  if commit && !replaying s then (List.range 3).foldl (fun t k => saveStart t n k) t else t

/-- R220, R508, R591: what a decided step leaves in the Waybill and in Thonar. -/
def recordEnd (s : State) (n : Nat) (commit finite : Bool) : State :=
  let rep := replaying s
  let t := s.updWay fun w => { w with
    cold := if commit && !rep then w.cold - 1 else w.cold
    toCheck := if rep then some (n, finite, w.entry) else w.toCheck }
  if commit then t.updMgmt fun m => { m with lastCommit := s.time.ns } else t

/-- Everything that belongs to one step is cleared for the next (R457). -/
def stepClear (s : State) : State :=
  (s.updTender fun t => { t with
    done := false, contrib := false, contrib63 := false, doneBlk := 0, record := [], strictEv := [], qblk := [], qleaf := [], rho := []
    nonfin := false, result62 := none, skipBit := false, final := none, stop63 := false }).updWay fun w =>
    { w with lateSent := false, built := false, durable := false }

/-- R12: the quiescent point of a step boundary: a consist change takes effect first, so that a pace command due at the same boundary
applies under the new consist's rails (R54) and a cold start runs for its history length (R224); then the commands and the installs that
wait. -/
def stepBoundary (s : State) : State := installsApply (boundaryRun (consistRun (restorePace s) true))

/-- R39, R457: the commit or skip of the step in progress becomes visible on this module, and the next step begins. -/
def stepEnd (s : State) (commit : Bool) : State :=
  let n := s.tender.step
  let (nonfin, _, stop) := s.tender.result62.getD (false, false, false)
  let t := tenderEnd (stepPhase s 63) commit
  let t := latchWatch t (!commit)
  let t := powerStepEnd (ledgerReset t) commit
  let t := if s.tender.skipBit = commit then mismatch t commit else t
  let t := recordEnd (queueFlash t n) n commit (!nonfin)
  let t := savesStart t n commit
  let t := stepsDone t n (b2n commit + 2 * b2n (!nonfin))
  let t := (stepClear t).updTender fun k => { k with step := n + 1 }
  let t := regenerate (stepBoundary t) commit
  if stop then t.stopModule 6 else if t.halted then t else beginStep t

/-- R428: whether a commit or skip result can reach the module: its contribution has been sent, and the root has decided so. -/
def decided (s : State) (skip : Bool) : Bool :=
  s.tender.run && s.tender.contrib63 && (s.consist.rank != 0 || s.tender.final = some skip)


-- replay (R508, R512)

/-- R508: the first shard of a checkpoint whose extent in the active buffer has another digest. -/
def shardDiff (s : State) (c : Ckpt) : Option Nat × State :=
  (c.shards.zipIdx).foldl (fun (q : Option Nat × State) p =>
    match q.1, p.1.pbase with
    | none, some b =>
      match q.2.tender.dir.find? fun e => owned s e.2 && e.2.pbase = b && e.2.len = p.1.len with
      | some e =>
        let (bs, t) := extentBytes q.2 (activeBase s) e.2
        (if shaNat bs = p.1.digest then none else some p.2, t)
      | none => q
    | _, _ => q) (none, s)

/-- R508: the first difference from any complete checkpoint with a label. -/
def labelDiff (s : State) (n : Nat) : Option Nat × State :=
  s.way.slots.foldl (fun (q : Option Nat × State) p =>
    match q.1, p.2 with
    | none, some c => if c.label = n && c.rank = s.consist.rank then shardDiff q.2 c else q
    | _, _ => q) (none, s)

/-- R512: a divergence that names a shard: a self-test is due; a second within 3,600 s withdraws the module. -/
def shardDiverged (s : State) : State :=
  let times := s.time.ns :: recent s.time.ns s.way.divTimes
  s.updWay fun w => { w with divTimes := times, testDue := true, withdrawn := w.withdrawn || 2 ≤ times.length }

/-- REPLAY_STEP_CHECK (R508). -/
def replayCheck (s : State) : State :=
  match s.way.toCheck with
  | none => s
  | some (n, fin, e) =>
    let t := s.updWay fun w => { w with toCheck := none }
    let (x, t) := if t.tender.step = n + 1 then labelDiff t n else (none, t)
    let d0 := fin != entryFlag e 0
    let d1 := leNat (stageRaw s 0xB8 4) != entryNat e 0xB8 4
    if !d0 && !d1 && x = none then t
    else
      let t := ((t.updWay fun w => { w with diverged := true }).bump (.waybill 2)).raise 0x0023
        (b2n d0 + 2 * b2n d1 + 4 * b2n x.isSome) (x.getD 0xFFFF)
      if x.isSome then shardDiverged t else t

def execReplayStepCheck (s : State) : Result := .next (replayCheck s)

-- losing a module (R513)

/-- PEER_LOST: no coupling and no relay has led to a populated position for 1 ms (R513); what used the module ends with CODE 7 (R352,
R407). -/
def execPeerLost (position : Fin 8) (s : State) : Result :=
  .next (
    let q := position.val
    if q = s.consist.position || !s.consist.populated.getLsbD q || reachable s q then s
    else
      let t := match rankOfPos s q with
        | some r => memberLost s r
        | none => s
      (t.raise 0x0050 ((rankOfPos s q).getD 0xFFFF) 0xFFFF).raiseStop 4 2)

end Sys2Proof.Machine
end

