-- ==== Sys2Proof/Machine/Rings.lean ====
section
/-! DEFINITION. Ring pairs, completions, events and MSI-X (R523 to R537, R606 to R612), with the meanings of their commands. -/

namespace Sys2Proof.Machine

-- the region of a pair (R523, R607)

/-- R523: entries of each ring of a pair. -/
def Pair.entries (p : Pair) : Nat := 2 ^ p.size

def Pair.base (p : Pair) : Nat := p.addr * 4096

/-- R523: the host address of a submission entry, of a completion entry and of the shadow line. -/
def Pair.sqAddr (p : Pair) (i : BitVec 32) : Nat := p.base + 64 * (i.toNat % p.entries)
def Pair.cqAddr (p : Pair) (i : BitVec 32) : Nat := p.base + 64 * p.entries + 16 * (i.toNat % p.entries)
def Pair.shadowAddr (p : Pair) : Nat := p.base + 80 * p.entries

/-- R607: RING_CFG as it reads. -/
def Pair.cfg (p : Pair) : Nat :=
  b2n (p.state = 1) + 2 * p.cls + 8 * b2n p.watch + 16 * p.size + 2 ^ 8 * p.vec + 2 ^ 16 * p.coalCnt + 2 ^ 24 * p.coalTime

/-- A pair with the fields of a RING_CFG write but EN. -/
def Pair.withCfg (p : Pair) (v : Nat) : Pair :=
  { p with cls := bits v 1 2, watch := bit v 3, size := bits v 4 4, vec := bits v 8 6, coalCnt := bits v 16 8, coalTime := bits v 24 16 }

def ringFin (r : Nat) : RingNo := ⟨r % 256, Nat.mod_lt _ (by decide)⟩

/-- R536, R587: the host expert flag. -/
def hostExpert (s : State) : Bool := s.expert 12

-- RING_BASE and RING_CFG (R608, R609)

/-- R608: the lowest code that rejects an enabling write. -/
def enableError (s : State) (r v : Nat) : Nat :=
  if !s.sys.ready then 1
  else if bits v 4 4 < 4 || 12 < bits v 4 4 then 2
  else if bits v 1 2 = 3 then 3
  else if bits v 1 2 = 2 && s.rings.pairs.any fun e => e.1 != r && e.2.state != 0 && e.2.cls = 2 then 4
  else if (s.pair r).addr = 0 then 6
  else 0

def ringErr (s : State) (r code : Nat) : State := s.updPair r fun p => { p with err := code }

/-- The bits of RING_CFG that a write changes. -/
def cfgBits (v : Nat) : Nat := bits v 0 14 + 2 ^ 16 * bits v 16 24

/-- R608, R609, R610: a write of RING_CFG. -/
def cfgWrite (s : State) (r v : Nat) : State :=
  let p := s.pair r
  let en := bit v 0
  if p.state = 2 then ringErr s r 5
  else if p.state = 1 then
    if en then ringErr s r (if cfgBits v = p.cfg then 0 else 5)
    else s.updPair r fun p => { p with state := 2, err := 0, cmds := p.cmds.filter fun c => c.started || c.done.isSome }
  else if en then
    let e := enableError s r v
    if e != 0 then ringErr s r e
    else s.updPair r fun p => { p.withCfg v with
      state := 1, err := 0, sqTail := 0, sqHead := 0, cqTail := 0, cqHead := 0, cmds := [], toSignal := 0, snap := 0, hold := none }
  else s.updPair r fun p => { p.withCfg v with err := 0 }

/-- R607, R608: a write of RING_BASE. -/
def baseWrite (s : State) (r v : Nat) : State :=
  if (s.pair r).state != 0 then ringErr s r 5 else s.updPair r fun p => { p with addr := v % 2 ^ 64 / 4096 }

def execRingEnableWrite (r : RingNo) (v : Word) (s : State) : Result := .next (cfgWrite s r.val (v.toNat ||| 1))
def execRingDisableWrite (r : RingNo) (v : Word) (s : State) : Result := .next (cfgWrite s r.val (putBits v.toNat 0 1 0))

/-- RING_DRAINED: the last completion of a draining pair is written (R609). -/
def execRingDrained (r : RingNo) (s : State) : Result :=
  .next (s.updPair r.val fun p => if p.state = 2 && p.cmds = [] then { p with state := 0 } else p)

-- doorbells and the shadow line (R535, R536, R611)

def ringDiscard (s : State) (r : Nat) : State := s.bump (.ringDiscards (ringFin r))

/-- R535: a new submission tail. -/
def newTail (s : State) (r : Nat) (v : BitVec 32) : State :=
  let p := s.pair r
  if !reached v p.sqTail || p.entries < (v - p.sqHead).toNat then ringDiscard s r else s.updPair r fun p => { p with sqTail := v }

/-- R535: a new completion head. -/
def newHead (s : State) (r : Nat) (v : BitVec 32) : State :=
  if reached (s.pair r).cqTail v then s.updPair r fun p => { p with cqHead := v } else ringDiscard s r

/-- R536: a pair in doorbell-free mode. -/
def doorbellFree (s : State) (r : Nat) : Bool := hostExpert s && (s.pair r).watch

/-- R611: a doorbell write: ignored in doorbell-free mode, discarded when the pair is not On. -/
def doorbell (s : State) (r : Nat) (head : Bool) (v : BitVec 32) : State :=
  if (s.pair r).state != 1 then ringDiscard s r
  else if doorbellFree s r then s
  else if head then newHead s r v else newTail s r v

def execDoorbellSqTail (r : RingNo) (v : Word32) (s : State) : Result := .next (doorbell s r.val false v)
def execDoorbellCqHead (r : RingNo) (v : Word32) (s : State) : Result := .next (doorbell s r.val true v)

/-- SHADOW_LINE_REREAD (R536). -/
def shadowReread (s : State) (r : Nat) : State :=
  let p := s.pair r
  if p.state != 1 || !doorbellFree s r || !s.sys.cxlUp then s
  else
    let f (o : Nat) : BitVec 32 := BitVec.ofNat 32 (leNat (getCells s.hostMem (p.shadowAddr + o) 4))
    newHead (newTail s r (f 0)) r (f 4)

def execShadowLineReread (r : RingNo) (s : State) : Result := .next (shadowReread s r.val)

-- fetching and starting (R525, R526, R531 to R533)

/-- R532: the ring classes that take an opcode, and whether it executes when halted. -/
def opClasses (op : Nat) : List Nat :=
  if op = 0x00 || op = 0x01 then [0, 1]
  else if op = 0x02 then [1]
  else if (0x10 ≤ op && op ≤ 0x16) || (0x20 ≤ op && op ≤ 0x23) || (0x30 ≤ op && op ≤ 0x35) then [0]
  else []

def opHalted (op : Nat) : Bool :=
  opClasses op != [] && !([0x01, 0x02, 0x11, 0x12, 0x21, 0x22, 0x34].contains op)

/-- R532: the parameter bytes of an opcode: entry offset and length. -/
def opParams (op : Nat) : List (Nat × Nat) :=
  match op with
  | 0x01 => [(8, 8), (0x10, 8)]
  | 0x02 => [(8, 8), (0x10, 8)]
  | 0x10 => [(8, 8), (0x10, 32)]
  | 0x11 => [(8, 8)]
  | 0x14 => [(8, 8), (0x10, 8), (0x18, 2)]
  | 0x15 => [(8, 4), (0x10, 8)]
  | 0x16 => [(8, 8)]
  | 0x20 => [(8, 8), (0x10, 2), (0x12, 2)]
  | 0x21 => [(8, 4), (0xC, 4)]
  | 0x22 => [(8, 2), (0xA, 2)]
  | 0x23 => [(8, 4), (0xC, 4), (0x10, 8)]
  | 0x30 => [(8, 8), (0x10, 8)]
  | 0x31 => [(8, 8), (0x10, 8)]
  | 0x32 => [(8, 2), (0xA, 2), (0xC, 8)]
  | 0x33 => [(8, 2)]
  | 0x34 => [(8, 1), (9, 1)]
  | 0x35 => [(8, 8), (0x10, 1)]
  | _ => []

/-- R525: reserved bits and unused bytes of an entry are 0. -/
def rsvClear (b : List Byte) : Bool :=
  let op := entryNat b 0 1
  entryNat b 1 1 < 4 && entryNat b 4 4 = 0 &&
    (List.range 56).all fun i =>
      (opParams op).any (fun q => q.1 ≤ 8 + i && 8 + i < q.1 + q.2) || b.getD (8 + i) 0 = 0

/-- R524: index a comes before b. -/
def idxBefore (a b : BitVec 32) : Bool := a != b && reached b a

/-- A fetched entry as a command; `stale` when R509 completes it. -/
def cmdOf (p : Pair) (b : List Byte) : RingCmd :=
  let op := entryNat b 0 1
  let held : Bool := match p.hold with
    | some h => idxBefore p.sqHead h && !(opHalted op && !idxBefore p.sqHead p.snap)
    | none => false
  ⟨p.sqHead, op, bit (entryNat b 1 1) 0, bit (entryNat b 1 1) 1, entryNat b 2 2, rsvClear b, (b.drop 8).take 56, false, held,
    if held then some (6, 0) else none⟩

/-- R532: a command whose opcode its ring does not take completes with status 2. -/
def undefinedOp (p : Pair) (c : RingCmd) : RingCmd :=
  if c.done = none && !((opClasses c.op).contains p.cls) then { c with started := true, done := some (2, 0) } else c

/-- RING_ENTRY_FETCH: over a link that is up, at most 16 entries ahead; none from an event ring; while Halted from control rings alone
(R526, R529, R531). -/
def entryFetch (s : State) (r : Nat) : State :=
  let p := s.pair r
  if p.state != 1 || !s.sys.cxlUp || p.cls = 2 || p.sqHead = p.sqTail || 16 ≤ p.cmds.length || (s.halted && p.cls != 0) then s
  else
    let c := cmdOf p (getCells s.hostMem (p.sqAddr p.sqHead) 64)
    let c := if s.halted then c else undefinedOp p c
    s.updPair r fun p => { p with
      sqHead := p.sqHead + 1, cmds := p.cmds ++ [c], hold := if p.hold = some (p.sqHead + 1) then none else p.hold }

def execRingEntryFetch (r : RingNo) (s : State) : Result := .next (entryFetch s r.val)

/-- The commands that stand before an index in a pair. -/
def earlier (p : Pair) (idx : BitVec 32) : List RingCmd := p.cmds.takeWhile fun c => c.idx != idx

/-- R525, R526, R531: whether a fetched command may start now. -/
def mayStart (s : State) (r : Nat) (c : RingCmd) : Bool :=
  let p := s.pair r
  p.state = 1 && !c.started && !c.stale && c.done = none && (opClasses c.op).contains p.cls
    && (!s.halted || (opHalted c.op && p.cls = 0))
    && (earlier p c.idx).all fun e => e.done.isSome || (!c.order && (e.started || (s.halted && !opHalted e.op)))

/-- A command of an opcode starts: a reserved field completes it with status 3 (R533), else `f` performs it. -/
def startCmd (s : State) (r : RingNo) (idx : BitVec 32) (op : Nat) (f : RingCmd → State → State) : State :=
  match (s.pair r.val).cmds.find? fun c => c.idx = idx && c.op = op with
  | none => s
  | some c =>
    if !mayStart s r.val c then s
    else
      let t := s.updPair r.val fun p => { p with cmds := p.cmds.map fun e => if e.idx = idx then { e with started := true } else e }
      if c.rsvOk then f c t else ringDone t r.val idx 3 0

-- completions (R526 to R528, R537)

/-- R527: the P bit of an index. -/
def phaseBit (p : Pair) (i : BitVec 32) : Nat := b2n (i.toNat / p.entries % 2 = 0)

/-- R527: writes a completion or event entry, whole. -/
def cqWrite (s : State) (r : Nat) (w0 w3 : Nat) (evBit : Nat) (status : Nat) (w8 : Nat) (irq : Bool) : State :=
  let p := s.pair r
  let bs := leBytes 2 w0 ++ leBytes 1 (phaseBit p p.cqTail + 2 * evBit + 4 * status) ++ leBytes 1 0 ++ leBytes 4 w3 ++ leBytes 8 w8
  let t : State := { s with hostMem := putBytes s.hostMem (p.cqAddr p.cqTail) bs }
  t.updPair r fun p => { p with
    cqTail := p.cqTail + 1
    toSignal := if irq then p.toSignal + 1 else p.toSignal
    sigAt := if irq && p.toSignal = 0 then s.time.ns else p.sigAt }

/-- R528: the completion ring holds fewer than E entries that the host has not consumed. -/
def cqRoom (p : Pair) : Bool := (p.cqTail - p.cqHead).toNat < p.entries

/-- COMPLETION_WRITE: the oldest command of a pair, once it has executed (R526). -/
def completionWrite (s : State) (r : Nat) : State :=
  let p := s.pair r
  match p.cmds with
  | [] => s
  | c :: rest =>
    match c.done with
    | none => s
    | some (st, res) =>
      if p.state = 0 || !s.sys.cxlUp || !cqRoom p then s
      else cqWrite (s.updPair r fun p => { p with cmds := rest }) r c.cid c.idx.toNat 0 st res c.irq

def execCompletionWrite (r : RingNo) (s : State) : Result := .next (completionWrite s r.val)

/-- R529: the event ring. -/
def eventRing (s : State) : Option Nat := (s.rings.pairs.find? fun e => e.2.state = 1 && e.2.cls = 2).map (·.1)

/-- EVENT_POST: the oldest event held, or the count of lost ones when none is held (R529, R530). -/
def eventPost (s : State) : State :=
  match eventRing s with
  | none => s
  | some r =>
    if !s.sys.cxlUp || !cqRoom (s.pair r) then s
    else
      match s.rings.events with
      | e :: rest =>
        cqWrite (s.updRings fun h => { h with events := rest }) r e.code e.arg 1 0 (e.step + e.extra * 2 ^ 48) true
      | [] =>
        if s.rings.lostNow = 0 then s
        else cqWrite (s.updRings fun h => { h with lostNow := 0 }) r 1 s.rings.lostNow 1 0 (s.tender.step % 2 ^ 48) true

def execEventPost (s : State) : Result := .next (eventPost s)

/-- MSIX_SIGNAL: one message for each completion, or by count and time with the host expert flag (R537). -/
def msixSignal (s : State) (r : Nat) : State :=
  let p := s.pair r
  if p.toSignal = 0 || !s.sys.cxlUp then s
  else if !hostExpert s then msix (s.updPair r fun p => { p with toSignal := p.toSignal - 1 }) p.vec
  else if p.coalCnt + 1 ≤ p.toSignal || p.sigAt + p.coalTime / 256 * 256 ≤ s.time.ns then
    msix (s.updPair r fun p => { p with toSignal := 0 }) p.vec
  else s

def execMsixSignal (r : RingNo) (s : State) : Result := .next (msixSignal s r.val)

/-- R612: pending messages whose masks are clear are sent. -/
def sendPending (s : State) : State :=
  (List.range 64).foldl (fun t v =>
    if t.rings.pba.getLsbD v && t.rings.unmasked.getLsbD v && !t.rings.funcMask then
      (t.updRings fun h => { h with pba := h.pba &&& ~~~((1 : BitVec 64) <<< v) }).send (.msix v)
    else t) s

/-- MSIX_UNMASK (R612). -/
def execMsixUnmask (vec : Fin 64) (s : State) : Result :=
  .next (sendPending (s.updRings fun h => { h with unmasked := h.unmasked ||| ((1 : BitVec 64) <<< vec.val) }))

-- leaving Halted (R429, R459, R474, R509)

/-- R509: at resume every command submitted before, and not completed, completes with status 6. -/
def ringsResume (s : State) : State :=
  s.updRings fun h => { h with pairs := mupdEach {} h.pairs fun p => { p with
    hold := if p.sqHead = p.sqTail then none else some p.sqTail
    cmds := p.cmds.map fun c =>
      let late : Bool := !c.started && c.done = none && !(opHalted c.op && p.cls = 0 && !idxBefore c.idx p.snap)
      if c.done = none && (c.stale || late) then { c with done := some (6, 0) } else c } }

/-- The command of a ring pair whose completion R509 has written has no effect. -/
def isStale (s : State) (r : Nat) (idx : BitVec 32) : Bool :=
  (s.pair r).cmds.any fun c => c.idx = idx && c.stale

/-- R509, R533: what stale commands would still have done is dropped. -/
def dropStale (s : State) : State :=
  let t := s.updTime fun m => { m with tods := m.tods.filter fun d => !(d.ring.any fun q => isStale s q.1 q.2) }
  { t with flows := mupdEach {} t.flows fun f =>
      if f.closing.any fun q => isStale s q.1 (BitVec.ofNat 32 q.2) then { f with closing := none } else f }

/-- R429, R459: the step in progress starts again from its boundary, unless its commit-barrier contribution decides it (R40). -/
def restartStep (s : State) : State :=
  if s.tender.contrib63 then s
  else
    let t := stepClear (ledgerReset s)
    let t := t.updTender fun k => { k with marginAcc := [], queue := [] }
    let t := t.updWay fun w => { w with toPartner := none, flashQ := [] }
    let t := (t.updChan 62 fun c => { c with got := [] }).updChan 63 fun c => { c with got := [] }
    if t.tender.run then beginStep t else t

/-- R429: the module leaves Halted; what the stop left of the regeneration of FP8 copies is issued anew (R34, R458). -/
def leaveHalted (s : State) : State :=
  let t := regenQueue (ringsResume (dropStale s))
  restartStep (t.updHalt fun h => { h with state := if h.due.isSome then 1 else 0 })

end Sys2Proof.Machine
end

