-- ==== Sys2Proof/Machine/Setup.lean ====
section
/-! DEFINITION. The set-up registers as they read (R543, R561, R562, R566, R602 to R605, R607, R610, R613). -/

namespace Sys2Proof.Machine

/-- R601: a field whose Reset is "—" reads 0 until READY is 1. -/
def whenReady (s : State) (v : Nat) : Nat := if s.sys.ready then v else 0

/-- R602: SYS_ID. -/
def sysIdWord (s : State) : Nat :=
  0x0496 + whenReady s (if Config.stepping then 2 else 1) * 2 ^ 16 + s.sys.geomWr.val % 2 ^ 31 * 2 ^ 32 + b2n s.sys.geomWr.ovf * 2 ^ 63

def sysSerialWord (s : State) : Nat := whenReady s Config.serial.toNat

/-- R603: SYS_STATUS. -/
def sysStatusWord (s : State) : Nat :=
  b2n s.sys.ready + 2 * b2n s.mgmt.probEnd.isSome + 4 * b2n s.sys.keyPend + whenReady s s.consist.number * 2 ^ 32

/-- R604: SYS_LINK. -/
def sysLinkWord (s : State) : Nat :=
  whenReady s (s.sys.rate + 4 * s.sys.width) + 2 ^ 7 * b2n s.sys.ideCm + 2 ^ 8 * b2n s.sys.ideIo

/-- R605: the window offsets, from SYS_GEOM_PTR to SYS_TENDER_PTR. -/
def windowOffsets : List Nat :=
  [0, 0x200000, 0x400000, 0x600000, 0x800000, 0xA00000, 0xC00000, 0xE00000, 0x1000000]

/-- R543, R544: STATUS of the time window, and TIME_STATUS. -/
def timeStatusWord (s : State) : Nat :=
  let t := s.time
  t.state + 4 * b2n t.set + 8 * b2n t.alarm + 16 * b2n t.rejected.ovf + 32 * b2n t.envFault

/-- R561: PWR_RAMP. -/
def pwrRampWord (s : State) : Nat :=
  s.power.rampLevel + 2 ^ 12 * b2n s.power.rampEn + 2 ^ 16 * s.power.rampTime

/-- R562: PWR_STATUS. -/
def pwrStatusWord (s : State) : Nat :=
  let p := s.power
  b2n p.limited + 2 * b2n p.fill + 4 * b2n p.throttle + 8 * b2n p.short + 16 * b2n p.leak + 32 * b2n p.trip + 64 * b2n p.envFault

/-- R562: PWR_DRAW; its measurements read 0 until READY is 1 (R601). -/
def pwrDrawWord (s : State) : Nat :=
  let p := s.power
  whenReady s (p.draw % 2 ^ 16 + p.target / 10 % 2 ^ 16 * 2 ^ 16 + p.predict % 2 ^ 16 * 2 ^ 32 + floorNow s % 2 ^ 16 * 2 ^ 48)

/-- R566: PWR_COOLANT. -/
def pwrCoolantWord (s : State) : Nat :=
  let p := s.power
  whenReady s (p.inlet.toNat + p.outlet.toNat * 2 ^ 16 + p.flow % 2 ^ 16 * 2 ^ 32 + p.duty % 2 ^ 10 * 2 ^ 48)

/-- R432: HALT as it reads. -/
def haltWord (s : State) : Nat :=
  let h := s.halt
  2 * h.scope + 8 * b2n h.sched + 16 * h.state + 2 ^ 7 * b2n h.late + 2 ^ 8 * h.source + 2 ^ 16 * h.time

-- output pins (R620); PPS_OUT is a field of the time state

/-- R620: PRESENT_N is low whenever the module is seated. -/
def presentN (s : State) : Bool := !s.sys.seated

/-- R620: ALERT_N is low while ENVFAULT, LEAK or TRIP of PWR_STATUS, or ALARM or ENVFAULT of TIME_STATUS, is 1. -/
def alertN (s : State) : Bool :=
  !(s.power.envFault || s.power.leak || s.power.trip || s.time.alarm || s.time.envFault)

/-- R620, R566: LEAK_N is low while the sensor senses a leak. -/
def leakN (s : State) : Bool := !s.power.leakLow

/-- R620, R565: COOL_DEM in units of D; 0 when the input is off. -/
def coolDem (s : State) : Nat := if s.sys.input then s.power.duty else 0

/-- R610: RING_STAT and RING_IDX. -/
def ringStatWord (s : State) (r : Nat) : Nat :=
  let p := s.pair r
  let l := s.rings.lost
  p.discards.val + 2 ^ 24 * l.val + 2 ^ 48 * b2n p.discards.ovf + 2 ^ 49 * b2n l.ovf + 2 ^ 50 * p.state + 2 ^ 52 * p.err

def ringIdxWord (s : State) (r : Nat) : Nat := (s.pair r).sqHead.toNat + (s.pair r).cqTail.toNat * 2 ^ 32

/-- R613: MGMT_CTRL, MGMT_STATUS and MGMT_LEN. -/
def mgmtCtrlWord (s : State) : Nat := 2 * b2n s.mgmt.ien + 2 ^ 8 * s.mgmt.vec
def mgmtStatusWord (s : State) : Nat := s.mgmt.state + 4 * b2n s.mgmt.done + 8 * b2n s.mgmt.reject

end Sys2Proof.Machine
end

