-- ==== Sys2Proof/Machine/Mgmt.lean ====
section
/-! DEFINITION. Management messages, the mailbox and sessions (R569 to R582, R613 to R615), with the meanings of their commands. -/

namespace Sys2Proof.Machine

-- paths and messages (R569 to R572)

/-- R569: a path whose medium is up while Thonar runs. -/
def pathUp (s : State) (p : Path) : Bool :=
  s.sys.thonar && match p with
    | .i3c => true
    | .uart => true
    | .cxl => s.sys.cxlUp
    | .mailbox => s.sys.cxlUp

/-- R572: the commands, whether they require a session (R579), and their payload's least and greatest length and reserved bytes. -/
def mgmtCmd (cmd : Nat) : Option (Bool × Nat × Nat × List Nat) :=
  match cmd with
  | 0x01 => some (false, 0, 0, [])
  | 0x02 => some (false, 32, 32, [])
  | 0x03 => some (false, 0, 0, [])
  | 0x04 => some (false, 0, 0, [])
  | 0x05 => some (false, 1, 1, [])
  | 0x06 => some (false, 1, 1, [])
  | 0x07 => some (false, 1, 1, [])
  | 0x10 => some (false, 36, 36, [1, 2, 3])
  | 0x11 => some (false, 52, 52, [])
  | 0x12 => some (true, 0, 0, [])
  | 0x20 => some (true, 36, 36, [1, 2, 3])
  | 0x21 => some (true, 97, 97, [])
  | 0x30 => some (true, 12, 4032, [])
  | 0x31 => some (true, 8, 8, [])
  | 0x32 => some (true, 0, 0, [])
  | 0x33 => some (true, 8, 8, [])
  | 0x34 => some (true, 8, 8, [])
  | 0x40 => some (true, 12, 4012, [2, 3])
  | 0x41 => some (true, 2, 2, [])
  | 0x42 => some (true, 2, 2, [])
  | 0x43 => some (true, 2, 2, [])
  | 0x50 => some (true, 2, 2, [])
  | 0x51 => some (true, 2, 2, [])
  | 0x52 => some (true, 2, 2, [])
  | 0x53 => some (true, 0, 0, [])
  | 0x54 => some (true, 1, 1, [])
  | 0x55 => some (true, 9, 9, [])
  | 0x56 => some (true, 0, 0, [])
  | _ => none

/-- R579, R580: the Consist, Firmware and Maintenance groups. -/
def privileged (cmd : Nat) : Bool := 0x30 ≤ cmd

/-- R580: a privileged operation in progress turns the command away; confirm and revert are accepted during probation. -/
def privBusy (s : State) (cmd : Nat) : Bool :=
  privileged cmd && s.mgmt.priv.isSome && !((cmd = 0x32 || cmd = 0x33) && s.mgmt.probEnd.isSome)

/-- R584: Thonar restarts into new firmware. -/
def thonarRestarts (s : State) : Bool :=
  match s.mgmt.priv with
  | some (.firmware c _) => c = 1
  | _ => false

/-- R570, R614: a message's length agrees with its own LEN field and MAC. -/
def msgOk (b : List Byte) : Bool :=
  16 ≤ b.length && b.length ≤ 4096 && b.length = 16 + entryNat b 0xC 4 + (if entryNat b 4 4 = 0 then 0 else 48)

/-- R576: the open session of a SID on a path, while its idle time has not run out. -/
def sessionOf (s : State) (p : Path) (sid : Nat) : Option Session :=
  s.mgmt.sessions.find? fun x => x.sid = sid && x.path = p && x.isOpen && s.time.ns < x.last + 900000000000

/-- R575: the MAC of a request and its SEQ. -/
def macOk (x : Session) (b : List Byte) : Bool :=
  let n := entryNat b 0xC 4
  b.drop (16 + n) = hmac384 x.ks (b.take (16 + n)) && entryNat b 8 4 = (x.seq + 1) % 2 ^ 32

/-- R575: an accepted request advances SEQ and restarts the idle timer. -/
def sessionAdvance (s : State) (sid : Nat) : State :=
  s.updMgmt fun m => { m with sessions := m.sessions.map fun x => if x.sid = sid then { x with seq := x.seq + 1, last := s.time.ns } else x }

/-- What a request completes with before it is executed: a status, or none when it is to be executed (R572, R579, R580, R533). -/
def admission (s : State) (cmd status sid seq : Nat) (payload : List Byte) : Option Nat :=
  match mgmtCmd cmd with
  | none => some 2
  | some (session, lo, hi, rsv) =>
    if session && sid = 0 then some 10
    else if status != 0 || (sid = 0 && seq != 0) || ((cmd = 0x10 || cmd = 0x11) && sid != 0) then some 4
    else if privBusy s cmd then some 8
    else if payload.length < lo || hi < payload.length then some 4
    else if rsv.any fun i => payload.getD i 0 != 0 then some 3
    else none

/-- R570 to R580: a message arrives on a path and is checked. -/
def receive (s : State) (p : Path) (b : List Byte) : State :=
  if !msgOk b then respond s ⟨p, 0, 0, 0, [], s.mgmt.boxGen⟩ 4 []
  else
    let cmd := entryNat b 0 2
    let sid := entryNat b 4 4
    let seq := entryNat b 8 4
    let payload := (b.drop 16).take (entryNat b 0xC 4)
    let x := sessionOf s p sid
    let ask : Ticket := ⟨p, cmd, sid, seq, (x.map (·.ks)).getD [], s.mgmt.boxGen⟩
    if thonarRestarts s then respond s ask 8 []
    else if sid != 0 && !(x.any fun x => macOk x b) then respond s ask 11 []
    else
      let t := if sid = 0 then s else sessionAdvance s sid
      match admission t cmd (entryNat b 2 2) sid seq payload with
      | some st => respond t ask st []
      | none => t.updMgmt fun m => { m with inbox := m.inbox ++ [(ask, payload)] }

/-- MGMT_MESSAGE_RECEIVE: a message arrives on an MCTP path that is up; the mailbox takes its messages by MGMT_GO. -/
def execMgmtMessageReceive (path : Path) (bytes : List Byte) (s : State) : Result :=
  .next (if pathUp s path && path != .mailbox then receive s path bytes else s)

/-- The oldest request of a command on a path is executed. -/
def serve (p : Path) (cmd : Nat) (f : Ticket → List Byte → State → State) (s : State) : State :=
  match s.mgmt.inbox.find? fun e => e.1.path = p && e.1.cmd = cmd with
  | none => s
  | some e => f e.1 e.2 (s.updMgmt fun m => { m with inbox := m.inbox.erase e })

/-- A command that answers with a status alone when it is turned away. -/
def deny (ask : Ticket) (status : Nat) (s : State) : State := respond s ask status []

-- the mailbox (R613 to R615)

/-- Bytes of MGMT_BUF. -/
def boxBytes (s : State) (n : Nat) : List Byte := (List.range n).map fun i => mget 0 s.mgmt.buf i

/-- R613, R614: a write of MGMT_CTRL; GO hands the request over. -/
def mgmtGo (s : State) (v : Nat) : State :=
  let t := s.updMgmt fun m => { m with ien := bit v 1, vec := bits v 8 6 }
  if !bit v 0 then t
  else if s.mgmt.state != 0 then t.updMgmt fun m => { m with reject := true }
  else
    let n := s.mgmt.len
    let u := t.updMgmt fun m => { m with state := 1 }
    if n < 16 || 4096 < n then deny ⟨.mailbox, 0, 0, 0, [], s.mgmt.boxGen⟩ 4 u else receive u .mailbox (boxBytes s n)

def execMgmtGo (v : Word32) (s : State) : Result := .next (if s.sys.cxlUp then mgmtGo s (v.toNat ||| 1) else s)

/-- MGMT_RESPONSE_READY: the response and its length are written, STATE becomes 2, and the vector is signalled (R614). -/
def execMgmtResponseReady (s : State) : Result :=
  .next (match s.mgmt.resp with
    | none => s
    | some bs =>
      let t := s.updMgmt fun m => { m with
        resp := none, state := 2, done := true, len := bs.length
        buf := (bs.zipIdx).foldl (fun b e => mset 0 b e.2 e.1) [] }
      if s.mgmt.ien then msix t s.mgmt.vec else t)

/-- MGMT_DONE_CLEAR: writing 1 to DONE returns the mailbox to idle (R613). -/
def mgmtDoneClear (s : State) : State := s.updMgmt fun m => if m.done then { m with done := false, state := 0 } else m

def execMgmtDoneClear (s : State) : Result := .next (mgmtDoneClear s)

/-- R615: a reset returns the mailbox to STATE 0 and clears the buffer; responses to requests already taken are discarded. -/
def boxReset (s : State) : State :=
  s.updMgmt fun m => { m with state := 0, done := false, reject := false, len := 0, buf := [], resp := none, boxGen := m.boxGen + 1 }

-- identity and status (R581, R582, R572)

/-- R372, R581: the digest of the device identity. -/
def identityDigest : List Byte := sha384 Config.deviceKey

def cmdGetIdentity (ask : Ticket) (_ : List Byte) (s : State) : State :=
  respond s ask 0 (Config.deviceKey ++ zeros 3 ++ identityDigest ++ leBytes 4 Config.certificate.length ++ Config.certificate)

def execGetIdentity (path : Path) (s : State) : Result := .next (serve path 0x01 cmdGetIdentity s)

/-- The active image of a component, and the inactive slot. -/
def Fw.active (k : Fw) : Option Image := if k.slotB then k.b else k.a
def Fw.inactive (k : Fw) : Option Image := if k.slotB then k.a else k.b

/-- R582: a measurement record. -/
def record (comp slot version svn digest : Nat) : List Byte :=
  leBytes 2 comp ++ leBytes 1 slot ++ zeros 1 ++ leBytes 4 version ++ leBytes 4 svn ++ zeros 4 ++ leBytes 48 digest

/-- R582: the record of a component with slots. -/
def fwRecord (s : State) (comp : Nat) : List Byte :=
  let k := s.fwOf comp
  let i := k.active.getD ⟨comp, 0, 0, 0, 0⟩
  record comp (b2n k.slotB) i.version i.svn i.digest

/-- R582: the 18 records. -/
def measurements (s : State) : List Byte :=
  let fixed (c : Nat) : List Byte := record c 0xFF (Config.measureVersion c) (Config.measureSvn c) (Config.measureDigest c)
  fixed 0 ++ ([1, 2, 3, 0x10, 0x11, 0x12, 0x13, 0x14, 0x15, 0x16, 0x17, 0x20, 0x21, 0x22, 0x23].flatMap (fwRecord s))
    ++ record 0x30 0xFF s.consist.number (Config.measureSvn 0x30) (s.consist.digest.getD (Config.measureDigest 0x30)) ++ fixed 0x31

def cmdAttest (ask : Ticket) (pl : List Byte) (s : State) : State :=
  let rs := measurements s
  let (v, u) := s.free
  respond u ask 0 (pl ++ leBytes 4 18 ++ rs ++ Config.sign (shaNat (pl ++ rs)) v)

def execAttest (path : Path) (s : State) : Result := .next (serve path 0x02 cmdAttest s)

def cmdStatus (ask : Ticket) (_ : List Byte) (s : State) : State :=
  respond s ask 0 (leBytes 8 (sysStatusWord s) ++ leBytes 4 (pwrStatusWord s) ++ leBytes 4 (timeStatusWord s)
    ++ leBytes 8 (pwrDrawWord s) ++ leBytes 8 (pwrCoolantWord s) ++ leBytes 8 s.time.ns)

def execMgmtStatusCmd (path : Path) (s : State) : Result := .next (serve path 0x03 cmdStatus s)

/-- R52: the rates that Thonar sampled last. -/
def cmdPaceReport (ask : Ticket) (_ : List Byte) (s : State) : State :=
  let r := s.power.paceRep
  respond s ask 0 (((r.take 6).flatMap (leBytes 2)) ++ zeros 4 ++ leBytes 8 (r.getD 6 0))

def execPaceReport (path : Path) (s : State) : Result := .next (serve path 0x04 cmdPaceReport s)

def cmdMgmtMem (ask : Ticket) (pl : List Byte) (s : State) : State :=
  let k := entryNat pl 0 1
  if 7 < k then deny ask 4 s else respond s ask 0 (memStatus s k)

def execMgmtMemStatus (path : Path) (s : State) : Result := .next (serve path 0x05 cmdMgmtMem s)

def cmdMgmtPort (ask : Ticket) (pl : List Byte) (s : State) : State :=
  let p := entryNat pl 0 1
  if 11 < p then deny ask 4 s
  else
    let t := measureBer s p
    respond t ask 0 (portStatus t p)

def execMgmtPortStatus (path : Path) (s : State) : Result := .next (serve path 0x06 cmdMgmtPort s)

/-- R295: the counters of a slice in table order, and their sticky bits. -/
def cmdLlc (ask : Ticket) (pl : List Byte) (s : State) : State :=
  let k := entryNat pl 0 1
  if 63 < k then deny ask 4 s
  else
    let t := s.slice k
    let cs := [t.applied, t.forwarded, t.lost, t.pinLimit, t.uncorr]
    respond s ask 0 (cs.flatMap (fun c => leBytes 8 c.val) ++ leBytes 4 ((cs.zipIdx).foldl (fun n c => n + b2n c.1.ovf * 2 ^ c.2) 0))

def execLlcCounters (path : Path) (s : State) : Result := .next (serve path 0x07 cmdLlc s)

-- sessions (R573 to R578)

def tag (a b c d : Nat) : List Byte := [a, b, c, d].map (BitVec.ofNat 8)
def tsrv : List Byte := tag 0x54 0x53 0x52 0x56
def treq : List Byte := tag 0x54 0x52 0x45 0x51
def tkey : List Byte := tag 0x54 0x4B 0x45 0x59
def tcrd : List Byte := tag 0x54 0x43 0x52 0x44

/-- R574: a proof or key under a credential. -/
def proof (k : BitVec 256) (what nr nt : List Byte) (sid : Nat) : List Byte :=
  hmac384 (leBytes 32 k.toNat) (what ++ nr ++ nt ++ leBytes 4 sid)

/-- R574: a non-zero SID that no session bears; which one is a free value. -/
def newSid (s : State) (v : Nat) : Nat :=
  let cand (i : Nat) : Nat := (v + i) % (2 ^ 32 - 1) + 1
  cand (((List.range (s.mgmt.sessions.length + 1)).find? fun i => !(s.mgmt.sessions.any fun x => x.sid = cand i)).getD 0)

def openCount (s : State) : Nat := (s.mgmt.sessions.filter fun x => x.isOpen).length

/-- SESSION_OPEN: a session is offered; the last offer of a path stands (R574, R576, R577). -/
def cmdSessionOpen (ask : Ticket) (pl : List Byte) (s : State) : State :=
  let slot := entryNat pl 0 1
  let nr := (pl.drop 4).take 32
  if s.mgmt.locked.any fun l => l.1 = ask.path && s.time.ns < l.2 then deny ask 12 s
  else if 3 < slot then deny ask 4 s
  else if 8 ≤ openCount s then deny ask 8 s
  else
    match mget none s.mgmt.creds slot with
    | none => deny ask 5 s
    | some k =>
      let (v, t) := s.free
      let (w, t) := t.free
      let nt := leBytes 32 v
      let sid := newSid s w
      let x : Session := ⟨sid, ask.path, slot, nr, nt, proof k tkey nr nt sid, 0, s.time.ns, false⟩
      let u := t.updMgmt fun m => { m with sessions := (m.sessions.filter fun y => y.isOpen || y.path != ask.path) ++ [x] }
      respond u ask 0 (nt ++ leBytes 4 sid ++ proof k tsrv nr nt sid)

def execSessionOpen (path : Path) (s : State) : Result := .next (serve path 0x10 cmdSessionOpen s)

/-- R577: a failed proof on a path; the fifth within 60 s locks it for 60 s. -/
def failProof (p : Path) (s : State) : State :=
  let fs := (s.mgmt.fails.filter fun f => s.time.ns < f.2 + 60000000000) ++ [(p, s.time.ns)]
  if 5 ≤ (fs.filter fun f => f.1 = p).length then
    s.updMgmt fun m => { m with
      fails := fs.filter fun f => f.1 != p
      locked := (m.locked.filter fun l => l.1 != p) ++ [(p, s.time.ns + 60000000000)] }
  else s.updMgmt fun m => { m with fails := fs }

/-- SESSION_PROVE: the session opens when the proof matches (R574). -/
def cmdSessionProve (ask : Ticket) (pl : List Byte) (s : State) : State :=
  let sid := entryNat pl 0 4
  let offer := s.mgmt.sessions.find? fun x => x.sid = sid && x.path = ask.path && !x.isOpen
  let good : Bool := match offer with
    | some x => (match mget none s.mgmt.creds x.slot with
      | some k => pl.drop 4 = proof k treq x.nr x.nt sid
      | none => false)
    | none => false
  if !good then deny ask 11 (failProof ask.path s)
  else if 8 ≤ openCount s then deny ask 8 s
  else respond (s.updMgmt fun m => { m with
    sessions := m.sessions.map fun x => if x.sid = sid then { x with isOpen := true, seq := 0, last := s.time.ns } else x }) ask 0 []

def execSessionProve (path : Path) (s : State) : Result := .next (serve path 0x11 cmdSessionProve s)

def closeSid (sid : Nat) (s : State) : State := s.updMgmt fun m => { m with sessions := m.sessions.filter fun x => x.sid != sid }

def cmdSessionClose (ask : Ticket) (_ : List Byte) (s : State) : State := closeSid ask.sid (respond s ask 0 [])

def execSessionClose (path : Path) (s : State) : Result := .next (serve path 0x12 cmdSessionClose s)

/-- SESSION_IDLE_TIMEOUT: 900 s without an accepted request (R576). -/
def execSessionIdleTimeout (sid : Word32) (s : State) : Result :=
  .next (s.updMgmt fun m => { m with
    sessions := m.sessions.filter fun x => !(x.sid = sid.toNat && x.isOpen && x.last + 900000000000 ≤ s.time.ns) })

/-- PATH_LOCKOUT_EXPIRY (R577). -/
def execPathLockoutExpiry (path : Path) (s : State) : Result :=
  .next (s.updMgmt fun m => { m with locked := m.locked.filter fun l => !(l.1 = path && l.2 ≤ s.time.ns) })

/-- CRED_SET (R578). -/
def cmdCredSet (ask : Ticket) (pl : List Byte) (s : State) : State :=
  let slot := entryNat pl 0 1
  let mask := leNat ((hmac384 ask.ks (tcrd ++ leBytes 4 ask.seq)).take 32)
  let v := entryNat pl 4 32 ^^^ mask
  let creds := mset none s.mgmt.creds slot (if v = 0 then none else some (BitVec.ofNat 256 v))
  if 3 < slot then deny ask 4 s
  else if creds = [] then deny ask 5 s
  else (respond s ask 0 []).updMgmt fun m => { m with creds := creds, sessions := m.sessions.filter fun x => x.slot != slot }

def execCredSet (path : Path) (s : State) : Result := .next (serve path 0x20 cmdCredSet s)

/-- CONSIST_KEY_SET: an uncompressed point (R572). -/
def cmdKeySet (ask : Ticket) (pl : List Byte) (s : State) : State :=
  if entryNat pl 0 1 != 4 then deny ask 4 s
  else respond (s.updMgmt fun m => { m with opKey := some pl }) ask 0 (sha384 pl)

def execConsistKeySet (path : Path) (s : State) : Result := .next (serve path 0x21 cmdKeySet s)

end Sys2Proof.Machine
end

