-- ==== Sys2Proof/Machine/Windows.lean ====
section
/-! DEFINITION. The windows of module memory (R605): the geometry table (R26 to R28), time (R542, R543, R551), movers (R327),
collective queues (R401), Cord (R408 to R414), watch (R229 to R243), schedule (R470), Waybill (R492) and Tender (R437 to R461), as
they read and as a write of some bytes acts on them. -/

namespace Sys2Proof.Machine

/-- A field of a record: offset, bytes and value. -/
abbrev Field := Nat × Nat × Nat

/-- The byte at an offset among fields; what no field covers reads 0 (R8). -/
def fieldByte (fs : List Field) (o : Nat) : Byte :=
  match fs.find? fun f => f.1 ≤ o && o < f.1 + f.2.1 with
  | some f => BitVec.ofNat 8 (f.2.2 / 2 ^ (8 * (o - f.1)))
  | none => 0

-- reads

/-- R27, R28: the geometry table. -/
def geomFields (s : State) : List Field :=
  [(0x000, 2, 1), (0x002, 2, 4), (0x004, 4, 4096), (0x008, 2, 96), (0x00A, 1, 10), (0x00B, 1, 10), (0x00C, 2, 4), (0x00E, 2, 2048),
   (0x010, 2, 128), (0x012, 1, 8), (0x013, 1, 4), (0x014, 2, 128), (0x016, 2, 128), (0x018, 2, 64), (0x01A, 2, 32),
   (0x01C, 2, 128), (0x01E, 2, 48), (0x020, 4, 65536), (0x024, 2, 64), (0x026, 2, 16), (0x028, 8, memBytes), (0x030, 2, 8),
   (0x032, 2, 512), (0x034, 2, 12), (0x036, 2, 7), (0x038, 4, 65536), (0x03C, 2, 4096), (0x03E, 2, 4096), (0x040, 2, 64),
   (0x042, 2, 4096), (0x044, 2, 1024), (0x046, 2, 64), (0x048, 2, 32), (0x04A, 2, 256), (0x04C, 2, 4096), (0x04E, 1, 48),
   (0x050, 8, flashBytes), (0x100, 4, s.sys.mapGen), (0x104, 2, s.sys.active),
   (0x108, 100, leNat (s.sys.posMap.take 100))]

/-- R542: HOLD and the fields of the time window. -/
def timeFields (s : State) : List Field :=
  let t := s.time
  [(0x000, 8, t.ns), (0x008, 4, timeStatusWord s), (0x00C, 4, intBits 32 (t.c.num / (max t.c.den 1 : Nat))),
   (0x010, 8, intBits 64 t.phase), (0x018, 4, holdNow t), (0x01C, 4, t.rejected.val)]

/-- R551: FLAGS of an alarm. -/
def alarmFlags (m : Alarm) : Nat := b2n m.fired + 2 * b2n m.late

def alarmFields (m : Alarm) : List Field := [(0, 8, m.time), (8, 2, m.notify.toNat), (0xA, 2, alarmFlags m)]

/-- R327: a mover's registers. -/
def moverFields (k : Mover) : List Field :=
  [(0, 8, k.qbase), (8, 1, k.qsize), (0xC, 4, k.tail.toNat), (0x10, 4, k.head.toNat), (0x14, 4, k.errors.val),
   (0x18, 4, b2n k.errors.ovf + 2 * b2n k.cur.isSome + 4 * b2n k.stopped)]

/-- R401: a collective queue's registers. -/
def collFields (k : CollQ) : List Field :=
  [(0, 8, k.qbase), (8, 1, k.qsize), (0xC, 4, k.tail.toNat), (0x10, 4, k.head.toNat), (0x14, 4, k.errors.val),
   (0x18, 4, b2n k.errors.ovf + 2 * b2n k.cur.isSome + 4 * b2n k.stopped)]

/-- R409: CONFIG of a channel. -/
def chanConfig (c : Channel) : Nat := c.locArr + c.scope * 2 ^ 9 + c.group * 2 ^ 11

def chanFields (c : Channel) : List Field :=
  [(0, 4, chanConfig c), (4, 4, c.phase.toNat), (8, 2, c.arrived), (0xA, 2, c.notify.toNat), (0xC, 4, b2n c.comps.ovf),
   (0x10, 8, c.comps.val)]

/-- R410: a semaphore. -/
def semFields (m : Sem) : List Field := [(0, 4, m.value.toNat), (4, 4, m.arm.toNat), (8, 2, m.notify.toNat)]

/-- R232, R233: a watch slot. -/
def slotFields (s : State) (k : Nat) : List Field :=
  let w := s.slot k
  let ovf := b2n w.elements.ovf + 2 * b2n w.zeros.ovf + 4 * b2n w.sats.ovf + 8 * b2n w.nonfin.ovf + 16 * b2n w.run.ovf
  [(0, 8, w.elements.val), (8, 8, w.zeros.val), (0x10, 8, w.sats.val), (0x18, 8, w.nonfin.val), (0x20, 4, w.amax),
   (0x24, 4, w.amaxLast), (0x28, 2, w.zshare), (0x2A, 2, w.run.val),
   (0x2C, 4, ovf + 2 ^ 8 * b2n w.alarm + 2 ^ 9 * b2n w.empty
     + whenReady s (2 ^ 10 * b2n (slotOn s k) + 2 ^ 12 * slotClass s k))]

/-- R242: an agreement record. -/
def agreeFields (a : Agree) : List Field :=
  [(0, 8, a.samples.val), (8, 8, a.skipped.val), (0x10, 8, a.above.val), (0x18, 4, a.maxErr),
   (0x1C, 4, b2n a.samples.ovf + 2 * b2n a.skipped.ovf + 4 * b2n a.above.ovf)]

/-- R245: the loss-watch record. -/
def lossFields (w : Watch) : List Field := [(0, 4, w.mu), (4, 4, w.var), (8, 4, w.last), (0xC, 4, w.steps.val), (0x10, 1, w.streak % 16)]

/-- R470: the schedule window but FOLD and SLOT. -/
def schedFields (s : State) : List Field :=
  let l := s.ledger
  let c := s.consist
  [(0x000, 4, l.b + l.p1 * 2 ^ 13), (0x00C, 4, b2n l.order + 2 * b2n l.rejects.ovf), (0x010, 2, l.opened),
   (0x012, 2, whenReady s c.freesem), (0x014, 2, whenReady s c.foldsem), (0x018, 8, s.tender.step), (0x020, 8, l.rejects.val),
   (0x028, 8, whenReady s c.rtab), (0x030, 2, whenReady s c.rcount)]

def schedByte (s : State) (o : Nat) : Byte :=
  let l := s.ledger
  if o < 0x40 then fieldByte (schedFields s) o
  else if o < 0xC0 then BitVec.ofNat 8 (mget 0 l.fold ((o - 0x40) / 2) / 2 ^ (8 * (o % 2)))
  else if o < 0x140 then BitVec.ofNat 8 ((mget none l.slot ((o - 0xC0) / 2)).getD 0xFFFF / 2 ^ (8 * (o % 2)))
  else 0

/-- R492: STATUS of the Waybill window. -/
def wayStatus (s : State) : Nat :=
  let w := s.way
  b2n w.mirrorLost + 2 * b2n w.stageLate + 4 * b2n w.diverged + 8 * b2n w.timeouts.ovf + 16 * b2n w.skipped.ovf
    + 32 * b2n w.divergences.ovf
    + ((List.range 3).foldl (fun t k => t + 2 ^ (6 + k) * b2n (mget none w.saves k).isSome) 0)

def wayFields (s : State) : List Field :=
  let w := s.way
  let c := s.consist
  [(0x000, 8, whenReady s c.ring), (0x008, 4, whenReady s c.entries), (0x00C, 2, whenReady s (c.partner.getD 0xFFFF)),
   (0x010, 8, w.last), (0x018, 8, w.flashed), (0x020, 8, w.ready), (0x028, 8, w.replayTo),
   (0x030, 8, mget 0 w.labels 0), (0x038, 8, mget 0 w.labels 1), (0x040, 8, mget 0 w.labels 2),
   (0x048, 4, whenReady s (tierInterval s 0 / 1000)), (0x04C, 4, whenReady s (tierInterval s 1 / 1000)),
   (0x050, 4, whenReady s (tierInterval s 2 / 1000)),
   (0x054, 4, wayStatus s), (0x058, 8, w.timeouts.val), (0x060, 8, w.skipped.val), (0x068, 8, w.divergences.val)]

/-- R437: the control region of the Tender window. -/
def tenderFields (s : State) : List Field :=
  let t := s.tender
  let c := s.consist
  [(0x00, 8, whenReady s c.bufA), (0x08, 8, whenReady s c.bufB), (0x10, 8, whenReady s c.scratch),
   (0x18, 4, b2n t.active + 2 * b2n t.done + 4 * b2n t.contrib + 8 * b2n (cwait s)),
   (0x1C, 2, whenReady s c.rsem), (0x1E, 2, whenReady s c.mover), (0x20, 8, t.step), (0x28, 4, tenderDue s), (0x2C, 4, t.doneBlk),
   (0x30, 8, t.applied.val), (0x38, 8, t.dropped.val), (0x40, 8, t.mixedGen.val), (0x48, 8, t.misrouted.val),
   (0x50, 8, t.duplicates.val), (0x58, 8, t.drainStalls.val), (0x60, 8, t.skips.val), (0x68, 8, t.commits.val),
   (0x70, 4, b2n t.applied.ovf + 2 * b2n t.dropped.ovf + 4 * b2n t.mixedGen.ovf + 8 * b2n t.misrouted.ovf
     + 16 * b2n t.duplicates.ovf + 32 * b2n t.drainStalls.ovf + 64 * b2n t.skips.ovf + 128 * b2n t.commits.ovf)]

def presetFields (p : Preset) : List Field := [(0, 4, p.lr), (4, 4, p.beta), (8, 4, p.lambda)]

/-- R461: a margin record. -/
def marginFields (m : Margin) : List Field :=
  [(0, 8, m.sumAbs), (8, 8, m.elements), (0x10, 4, m.blocks), (0x14, 4, m.zeroBlk), (0x18, 2, m.n),
   (0x1C, 4, if m.elements = 0 then 0 else fdivRound fmtFP32 (fofInt m.sumAbs) (fofInt (m.n * m.elements : Nat)))]

/-- A byte of a window page (R605); the rest of a window's page reads 0. -/
def windowByte (s : State) (pa : Nat) : Byte :=
  let o := pa % 0x200000
  match pa / 0x200000 with
  | 0 => if o < 4096 then fieldByte (geomFields s) o else 0
  | 1 =>
    if o < 0x100 then fieldByte (timeFields s) o
    else if o < 4096 then fieldByte (alarmFields (s.alarm ((o - 0x100) / 16))) (o % 16) else 0
  | 2 => if o < 2048 then fieldByte (moverFields (s.mover (o / 64))) (o % 64) else 0
  | 3 => if o < 512 then fieldByte (collFields (s.coll (o / 32))) (o % 32) else 0
  | 4 =>
    if o < 2048 then fieldByte (chanFields (s.chan (o / 32))) (o % 32)
    else if 0x1000 ≤ o && o < 0x11000 then fieldByte (semFields (s.sem ((o - 0x1000) / 16))) (o % 16) else 0
  | 5 =>
    if o < 0x10000 then fieldByte (slotFields s (o / 64)) (o % 64)
    else if o < 0x10C00 then fieldByte (agreeFields (s.agree ((o - 0x10000) / 32))) (o % 32)
    else if o < 0x10C40 then fieldByte (lossFields s.watch) (o - 0x10C00) else 0
  | 6 => if o < 512 then schedByte s o else 0
  | 7 =>
    if o < 0x1000 then fieldByte (wayFields s) o
    else if o < 0x2000 then mget 0 s.way.stage (o - 0x1000) else 0
  | _ =>
    let q := pa - 0x1000000
    if q < 0x400000 then (entryBytes (s.dir (q / 64))).getD (q % 64) 0
    else if q < 0x401000 then fieldByte (tenderFields s) (q - 0x400000)
    else if q < 0x401080 then fieldByte (presetFields (mget {} s.tender.presets ((q - 0x401000) / 16))) (q % 16)
    else if 0x402000 ≤ q && q < 0x402200 then fieldByte (marginFields (mget {} s.tender.margins ((q - 0x402000) / 32))) (q % 32)
    else 0

/-- n bytes of the windows, as one number. -/
def windowRead (s : State) (pa n : Nat) : Nat := leNat ((List.range n).map fun i => windowByte s (pa + i))

-- writes: the bytes of a field that a write does not carry keep their value, and those of an action read as 0

/-- Whether a write of bytes at an offset touches a field. -/
def wtouch (off len a : Nat) (bs : List Byte) : Bool := off < a + bs.length && a < off + len

/-- A field's value with the written bytes replaced. -/
def wmerge (cur off len a : Nat) (bs : List Byte) : Nat :=
  leNat ((List.range len).map fun i =>
    if a ≤ off + i && off + i < a + bs.length then bs.getD (off + i - a) 0 else BitVec.ofNat 8 (cur / 2 ^ (8 * i)))

/-- The effect of a write on one field. -/
def wfield (off len : Nat) (cur : State → Nat) (act : Nat → State → State) (a : Nat) (bs : List Byte) (s : State) : State :=
  if wtouch off len a bs then act (wmerge (cur s) off len a bs) s else s

def noCur (_ : State) : Nat := 0

/-- R635, R8: a rw1c bit of a statistics counter. -/
def clearIf (b : Bool) (r : StatRef) (s : State) : State := if b then statSet r (statGet r s).clear s else s

/-- R543: STATUS of the time window. -/
def timeStatusWrite (v : Nat) (s : State) : State :=
  let t := s.updTime fun t => { t with alarm := t.alarm && !bit v 3, envFault := t.envFault && !bit v 5 }
  clearIf (bit v 4) .timeWindow t

/-- R551: a write to an alarm record. -/
def alarmRecordWrite (x a : Nat) (bs : List Byte) (s : State) : State :=
  let s := wfield 8 2 (fun s => (s.alarm x).notify.toNat)
    (fun v s => s.updAlarm x fun m => { m with notify := BitVec.ofNat 16 (v % 2 ^ 10) }) a bs s
  let s := wfield 0xA 2 noCur
    (fun v s => s.updAlarm x fun m => { m with fired := m.fired && !bit v 0, late := m.late && !bit v 1 }) a bs s
  wfield 0 8 (fun s => (s.alarm x).time) (fun v s => alarmWrite s x v) a bs s

/-- R327 to R329: a write to a mover's registers. -/
def moverRecordWrite (m a : Nat) (bs : List Byte) (s : State) : State :=
  let s := wfield 0 8 (fun s => (s.mover m).qbase) (fun v s => moverConfig s m false v) a bs s
  let s := wfield 8 1 (fun s => (s.mover m).qsize) (fun v s => moverConfig s m true v) a bs s
  let s := wfield 0xC 4 (fun s => (s.mover m).tail.toNat) (fun v s => moverTail s m (BitVec.ofNat 32 v)) a bs s
  wfield 0x18 4 noCur (fun v s =>
    let t := clearIf (bit v 0) (.mover (moverFin m)) s
    if bit v 2 then t.updMover m fun k => { k with stopped := false } else t) a bs s

/-- R401, R328, R329: a write to a collective queue's registers. -/
def collRecordWrite (q a : Nat) (bs : List Byte) (s : State) : State :=
  let s := wfield 0 8 (fun s => (s.coll q).qbase) (fun v s => collConfig s q false v) a bs s
  let s := wfield 8 1 (fun s => (s.coll q).qsize) (fun v s => collConfig s q true v) a bs s
  let s := wfield 0xC 4 (fun s => (s.coll q).tail.toNat) (fun v s => collLoad (collTail s q (BitVec.ofNat 32 v)) q) a bs s
  wfield 0x18 4 noCur (fun v s =>
    let t := clearIf (bit v 0) (.collective (queueFin q)) s
    if bit v 2 then collLoad (t.updColl q fun k => { k with stopped := false }) q else t) a bs s

/-- R409, R412, R413: a write to a barrier channel. -/
def chanRecordWrite (c a : Nat) (bs : List Byte) (s : State) : State :=
  let s := wfield 0 4 (fun s => chanConfig (s.chan c)) (fun v s => configWrite s c v) a bs s
  let s := if 62 ≤ c then s else
    wfield 0xA 2 (fun s => (s.chan c).notify.toNat)
      (fun v s => s.updChan c fun k => { k with notify := BitVec.ofNat 16 (v % 2 ^ 10) }) a bs s
  wfield 0xC 4 noCur (fun v s => clearIf (bit v 0) (.cordChannel ⟨c % 64, Nat.mod_lt _ (by decide)⟩) s) a bs s

/-- R410, R412, R414: a write to a semaphore; ARM takes effect before VALUE. -/
def semRecordWrite (n a : Nat) (bs : List Byte) (s : State) : State :=
  let s := wfield 8 2 (fun s => (s.sem n).notify.toNat)
    (fun v s => s.updSem n fun k => { k with notify := BitVec.ofNat 16 (v % 2 ^ 10) }) a bs s
  let value := if wtouch 0 4 a bs then some (BitVec.ofNat 32 (wmerge (s.sem n).value.toNat 0 4 a bs)) else none
  if wtouch 4 4 a bs then armWrite s n (BitVec.ofNat 32 (wmerge (s.sem n).arm.toNat 4 4 a bs)) value
  else match value with
    | some v => s.semSet n v
    | none => s

/-- R230, R233, R234: the rw1c bits of a watch slot. -/
def slotRecordWrite (k a : Nat) (bs : List Byte) (s : State) : State :=
  wfield 0x2C 4 noCur (fun v s =>
    let f := slotFin k
    clearIf (bit v 4) (.watchSlot f 4) (clearIf (bit v 3) (.watchSlot f 3) (clearIf (bit v 2) (.watchSlot f 2)
      (clearIf (bit v 1) (.watchSlot f 1) (clearIf (bit v 0) (.watchSlot f 0) s))))) a bs s

/-- R242: the rw1c bits of an agreement record. -/
def agreeRecordWrite (c a : Nat) (bs : List Byte) (s : State) : State :=
  wfield 0x1C 4 noCur (fun v s =>
    let f := coachFin c
    clearIf (bit v 2) (.agreement f 2) (clearIf (bit v 1) (.agreement f 1) (clearIf (bit v 0) (.agreement f 0) s))) a bs s

/-- R470 to R474: a write to the schedule window; its rw1c bits are cleared before OPEN and FOLDED act, so that an event of the same write
leaves its bit set (R10). -/
def schedWrite (a : Nat) (bs : List Byte) (s : State) : State :=
  let s := wfield 0xC 4 noCur (fun v s =>
    clearIf (bit v 1) .sched (s.updLedger fun l => { l with order := l.order && !bit v 0 })) a bs s
  let s := wfield 0 4 (fun s => s.ledger.b + s.ledger.p1 * 2 ^ 13) (fun v s => ledgerConfig s v) a bs s
  let s := wfield 4 4 noCur (fun v s => ledgerOpen s v) a bs s
  wfield 8 4 noCur (fun v s => ledgerFolded s v) a bs s

/-- R485, R492: a write to the Waybill window. -/
def wayWrite (a : Nat) (bs : List Byte) (s : State) : State :=
  let s := s.updWay fun w => { w with
    stage := (bs.zipIdx).foldl (fun m e => if 0x1000 ≤ a + e.2 && a + e.2 < 0x2000 then mset 0 m (a + e.2 - 0x1000) e.1 else m)
      w.stage }
  let s := wfield 0x028 8 (fun s => s.way.replayTo) (fun v s => s.updWay fun w => { w with replayTo := v }) a bs s
  let s := wfield 0x054 4 noCur (fun v s =>
    let t := s.updWay fun w => { w with
      mirrorLost := w.mirrorLost && !bit v 0, stageLate := w.stageLate && !bit v 1, diverged := w.diverged && !bit v 2 }
    clearIf (bit v 5) (.waybill 2) (clearIf (bit v 4) (.waybill 1) (clearIf (bit v 3) (.waybill 0) t))) a bs s
  wfield 0x020 8 (fun s => s.way.ready) (fun v s => readyWrite s v) a bs s

/-- R437: the rw1c bits of the Tender window. -/
def tenderWrite (a : Nat) (bs : List Byte) (s : State) : State :=
  wfield 0x400070 4 noCur (fun v s =>
    (List.range 8).foldl (fun t i => clearIf (bit v i) (.tender ⟨i % 8, Nat.mod_lt _ (by decide)⟩) t) s) a bs s

/-- The records of `len` bytes each that a write touches, each given the write at its own offsets. -/
def records (base len count : Nat) (f : Nat → Nat → List Byte → State → State) (a : Nat) (bs : List Byte) (s : State) : State :=
  (List.range (bs.length / len + 2)).foldl (fun t j =>
    let x := a / len + j
    let lo := max a (x * len)
    let hi := min (a + bs.length) (x * len + len)
    if base ≤ x * len && x * len < base + count * len && lo < hi then
      f ((x * len - base) / len) (lo - x * len) ((bs.drop (lo - a)).take (hi - lo)) t
    else t) s

/-- A write of bytes to a window page by any agent (R26, R605). -/
def windowWrite (s : State) (pa : Nat) (bs : List Byte) : State :=
  let o := pa % 0x200000
  match pa / 0x200000 with
  | 0 => if o < 4096 then s.bump .sysId else s
  | 1 => records 0x100 16 240 alarmRecordWrite o bs (wfield 8 4 noCur timeStatusWrite o bs s)
  | 2 => records 0 64 32 moverRecordWrite o bs s
  | 3 => records 0 32 16 collRecordWrite o bs s
  | 4 => records 0x1000 16 4096 semRecordWrite o bs (records 0 32 64 chanRecordWrite o bs s)
  | 5 =>
    if 0x20000 ≤ o then (if o < 0x30000 then contribute s (o - 0x20000) bs.length (leNat bs) else s)
    else records 0x10000 32 96 agreeRecordWrite o bs (records 0 64 1024 slotRecordWrite o bs s)
  | 6 => schedWrite o bs s
  | 7 => wayWrite o bs s
  | _ => tenderWrite (pa - 0x1000000) bs s

-- the host's CXL.mem accesses (R520, R276)

/-- R520, R276: a host read of up to 64 bytes. -/
def hostMemRead (s : State) (addr n : Nat) : List Byte × Bool × State :=
  if memBytes < addr + n then (List.replicate n 0xFF, false, s)
  else if addr < windowEnd then (leBytes n (windowRead s addr n), false, s)
  else
    let ((bs, p), t) := sysRead s addr n false
    (bs, p, t)

/-- R520, R276: a host write of up to 64 bytes. -/
def hostMemWrite (s : State) (addr : Nat) (bs : List Byte) : State :=
  if memBytes < addr + bs.length then s
  else if addr < windowEnd then windowWrite s addr bs
  else sysWrite s addr bs false false

end Sys2Proof.Machine
end

