-- ==== Sys2Proof/Machine/Bar0.lean ====
section
/-! DEFINITION. The set-up space BAR0 as the host reads and writes it (R598 to R616), and the meanings of REGISTER_WRITE and
HALF_READ_LATCH. -/

namespace Sys2Proof.Machine

-- reads

/-- R612: an MSI-X table entry: address, data and vector control. -/
def msixEntry (s : State) (v : Nat) : Nat :=
  (mget 0 s.rings.msixAddr v).toNat + 2 ^ 96 * b2n (!s.rings.unmasked.getLsbD v)

/-- R598: the registers below the mailbox. -/
def bar0Fields (s : State) : List Field :=
  [(0x00, 8, sysIdWord s), (0x08, 8, sysSerialWord s), (0x10, 8, sysStatusWord s), (0x18, 4, sysLinkWord s),
   (0x100, 8, s.time.ns), (0x108, 4, timeStatusWord s), (0x180, 8, pwrRampWord s), (0x188, 4, pwrStatusWord s),
   (0x190, 8, pwrDrawWord s), (0x198, 8, pwrCoolantWord s),
   (0x800, 4, mgmtCtrlWord s), (0x804, 4, mgmtStatusWord s), (0x808, 4, s.mgmt.len)]

/-- R606: the registers of a ring pair. -/
def pairFields (s : State) (r : Nat) : List Field :=
  let p := s.pair r
  [(0, 8, p.base), (8, 8, p.cfg), (0x10, 8, ringStatWord s r), (0x18, 8, ringIdxWord s r)]

/-- A byte of BAR0. -/
def bar0Byte (s : State) (o : Nat) : Byte :=
  if 0x20 ≤ o && o < 0x68 then BitVec.ofNat 8 (windowOffsets.getD ((o - 0x20) / 8) 0 / 2 ^ (8 * (o % 8)))
  else if o < 0x1000 then fieldByte (bar0Fields s) o
  else if o < 0x2000 then (if s.mgmt.state = 1 then 0 else mget 0 s.mgmt.buf (o - 0x1000))
  else if o < 0x4000 then fieldByte (pairFields s ((o - 0x2000) / 32)) (o % 32)
  else if o < 0x4400 then BitVec.ofNat 8 (msixEntry s ((o - 0x4000) / 16) / 2 ^ (8 * (o % 16)))
  else if o < 0x4408 then BitVec.ofNat 8 (s.rings.pba.toNat / 2 ^ (8 * (o - 0x4400)))
  else if 0xF000 ≤ o && o < 0xF008 then BitVec.ofNat 8 (haltWord s / 2 ^ (8 * (o - 0xF000)))
  else 0

/-- R599: the accesses that BAR0 accepts. -/
def bar0Access (o n : Nat) : Bool :=
  o + n ≤ 65536 && o % n = 0 && (n = 4 || n = 8 || (0x1000 ≤ o && o < 0x2000 && (n = 1 || n = 2)))

/-- R598, R599: a read of BAR0. -/
def bar0Read (s : State) (o n : Nat) : Nat :=
  if bar0Access o n then leNat ((List.range n).map fun i => bar0Byte s (o + i)) else 0

-- writes

/-- R613, R614: a write of LEN. -/
def mgmtLenWrite (v : Nat) (s : State) : State :=
  if s.mgmt.state = 0 then s.updMgmt fun m => { m with len := v % 2 ^ 13 } else s.updMgmt fun m => { m with reject := true }

/-- R613: a write of MGMT_STATUS. -/
def mgmtStatusWrite (v : Nat) (s : State) : State :=
  let t := if bit v 2 then mgmtDoneClear s else s
  t.updMgmt fun m => { m with reject := m.reject && !bit v 3 }

/-- R614: a write of MGMT_BUF. -/
def mgmtBufWrite (o : Nat) (bs : List Byte) (s : State) : State :=
  if s.mgmt.state = 0 then
    s.updMgmt fun m => { m with buf := (bs.zipIdx).foldl (fun b e => mset 0 b (o + e.2) e.1) m.buf }
  else s.updMgmt fun m => { m with reject := true }

/-- R562: a write of PWR_STATUS. -/
def pwrStatusWrite (v : Nat) (s : State) : State :=
  s.updPower fun p => { p with
    limited := p.limited && !bit v 0, short := p.short && !bit v 3, trip := p.trip && !bit v 5, envFault := p.envFault && !bit v 6 }

/-- R610: a write of RING_STAT. -/
def ringStatWrite (r v : Nat) (s : State) : State :=
  clearIf (bit v 49) .ringLost (clearIf (bit v 48) (.ringDiscards (ringFin r)) s)

/-- R606 to R610: a write to a ring pair's registers. -/
def pairWrite (r a : Nat) (bs : List Byte) (s : State) : State :=
  let s := wfield 0 8 (fun s => (s.pair r).base) (fun v s => baseWrite s r v) a bs s
  let s := wfield 8 8 (fun s => (s.pair r).cfg) (fun v s => cfgWrite s r v) a bs s
  wfield 0x10 8 noCur (fun v s => ringStatWrite r v s) a bs s

/-- R612: a write to an MSI-X table entry; a message that waits is sent when its mask clears. -/
def msixWrite (v a : Nat) (bs : List Byte) (s : State) : State :=
  let w := wmerge (msixEntry s v) 0 16 a bs
  sendPending (s.updRings fun h => { h with
    msixAddr := mset 0 h.msixAddr v (BitVec.ofNat 96 w)
    unmasked := if bit w 96 then h.unmasked &&& ~~~((1 : BitVec 64) <<< v) else h.unmasked ||| ((1 : BitVec 64) <<< v) })

/-- R598 to R600: an accepted write of BAR0. -/
def bar0Put (s : State) (o : Nat) (bs : List Byte) : State :=
  let v := leNat bs
  if o < 0x800 then
    let s := wfield 0 8 noCur (fun v s => clearIf (bit v 63) .sysId s) o bs s
    let s := wfield 0x108 4 noCur timeStatusWrite o bs s
    let s := wfield 0x188 4 noCur pwrStatusWrite o bs s
    if o = 0x180 && bs.length = 8 then rampWrite s v else s
  else if o < 0x1000 then
    let s := wfield 0x804 4 noCur mgmtStatusWrite o bs s
    let s := wfield 0x808 4 noCur mgmtLenWrite o bs s
    wfield 0x800 4 noCur (fun v s => mgmtGo s v) o bs s
  else if o < 0x2000 then mgmtBufWrite (o - 0x1000) bs s
  else if o < 0x4000 then pairWrite ((o - 0x2000) / 32) (o % 32) bs s
  else if o < 0x4400 then msixWrite ((o - 0x4000) / 16) (o % 16) bs s
  else if o = 0xF000 && bs.length = 8 then haltWrite s v
  else s

def bar0Write (s : State) (o : Nat) (bs : List Byte) : State := if bar0Access o bs.length then bar0Put s o bs else s

/-- REGISTER_WRITE: a write of `size` bytes to BAR0, which the link must carry (R601), or to a window page (R605). -/
def registerWrite (space : RegSpace) (o size v : Nat) (s : State) : State :=
  let bs := leBytes size v
  match space with
  | .bar0 => if s.sys.cxlUp then bar0Write s o bs else s
  | .window => if o < windowEnd then windowWrite s o bs else s

def execRegisterWrite (space : RegSpace) (off : BitVec 40) (size : Fin 9) (v : Word) (s : State) : Result :=
  .next (registerWrite space off.toNat size.val v.toNat s)

/-- R600: the offset of a register whose halves latch. -/
def halfOffset : HalfReg → Nat
  | .timeNow => 0x100
  | .pwrDraw => 0x190

/-- R600: a 4-byte read of one half: the low half latches the high half, which that requester's next read of it returns. -/
def halfRead (requester : Nat) (reg : HalfReg) (high : Bool) (s : State) : State :=
  let w := bar0Read s (halfOffset reg) 8
  let mine (e : Nat × HalfReg × BitVec 32) : Bool := e.1 = requester && e.2.1 = reg
  let rest := s.rings.latched.filter fun e => !mine e
  if high then
    let v := ((s.rings.latched.find? mine).map fun e => e.2.2.toNat).getD (w / 2 ^ 32)
    (s.updRings fun h => { h with latched := rest }).send (.data (leBytes 4 v) false)
  else
    (s.updRings fun h => { h with latched := rest ++ [(requester, reg, BitVec.ofNat 32 (w / 2 ^ 32))] }).send
      (.data (leBytes 4 w) false)

def execHalfReadLatch (requester : Byte) (reg : HalfReg) (high : Bool) (s : State) : Result :=
  .next (if s.sys.cxlUp then halfRead requester.toNat reg high s else s)

end Sys2Proof.Machine
end

