-- ==== Sys2Proof/Machine/Translate.lean ====
section
/-! DEFINITION. Address translation of a coach (R71 to R77, R638): the walk through the LLC, the TLB and the non-leaf cache, the
permissions of a page, and where an access goes. -/

namespace Sys2Proof.Machine

/-- The kinds of access that translation tells apart; `shadow` is the access of CALL, RET and SSPSET (R103). -/
inductive Acc where | fetch | load | store | shadow
  deriving DecidableEq, Repr

/-- Where a physical access goes. -/
inductive Space where | mem | host | window | remote
  deriving DecidableEq, Repr

/-- A translated access: its space and address, whether it passes through the coach's caches, and the page's attributes. -/
structure Phys where
  space  : Space
  pa     : Nat
  cached : Bool
  wt     : Bool
  uok    : Bool
  depth  : Nat
  /-- Walk level of the leaf entry; 0 at M. -/
  level  : Nat
  deriving DecidableEq, Repr

/-- A translation or the exception it raises: cause and DETAIL. -/
inductive Xlat where
  | ok (p : Phys)
  | exc (cause detail : Nat)
  deriving DecidableEq, Repr

/-- R88: the page-fault cause of an access kind; a failed check of the shadow stack raises 0x0A. -/
def faultCause : Acc → Nat
  | .fetch => 1
  | .load => 2
  | .store => 3
  | .shadow => 0xA

/-- R88: a page fault of a walk level; a fetch fault and a shadow-stack fault do not give the level. -/
def pageFault (a : Acc) (level : Nat) : Xlat :=
  .exc (faultCause a) (match a with | .load => level | .store => level | _ => 0)

/-- R253, R254: whether a page is write-through: by the consist's regions, or by PTE.WT with the cache expert flag. -/
def writeThrough (s : State) (pa : Nat) (pte : Bool) : Bool :=
  if s.expert 2 then pte
  else s.consist.wpol.any fun r => r.2.2 && r.1 ≤ pa && pa < r.1 + r.2.1

/-- R263: prefetch depth of a page. -/
def prefetchDepth (s : State) (pfd : Nat) : Nat :=
  if s.expert 2 then (if pfd = 0 then 0 else 2 ^ pfd) else 4

/-- R638: an access at M. -/
def physAtM (s : State) (a : Acc) (va : Nat) : Xlat :=
  let bad : Xlat := .exc (faultCause a) 4
  if 2 ^ 50 ≤ va then bad
  else if 2 ^ 49 ≤ va then (if a = .fetch then bad else .ok ⟨.remote, va, false, false, true, 0, 0⟩)
  else if memBytes ≤ va then bad
  else if va < windowEnd then (if a = .fetch then bad else .ok ⟨.window, va, false, false, true, 0, 0⟩)
  else .ok ⟨.mem, va, true, writeThrough s va false, true, 4, 0⟩

/-- R71: bits [63:48] of a virtual address equal bit 47. -/
def canonicalVa (va : Nat) : Bool := va / 2 ^ 47 = 0 || va / 2 ^ 47 = 2 ^ 17 - 1

/-- R73: whether a leaf entry found at a level has a valid form. -/
def leafOk (level pte : Nat) : Bool :=
  level != 0 && bits pte 14 7 = 0 && bits pte 50 14 = 0 && (level = 2 || bits pte 21 9 = 0) &&
  (bit pte 1 || !bit pte 2) && (!bit pte 7 || (bit pte 1 && !bit pte 2 && !bit pte 3)) && bits pte 10 2 != 3

/-- R74: whether a non-leaf entry found at a level has a valid form. -/
def nodeOk (level pte : Nat) : Bool := level != 2 && bits pte 1 4 = 0 && bits pte 6 6 = 0 && bits pte 50 14 = 0

/-- R72: the index of a level. -/
def vaIndex (va level : Nat) : Nat := bits va (39 - 9 * level) 9

/-- A walk's outcome: the leaf entry, or an exception. -/
inductive WalkOut where
  | leaf (level pte : Nat)
  | bad (level : Nat)
  | poison (level : Nat)
  deriving DecidableEq, Repr

/-- R72 to R76: the walk from a table at a level; the levels still to read are the fuel.  The non-leaf cache is kept by physical
address, and the entry of the lowest address makes room for a seventeenth (row 76 of the log). -/
def walk (c : Nat) (va : Nat) : Nat → Nat → State → WalkOut × State
  | 0, _, s => (.bad 2, s)
  | n + 1, table, s =>
    let level := 2 - n
    let pa := table + 8 * vaIndex va level
    match mget 0 (s.coach c).nonleaf pa with
    | 0 =>
      if pa < windowEnd || memBytes ≤ pa then (.bad level, s)
      else
        let (v, t) := llcRead s (pa / 128) true
        let e := bits v.1.toNat (8 * (pa % 128)) 64
        if v.2.1.getLsbD (pa % 128 / 32) then (.poison level, t)
        else if !bit e 0 then (.bad level, t)
        else if bit e 5 then (if leafOk level e then (.leaf level e, t) else (.bad level, t))
        else if !nodeOk level e then (.bad level, t)
        else
          let t := t.updCoach c fun k => { k with
            nonleaf := mset 0 (if 16 ≤ k.nonleaf.length then k.nonleaf.drop 1 else k.nonleaf) pa (BitVec.ofNat 64 e) }
          walk c va n (bits e 12 38 * 4096) t
    | e => walk c va n (bits e.toNat 12 38 * 4096) s

/-- R76: whether a TLB entry maps an address for an ASID. -/
def tlbHit (asid : BitVec 12) (va : Nat) (e : TlbEntry) : Bool :=
  (e.pte.getLsbD 6 || e.asid = asid) && va % 2 ^ 48 / (if e.giga then 2 ^ 30 else 2 ^ 21) = e.vpn

/-- The ASID of a seat (R75, PTROOT). -/
def Seat.asid (t : Seat) : BitVec 12 := t.ptroot.truncate 12

/-- R76: the leaf entry of an address, from the TLB or by a walk that fills it; the oldest of 64 entries makes room. -/
def leafOf (r : SeatRef) (va : Nat) (s : State) : WalkOut × State :=
  let t := s.seat r
  match (s.coach r.coach).tlb.find? (tlbHit t.asid va) with
  | some e => (.leaf (if e.giga then 1 else 2) e.pte.toNat, s)
  | none =>
    match walk r.coach va 3 (bits t.ptroot.toNat 12 38 * 4096) s with
    | (.leaf level pte, u) =>
      let e : TlbEntry := ⟨va % 2 ^ 48 / (if level = 1 then 2 ^ 30 else 2 ^ 21), level = 1, t.asid, BitVec.ofNat 64 pte⟩
      (.leaf level pte, u.updCoach r.coach fun k => { k with tlb := (if 64 ≤ k.tlb.length then k.tlb.drop 1 else k.tlb) ++ [e] })
    | out => out

/-- R65, R73, R75, R103: whether a page's entry permits an access at a level; ordinary accesses do not reach SHD pages. -/
def permits (a : Acc) (user : Bool) (pte : Nat) : Bool :=
  let u := bit pte 4
  match a with
  | .fetch => (u || !user) && bit pte 3 && (!u || user)
  | .load => (u || !user) && bit pte 1 && !bit pte 7
  | .store => (u || !user) && bit pte 2 && !bit pte 7
  | .shadow => bit pte 7 && u = user

/-- R73: where a permitted access goes by the page's memory type; an address that the type does not reach faults (row 26). -/
def routed (s : State) (a : Acc) (va level pte : Nat) : Xlat :=
  let size := if level = 1 then 2 ^ 30 else 2 ^ 21
  let pa := bits pte 21 29 * 2 ^ 21 / size * size + va % size
  let wt := writeThrough s pa (bit pte 8)
  let uok := bit pte 9
  let depth := prefetchDepth s (bits pte 12 2)
  match bits pte 10 2 with
  | 0 => if windowEnd ≤ pa && pa < memBytes then .ok ⟨.mem, pa, true, wt, uok, depth, level⟩ else pageFault a level
  | 1 => .ok ⟨.host, pa, true, wt, uok, depth, level⟩
  | _ =>
    if 2 ^ 49 ≤ pa then (if a = .fetch || a = .shadow then pageFault a level else .ok ⟨.remote, pa, false, wt, uok, 0, level⟩)
    else if pa < windowEnd then (if a = .fetch then pageFault a level else .ok ⟨.window, pa, false, wt, uok, 0, level⟩)
    else if pa < memBytes then .ok ⟨.mem, pa, false, wt, uok, 0, level⟩
    else pageFault a level

/-- R65, R71 to R76, R638: translates an access of a seat.  A fault before any walk gives walk level 0 (row 76 of the log). -/
def translate (r : SeatRef) (a : Acc) (va : Nat) (s : State) : Xlat × State :=
  let t := s.seat r
  if t.level = .m then (physAtM s a va, s)
  else if !t.ptroot.getLsbD 50 || !canonicalVa va then (pageFault a 0, s)
  else
    match leafOf r va s with
    | (.leaf level pte, u) => (if permits a (t.level = .u) pte then routed s a va level pte else pageFault a level, u)
    | (.bad level, u) => (pageFault a level, u)
    | (.poison level, u) => (.exc 5 (4 + level), u)

/-- R77: drops TLB entries by a form, and every non-leaf entry. -/
def tlbDrop (form va : Nat) (asid : BitVec 12) (k : Coach) : Coach :=
  { k with
    nonleaf := []
    tlb := k.tlb.filter fun e =>
      if form = 0 then !tlbHit asid va e
      else if form = 1 then e.pte.getLsbD 6 || e.asid != asid
      else false }

end Sys2Proof.Machine
end

