-- ==== Sys2Proof/Machine/CoachMem.lean ====
section
/-! DEFINITION. The data side of a coach: L1 data cache and victim cache (R250 to R252), write policy and the merging write buffer
(R255 to R259), fills in flight (R255), the stride prefetcher (R261 to R263), LADDs in flight (R284, R285), and loads and stores
of a seat through them. -/

namespace Sys2Proof.Machine

-- LADDs that an access waits for (R269, R284, R292)

/-- R294: a full adder makes room: the requests to the codeword of its oldest add complete. -/
def nearRoom (s : State) (a : LaddReq) : State :=
  let st := stackOfPc (pcOfCw s (a.pa / 32))
  if !nearFull s a then s
  else
    let cws := (s.llc.fwd.filter fun b => stackOfPc (pcOfCw s (b.pa / 32)) = st).map (fun b => b.pa / 32)
      ++ ((s.stack st).requests.filter fun r => r.add.isSome).map (·.cw)
    settleCws s st fun cw => cws.head? = some cw

/-- One step of a slice that an access waits for: the oldest add leaves its queue. -/
def sliceAdvance (s : State) (slice : Nat) : State :=
  sliceStep (match sliceQueue s slice with
    | a :: _ => if a.way = .here then s else nearRoom s a
    | [] => s) slice

/-- A wait for the adds of a coach that a predicate names: their slice applies adds in arrival order until it holds none of them, and
takes those that the coach holds as it has room (R285). -/
def waitSlice (p : LaddReq → Bool) (c slice : Nat) : Nat → State → State
  | 0, s => s
  | n + 1, s =>
    if (sliceQueue s slice).any p || (s.coach c).ladds.any (fun a => p a && sliceOf (a.pa / 128) = slice) then
      waitSlice p c slice n (pullHeld (sliceAdvance s slice) slice)
    else s

/-- R291, R319: the forwarded adds that a predicate names complete, with what is ordered before them. -/
def waitForwarded (p : LaddReq → Bool) (s : State) : State :=
  let cws := (s.llc.fwd.filter p).map (fun a => a.pa / 32)
    ++ (List.range 8).flatMap fun k => (s.stack k).requests.filterMap fun r => if r.add.any p then some r.cw else none
  cws.foldl (fun t cw => settleCws t (stackOfPc (pcOfCw t cw)) fun c => c = cw) s

/-- R80, R284: a wait until the adds of a coach that a predicate names have been applied. -/
def waitAdds (p : LaddReq → Bool) (c : Nat) (s : State) : State :=
  let slices := ((s.llc.adds ++ (s.coach c).ladds).filter p).map fun a => sliceOf (a.pa / 128)
  waitForwarded p (slices.foldl (fun t k => waitSlice p c k (t.llc.adds.length + 4096) t) s)

/-- R284: an access of a coach to a line waits for the adds of the coach to it. -/
def waitOwn (c line : Nat) (s : State) : State := waitAdds (fun a => a.sr.coach.val = c && a.pa / 128 = line) c s

/-- R292: maintenance waits until the queued adds of a pinned line have been applied; meanwhile the slice takes no new add. -/
def waitPinned (line : Nat) : Nat → State → State
  | 0, s => s
  | n + 1, s => if pinned s line then waitPinned line n (sliceAdvance s (sliceOf line)) else s

-- lines

def ofLine (tag : Nat) (host : Bool) (l : CLine) : Bool := l.tag = tag && l.host = host
def ofEntry (tag : Nat) (host : Bool) (e : MEntry) : Bool := e.tag = tag && e.host = host

/-- The lowest slot that no line of a list holds. -/
def freeWay (n : Nat) (ls : List CLine) : Nat := ((List.range n).find? fun w => !(ls.any fun l => l.way = w)).getD 0

/-- A whole line with its marks is written at its home slice (R251, R277). -/
def llcPut (s : State) (line : Nat) (d : BitVec 1024) (p dd : BitVec 4) : State :=
  match llcLine s line with
  | some l => touch (putLine s line (some { l with data := d, poison := p, dead := dd, dirty := true })) line
  | none =>
    let blocked := forwarded s line
    let t := settle s line
    if blocked then writeBack t line ⟨0, d, p, dd, true, 0⟩ else allocLine t line d p dd true

/-- Writes a dirty line back; host memory holds no marks. -/
def backLine (s : State) (l : CLine) : State :=
  if !l.dirty then s
  else if l.host then { s with hostMem := putCells s.hostMem (128 * l.tag) 128 l.data.toNat }
  else llcPut s l.tag l.data l.poison l.dead

/-- A line's bytes from the LLC, or from host memory through CXL.cache. -/
def fetchLine (s : State) (tag : Nat) (host alloc : Bool) : (BitVec 1024 × BitVec 4 × BitVec 4) × State :=
  if host then ((BitVec.ofNat 1024 (leNat (getCells s.hostMem (128 * tag) 128)), 0, 0), s) else llcRead s tag alloc

/-- R251: a line evicted from the L1 data cache moves to the victim cache, whose oldest line leaves. -/
def toVictim (c : Nat) (l : CLine) (s : State) : State :=
  let v := (s.coach c).victim
  let out := if 8 ≤ v.length then v.head? else none
  let left := if 8 ≤ v.length then v.drop 1 else v
  let t := s.updCoach c fun k => { k with victim := left ++ [{ l with way := freeWay 8 left }] }
  match out with
  | some o => backLine t o
  | none => t

/-- R250: a line enters the L1 data cache as the most recently used; the least recently used of 48 leaves. -/
def insertL1 (c : Nat) (l : CLine) (s : State) : State :=
  let ls := (s.coach c).l1
  let out := if 48 ≤ ls.length then ls.getLast? else none
  let left := if 48 ≤ ls.length then ls.dropLast else ls
  let t := s.updCoach c fun k => { k with l1 := { l with way := freeWay 48 left } :: left }
  match out with
  | some o => toVictim c o t
  | none => t

/-- R251: a line of the victim cache returns to the L1 data cache; the least recently used line of a full one takes its place. -/
def Coach.recall (k : Coach) (l : CLine) : Coach :=
  match (if 48 ≤ k.l1.length then k.l1.getLast? else none) with
  | some o =>
    { k with
      l1 := { l with way := o.way } :: k.l1.dropLast
      victim := k.victim.map fun x => if x = l then { o with way := l.way } else x }
  | none => { k with l1 := { l with way := freeWay 48 k.l1 } :: k.l1, victim := k.victim.erase l }

/-- R250, R251: an access that finds a copy: the line is then the most recently used of the L1 data cache. -/
def Coach.useCopy (k : Coach) (tag : Nat) (host : Bool) : Option (CLine × Coach) :=
  match k.l1.find? (ofLine tag host) with
  | some l => some (l, { k with l1 := l :: k.l1.erase l })
  | none => (k.victim.find? (ofLine tag host)).map fun l => (l, k.recall l)

/-- The copy of a line that the L1 data cache or the victim cache holds. -/
def Coach.copyOf (k : Coach) (tag : Nat) (host : Bool) : Option CLine :=
  match k.l1.find? (ofLine tag host) with
  | some l => some l
  | none => k.victim.find? (ofLine tag host)

def Coach.dropCopy (k : Coach) (tag : Nat) (host : Bool) : Coach :=
  { k with l1 := k.l1.filter fun l => !ofLine tag host l, victim := k.victim.filter fun l => !ofLine tag host l }

/-- Rewrites a copy where it stands. -/
def Coach.mapCopy (k : Coach) (tag : Nat) (host : Bool) (f : CLine → CLine) : Coach :=
  let g (l : CLine) : CLine := if ofLine tag host l then f l else l
  { k with l1 := k.l1.map g, victim := k.victim.map g }

-- the merging write buffer (R256, R257)

/-- R308, R311: a read of a codeword at the base die would meet an uncorrectable error. -/
def meetsError (s : State) (cw : Nat) : Bool :=
  (llcLine s (cw / 4)).isNone && !pagePoison s cw &&
    match rsDecode (rawCw s cw).2 with
    | .clean => false
    | .marked _ => false
    | .errors _ _ _ _ => activation s (pageOfCw cw)
    | .beyond => true

/-- R88: whether a drained entry meets an uncorrectable error: in the buffer, or in memory that it writes in part. -/
def drainError (e : MEntry) (s : State) : Bool :=
  e.err || (!e.host && (List.range 4).any fun i =>
    bits e.mask.toNat (32 * i) 32 != 0 && !e.whole.getLsbD i && meetsError s (4 * e.tag + i))

/-- R88, R257: an entry drains as a whole: its valid bytes reach the LLC or host memory; an uncorrectable error that it meets raises a
store-error interrupt on the seats whose stores it holds. -/
def drainEntry (c : Nat) (e : MEntry) (s : State) : State :=
  let t := if e.host then
    { s with hostMem := (List.range 128).foldl (fun m i =>
        if e.mask.getLsbD i then mset 0 m (128 * e.tag + i) (BitVec.ofNat 8 (bits e.data.toNat (8 * i) 8)) else m) s.hostMem }
  else llcWriteAs e.whole s e.tag e.mask.toNat e.data.toNat e.poison true
  if drainError e s then
    (List.range 4).foldl (fun t i => if e.seats.getLsbD i then t.pendInt ⟨coachFin c, seatFin i⟩ 0 0 else t) t
  else t

/-- R257: the oldest entry drains. -/
def drainOldest (c : Nat) (s : State) : State :=
  match (s.coach c).mbuf with
  | [] => s
  | e :: es => drainEntry c e (s.updCoach c fun k => { k with mbuf := es })

/-- R257: the n oldest entries drain, in order of age. -/
def drainFirst (c n : Nat) (s : State) : State :=
  ((s.coach c).mbuf.take n).foldl (fun t e => drainEntry c e t) (s.updCoach c fun k => { k with mbuf := k.mbuf.drop n })

def drainAll (c : Nat) (s : State) : State := drainFirst c (s.coach c).mbuf.length s

/-- Drains the buffer entry of a line, and the older entries before it. -/
def drainLine (c tag : Nat) (host : Bool) (s : State) : State :=
  let es := (s.coach c).mbuf
  if es.any (ofEntry tag host) then drainFirst c (es.findIdx (ofEntry tag host) + 1) s else s

-- fills in flight (R255)

/-- A line's value with the bytes of a buffer entry or a fill over it. -/
def overLine (e : Option MEntry) (v : BitVec 1024 × BitVec 4 × BitVec 4) : BitVec 1024 × BitVec 4 × BitVec 4 :=
  match e with
  | some e => mergeLineAs e.whole v e.mask.toNat e.data.toNat e.poison
  | none => v

/-- R255: a line that a store missed arrives: the stored bytes merge into it, and it fills the L1 data cache dirty. -/
def completeFill (c : Nat) (e : MEntry) (s : State) : State :=
  let t := s.updCoach c fun k => { k with fills := k.fills.filter fun f => !ofEntry e.tag e.host f }
  let (v, t) := fetchLine t e.tag e.host false
  let v := overLine (some e) (overLine ((t.coach c).mbuf.find? (ofEntry e.tag e.host)) v)
  insertL1 c ⟨e.tag, e.host, 0, v.1, v.2.1, v.2.2, true⟩ t

def fillLine (c tag : Nat) (host : Bool) (s : State) : State :=
  match (s.coach c).fills.find? (ofEntry tag host) with
  | some e => completeFill c e s
  | none => s

def fillAll (c : Nat) (s : State) : State := (s.coach c).fills.foldl (fun t e => completeFill c e t) s

/-- R255: an access that needs a ninth fill waits until the oldest has arrived. -/
def fillRoom (c : Nat) (s : State) : State :=
  match (s.coach c).fills with
  | e :: es => if 7 ≤ es.length then completeFill c e s else s
  | [] => s

/-- R151, R272: bits per segment: `b` where one store covers it, `a` joined with `b` where it touches it, else `a`. -/
def joinSegs (m : Nat) (whole a b : BitVec 4) : BitVec 4 :=
  BitVec.ofNat 4 ((List.range 4).foldl (fun t i =>
    t + b2n (if whole.getLsbD i then b.getLsbD i else a.getLsbD i || (b.getLsbD i && bits m (32 * i) 32 != 0)) * 2 ^ i) 0)

/-- One store's bytes enter an entry; `dd` gives the dead marks that the line already has. -/
def MEntry.put (e : MEntry) (seat : Fin 4) (m d : Nat) (p dd : BitVec 4) : MEntry :=
  let w := wholeSegs m
  { e with
    mask := e.mask ||| BitVec.ofNat 128 m
    data := BitVec.ofNat 1024 (blend 128 m e.data.toNat d)
    poison := joinSegs m w e.poison p
    dead := joinSegs m w e.dead (dd &&& ~~~w)
    whole := e.whole ||| w
    seats := e.seats ||| (1 <<< seat.val) }

/-- An entry for a line, before its first store. -/
def MEntry.new (tag : Nat) (host : Bool) (now : Nat) : MEntry := ⟨tag, host, 0, 0, 0, 0, 0, 0, false, now⟩

/-- R272: the dead marks of a line as a store of the coach finds it: in its copy, else at its home slice. -/
def deadMarks (c tag : Nat) (host : Bool) (s : State) : BitVec 4 :=
  match (s.coach c).copyOf tag host with
  | some l => l.dead
  | none => if host then 0 else BitVec.ofNat 4 ((List.range 4).foldl (fun t i => t + b2n (peekSeg s (4 * tag + i)).dead * 2 ^ i) 0)

-- the stride prefetcher (R261)

/-- R261: one miss trains a stream: a stride of 1 to 64 lines, confirmed by three misses; later matching misses ask for lines. -/
def trainStream (t : Stream) (line depth : Nat) : Option Stream :=
  let d : Int := (line : Int) - t.last
  if t.misses = 1 then
    (if d != 0 && d.natAbs ≤ 64 then some { t with last := line, stride := d, misses := 2 } else none)
  else if d = t.stride then
    some { t with last := line, misses := min (t.misses + 1) 4, depth := if 3 ≤ t.misses then depth else 0 }
  else none

/-- The first stream that a miss matches, moved to the front; else a new one in place of the least recently trained of 16. -/
def trainList (seat : Fin 4) (asid : BitVec 12) (line depth : Nat) (ts : List Stream) : List Stream :=
  match ts.find? fun t => t.seat = seat && t.asid = asid && (trainStream t line depth).isSome with
  | some t => ((trainStream t line depth).getD t) :: ts.erase t
  | none => ⟨seat, asid, line, 0, 1, 0⟩ :: ts.take 15

-- loads (R258)

/-- Bytes that a load returns, with the poison and dead marks of the segments of the line that it touches. -/
structure Loaded where
  data   : Nat
  poison : Nat
  dead   : Nat
  deriving DecidableEq, Repr

/-- Bit mask of n bytes from byte off. -/
def byteMask (off n : Nat) : Nat := (2 ^ n - 1) * 2 ^ off

/-- Takes the masked bytes of a line value and of a buffer entry. -/
def gatherBytes (off n : Nat) (v : BitVec 1024 × BitVec 4 × BitVec 4) (e : Option MEntry) : Loaded :=
  let em := (e.map fun e => e.mask.toNat).getD 0
  let ed := (e.map fun e => e.data.toNat).getD 0
  let need := byteMask off n
  let d := blend 128 em v.1.toNat ed
  let segs (m : Nat) (p : BitVec 4) : Nat :=
    (List.range 4).foldl (fun t i => t + b2n (p.getLsbD i && bits m (32 * i) 32 != 0) * 2 ^ i) 0
  let fromLine := need &&& (em ^^^ (2 ^ 128 - 1))
  ⟨bits d (8 * off) (8 * n),
   segs fromLine v.2.1 ||| segs (need &&& em) ((e.map fun e => e.poison ||| e.dead).getD 0),
   segs fromLine v.2.2 ||| segs (need &&& em) ((e.map fun e => e.dead).getD 0)⟩

/-- The line of a load: a hit becomes the most recently used, a victim hit is recalled (R251), a miss trains, and its fill takes the
bytes that the buffer holds (R258). -/
def lineForLoad (r : SeatRef) (tag : Nat) (host : Bool) (depth : Nat) (s : State) : (BitVec 1024 × BitVec 4 × BitVec 4) × State :=
  let c := r.coach.val
  let s := fillLine c tag host s
  match (s.coach c).useCopy tag host with
  | some (l, k) => ((l.data, l.poison, l.dead), s.updCoach c fun _ => k)
  | none =>
    let s := fillRoom c s
    let s := if host then s else
      s.updCoach c fun k => { k with streams := trainList r.seat (k.seat r.seat).asid tag depth k.streams }
    let (v, t) := fetchLine s tag host true
    let u := overLine ((t.coach c).mbuf.find? (ofEntry tag host)) v
    (v, insertL1 c ⟨tag, host, 0, u.1, u.2.1, u.2.2, false⟩ t)

/-- R150, R284: a line leaves the coach: its entry drains, and a dirty copy is written back and dropped. -/
def evictCopy (c tag : Nat) (host : Bool) (s : State) : State :=
  let s := drainLine c tag host (fillLine c tag host s)
  match (s.coach c).copyOf tag host with
  | some l => backLine (s.updCoach c fun k => k.dropCopy tag host) l
  | none => s

/-- R316: what a load of an offline page returns. -/
def offlinePoison (s : State) (v : Loaded) : Loaded := if s.mem.offline then { v with poison := 0xF } else v

/-- A load of n bytes of one line by a seat.  An uncached load bypasses the coach's structures (R259) once a line that they hold has
left them, so that it finds the seat's earlier stores (R78; row 77 of the log). -/
def loadPhys (r : SeatRef) (p : Phys) (n : Nat) (s : State) : Loaded × State :=
  let c := r.coach.val
  let tag := p.pa / 128
  let off := p.pa % 128
  match p.space with
  | .window => (⟨windowRead s p.pa n, 0, 0⟩, s)
  | .remote => (⟨0, 0, 0⟩, s)
  | _ =>
    let host := decide (p.space = .host)
    let s := if host then s else waitOwn c tag s
    let (v, t) :=
      if !p.cached then
        let (v, t) := llcRead (evictCopy c tag host s) tag false
        (gatherBytes off n v none, t)
      else
        let e := (s.coach c).mbuf.find? (ofEntry tag host)
        let em := (e.map fun e => e.mask.toNat).getD 0
        if byteMask off n &&& em = byteMask off n then (gatherBytes off n (0, 0, 0) e, s)
        else
          let (v, t) := lineForLoad r tag host p.depth s
          (gatherBytes off n v e, t)
    (if host then v else offlinePoison t v, t)

/-- R272: a load of a dead-marked segment counts and raises a dead-read interrupt on its seat. -/
def deadRead (r : SeatRef) (v : Loaded) (s : State) : State :=
  if v.dead = 0 then s
  else (s.bump (.coach r.coach 2)).pendInt r 2 0

-- stores (R255, R256)

/-- Bytes enter a copy under the segment rule. -/
def CLine.put (l : CLine) (m d : Nat) (p : BitVec 4) (dirty : Bool) : CLine :=
  let v := mergeLine (l.data, l.poison, l.dead) m d p
  { l with data := v.1, poison := v.2.1, dead := v.2.2, dirty := l.dirty || dirty }

/-- R250: an access rewrites the line that it has made the most recently used. -/
def Coach.mapHead (k : Coach) (f : CLine → CLine) : Coach :=
  { k with l1 := match k.l1 with
    | l :: ls => f l :: ls
    | [] => [] }

/-- R250, R251, R255, R256: a store writes the copy of its line that the coach holds; none when it holds none. -/
def storeCopy (c tag : Nat) (host : Bool) (m d : Nat) (p : BitVec 4) (dirty : Bool) (s : State) : Option State :=
  ((s.coach c).useCopy tag host).map fun u => s.updCoach c fun _ => u.2.mapHead fun l => l.put m d p dirty

/-- R256: a store to a write-through page. -/
def storeThrough (r : SeatRef) (tag : Nat) (host : Bool) (m d : Nat) (p : BitVec 4) (s : State) : State :=
  let c := r.coach.val
  let s := fillLine c tag host s
  let dd := deadMarks c tag host s
  let s := (storeCopy c tag host m d p false s).getD s
  if (s.coach c).mbuf.any (ofEntry tag host) then
    s.updCoach c fun k => { k with mbuf := k.mbuf.map fun e => if ofEntry tag host e then e.put r.seat m d p dd else e }
  else
    let s := if 16 ≤ (s.coach c).mbuf.length then drainOldest c s else s
    s.updCoach c fun k => { k with mbuf := k.mbuf ++ [(MEntry.new tag host k.now).put r.seat m d p dd] }

/-- R255: a store to a write-back page.  Bytes that the buffer holds for the line take the new values there too (R78, R258). -/
def storeBack (r : SeatRef) (tag : Nat) (host : Bool) (m d : Nat) (p : BitVec 4) (s : State) : State :=
  let c := r.coach.val
  let dd := deadMarks c tag host s
  let s := if (s.coach c).mbuf.any (ofEntry tag host) then
      let put e := if ofEntry tag host e then MEntry.put e r.seat (m &&& e.mask.toNat) d p dd else e
      s.updCoach c fun k => { k with mbuf := k.mbuf.map put }
    else s
  match storeCopy c tag host m d p true s with
  | some t => t
  | none =>
    if (s.coach c).fills.any (ofEntry tag host) then
      s.updCoach c fun k => { k with fills := k.fills.map fun e => if ofEntry tag host e then e.put r.seat m d p dd else e }
    else (fillRoom c s).updCoach c fun k => { k with fills := k.fills ++ [(MEntry.new tag host k.now).put r.seat m d p dd] }

/-- A store of n bytes of one line by a seat; `q` marks the segments of the line that it poisons (R114).  A line that the coach holds
leaves it before an uncached store (R78, R259; row 77 of the log). -/
def storePhys (r : SeatRef) (p : Phys) (n d : Nat) (q : BitVec 4) (s : State) : State :=
  let c := r.coach.val
  let tag := p.pa / 128
  let off := p.pa % 128
  let m := byteMask off n
  let dd := d % 2 ^ (8 * n) * 2 ^ (8 * off)
  match p.space with
  | .window => windowWrite s p.pa (leBytes n d)
  | .remote => s
  | _ =>
    let host := decide (p.space = .host)
    let s := if host then s else waitOwn c tag s
    if !p.cached then llcWrite (evictCopy c tag host s) tag m dd q false
    else if p.wt then storeThrough r tag host m dd q s
    else storeBack r tag host m dd q s

-- what empties a coach's caches (R81, R150, R284, R416)

/-- Every dirty line of a coach is written back and every line leaves (R81, R101). -/
def flushCopies (c : Nat) (s : State) : State :=
  let k := s.coach c
  (k.l1 ++ k.victim).foldl backLine (s.updCoach c fun k => { k with l1 := [], victim := [] })

/-- R81: a FENCE of module or system scope empties the write path and the data caches of a coach. -/
def flushCoach (c : Nat) (s : State) : State := flushCopies c (drainAll c (fillAll c s))

/-- R416: a release: the coach's earlier stores become visible at module scope, dirty lines included. -/
def releaseCoach (c : Nat) (s : State) : State :=
  let s := drainAll c (fillAll c s)
  let k := s.coach c
  let t := (k.l1 ++ k.victim).foldl backLine s
  t.updCoach c fun k => { k with l1 := k.l1.map fun l => { l with dirty := false }, victim := k.victim.map fun l => { l with dirty := false } }

/-- R416: an acquire invalidates every clean line. -/
def acquireCoach (c : Nat) (s : State) : State :=
  s.updCoach c fun k => { k with l1 := k.l1.filter fun l => l.dirty, victim := k.victim.filter fun l => l.dirty }

end Sys2Proof.Machine
end

