-- ==== Sys2Proof/Machine/Queue.lean ====
section
/-! DEFINITION. The vector queue as the issue rules see it (R58, R59): which instructions enter it, which results an entry still owes,
and what holds an instruction back at issue (R58, R59, R61, R91, R157, R159). -/

namespace Sys2Proof.Machine

/-- R59: the vector instructions that access memory. -/
def touchesMem : Instr → Bool
  | .vld _ _ => true
  | .vldff _ _ => true
  | .vst _ _ => true
  | .vgath _ _ _ => true
  | .vgathff _ _ _ => true
  | .vscat _ _ _ => true
  | .vransSingle _ _ => true
  | .vransBlock _ _ _ => true
  | _ => false

/-- The vector register that an instruction of the vector queue writes. -/
def vDest : Instr → Option RegNo
  | .vecIntOp _ _ w => some w.vd
  | .vecFpOp _ _ w => some w.vd
  | .vecFma _ w => some w.vd
  | .vcvt _ _ _ w => some w.vd
  | .vecPermute _ _ w => some w.vd
  | .vbx _ w => some w.vd
  | .vecReduction _ _ w => some w.vd
  | .vmov _ .vec w => some w.vd
  | .vmov _ .scalarToVec w => some w.vd
  | .scalarFpOp _ _ w => some w.vd
  | .vlut _ w => some w.vd
  | _ => none

/-- The scalar register that an instruction of the vector queue writes without accessing memory. -/
def xDest : Instr → Option RegNo
  | .vmov _ .vecToScalar w => some w.vd
  | _ => none

/-- Whether an instruction enters the vector queue (R58). -/
def forVecQueue (i : Instr) : Bool :=
  touchesMem i || match i with
    | .vecCompare _ _ _ => true
    | .vmov _ _ _ => true
    | i => (vDest i).isSome

/-- Whether an instruction enters the tile queue (R58, R154). -/
def forTileQueue : Instr → Bool
  | .tld _ _ _ => true
  | .tst _ _ _ => true
  | .trel _ _ _ _ => true
  | .tmma _ _ _ => true
  | .tmmaZ _ _ _ => true
  | .tcvt _ _ => true
  | _ => false

/-- R61, R91, R157: whether an instruction waits for every queued instruction of its seat. -/
def serialises : Instr → Bool
  | .cwr _ w => w.num = 0x010 || w.num = 0x011 || w.num = 0x012 || w.num = 0x013 || w.num = 0x030 || w.num = 0x040
  | .cwrSeatcfg _ _ => true
  | .cwrTfull _ _ => true
  | _ => false

/-- The scalar registers that an instruction reads. -/
def xSrcs : Instr → List RegNo
  | .scalarIntRegOp _ _ _ rs1 rs2 => [rs1, rs2]
  | .scalarIntImmOp _ _ _ rs1 _ => [rs1]
  | .scalarLoad _ _ _ _ _ rs1 => [rs1]
  | .scalarStore _ _ _ rd rs1 => [rs1, rd]
  | .fpLoad _ _ _ _ rs1 => [rs1]
  | .fpStore _ _ _ _ rs1 => [rs1]
  | .ladd _ _ rs1 rs2 _ _ => [rs1, rs2]
  | .branchCond _ _ rs1 _ => [rs1]
  | .jr _ _ rs1 _ => [rs1]
  | .callr _ _ rs1 _ => [rs1]
  | .ret _ _ _ _ => [1]
  | .cwr _ w => [w.rs1]
  | .cwrSeatcfg _ rs1 => [rs1]
  | .cwrTfull _ rs1 => [rs1]
  | .cwrPtroot _ rs1 => [rs1]
  | .sspsetSwitch _ w => [w.rs1]
  | .tlbinv _ w => [w.rs1, w.rs2]
  | .cclean _ w => [w.rs1]
  | .cinval _ w => [w.rs1]
  | .cclinv _ w => [w.rs1]
  | .cdead _ w => [w.rs1]
  | .cordsig _ w => [w.rs1, w.rs2]
  | .cordwait _ w => [w.rs1, w.rs2]
  | .tld _ w _ => [w.xn, w.xm]
  | .tst _ w _ => [w.xn, w.xm]
  | .tcvt _ w => [w.xs]
  | _ => []

/-- The entries of a seat in the vector queue. -/
def Coach.entries (k : Coach) (seat : Fin 4) : List VEntry := k.vq.filter fun e => e.seat = seat

/-- A seat with queued vector entries. -/
def Coach.queued (k : Coach) (seat : Fin 4) : Bool := k.vq.any fun e => e.seat = seat

/-- R59: a queued entry of a seat that accesses memory has not passed its fault point. -/
def Coach.faultPoint (k : Coach) (seat : Fin 4) : Bool := k.vq.any fun e => e.seat = seat && !e.ran

/-- R59: an instruction reads a scalar or floating-point result that a queued entry of its seat still owes. -/
def awaitsResult (k : Coach) (seat : Fin 4) (i : Instr) : Bool :=
  (k.entries seat).any fun e =>
    (match xDest e.instr with
      | some n => n != 0 && (xSrcs i).contains n
      | none => false) ||
    (match i with
      | .fpStore _ _ _ rd _ => vDest e.instr = some rd
      | _ => false)

/-- R58: an instruction of the vector queue finds the pipes asleep and its seat's share of 8 entries, or all 32, in use. -/
def shareFull (k : Coach) (seat : Fin 4) : Bool :=
  (k.gated || k.waking) && (8 ≤ (k.entries seat).length || 32 ≤ k.vq.length)

/-- R159: a seat of the coach waits in TGRP. -/
def Coach.tgrpWaits (k : Coach) : Bool :=
  (List.range 4).any fun i => match (k.seat i).wait with
    | .tgrp _ _ => true
    | _ => false

/-- R159: whether a queued vector instruction reads a tile of some number. -/
def readsTile (t : Nat) : Instr → Bool
  | .vlut _ w => w.vs2.toNat = t
  | .vransSingle _ w => w.t.toNat = t
  | .vransBlock _ w _ => w.t.toNat = t
  | _ => false

/-- R58, R59, R61, R91, R157, R159: what holds an instruction back at issue. -/
def held (s : State) (r : SeatRef) (i : Instr) : Bool :=
  let k := s.coach r.coach
  awaitsResult k r.seat i || (serialises i && k.queued r.seat) || (forVecQueue i && shareFull k r.seat) ||
    (forTileQueue i && k.tgrpWaits)

/-- R95: a resumable instruction for which the command gives the row or element at which an interrupt that becomes takeable stops it. -/
def runsInto : Instr → Bool
  | .tld _ _ l => l.isSome
  | .tst _ _ l => l.isSome
  | .vgath _ _ l => l.isSome
  | .vgathff _ _ l => l.isSome
  | .vscat _ _ l => l.isSome
  | .vransBlock _ _ l => l.isSome
  | _ => false

end Sys2Proof.Machine
end

