-- ==== Sys2Proof/Machine/Exceptions.lean ====
section
/-! DEFINITION. Entering an exception or an interrupt (R83 to R101), which seats may issue (R56, R429), how an instruction of a
seat ends, and the meanings of the interrupt and drain commands. -/

namespace Sys2Proof.Machine

/-- R89: the code of a level. -/
def levelCode : Level → Nat
  | .u => 0
  | .s => 1
  | .m => 3

def levelOf (n : Nat) : Level := if n = 0 then .u else if n = 1 then .s else .m

-- entry (R85, R100, R101)

/-- R85: the status that an entry saves. -/
def entryStat (t : Seat) (cause prog detail : Nat) : Estat :=
  ⟨BitVec.ofNat 6 cause, true, t.mask, t.level, BitVec.ofNat 16 prog, BitVec.ofNat 8 detail⟩

/-- R85: what every entry does beside saving: the level rises to S unless it is M, and the seat goes to the handler. -/
def toHandler (t : Seat) (off : Nat) : Seat :=
  { t with level := (if t.level = .m then .m else .s), pc := t.vbase + BitVec.ofNat 64 off, resume := 0, wait := .none }

/-- R85: entry to the first pair; MASK is set. -/
def enterFirst (t : Seat) (cause prog detail : Nat) : Seat :=
  { toHandler t (16 * cause) with mask := true, epc := t.pc, estat := entryStat t cause prog detail }

/-- R100: entry to the second pair: ESTAT, and with it the live MASK, stays as it is (row 75 of the log). -/
def enterSecond (t : Seat) (cause prog detail : Nat) : Seat :=
  { toHandler t 0x400 with epc2 := t.pc, estat2 := entryStat t cause prog detail }

/-- R101: a coach stops: its queue is discarded, its buffer drains and its dirty lines are written back. -/
def stopCoach (r : SeatRef) (cause extra : Nat) (s : State) : State :=
  flushCoach r.coach (s.updCoach r.coach fun k => { k with stopped := some (r.seat, BitVec.ofNat 6 cause, extra), vq := [], waking := false })

/-- R83, R85, R100, R101: a synchronous exception: to the first pair, to the second, or the coach stops. -/
def raiseSync (r : SeatRef) (cause detail prog : Nat) (s : State) : State :=
  let t := s.seat r
  if t.estat2.ex then stopCoach r cause 0 s
  else if t.estat.ex then s.updSeat r fun t => enterSecond t cause prog detail
  else s.updSeat r fun t => enterFirst t cause prog detail

-- which seats may issue, and how an instruction ends

/-- R14, R101, R429, R553, R630: whether a coach runs. -/
def coachRuns (s : State) (c : Nat) : Bool :=
  !s.halted && s.sys.railCore && s.sys.hostRstN && s.sys.imgUcode && (s.coach c).stopped = none && posOf s c < 100

/-- R84, R93: an interrupt is due: one is pending, and neither MASK nor EX holds it. -/
def due (s : State) (r : SeatRef) : Bool :=
  let t := s.seat r
  coachRuns s r.coach && !t.mask && !t.estat.ex && t.pend != 0

/-- R59: whether a seat may go on: it waits for nothing, and no queued entry of it has still to pass its fault point. -/
def canBegin (s : State) (r : SeatRef) : Bool :=
  coachRuns s r.coach && (s.seat r).wait = .none && !(s.coach r.coach).faultPoint r.seat

/-- R56, R59, R93: whether a seat may issue an instruction: it may go on, and no interrupt is due before it. -/
def canIssue (s : State) (r : SeatRef) : Bool := canBegin s r && !due s r

/-- Whether a seat may issue an instruction now: nothing holds that instruction back either. -/
def mayIssue (s : State) (r : SeatRef) (i : Instr) : Bool := canIssue s r && !held s r i

/-- R67, R96: an instruction of n bytes completes: the seat goes on behind it, and a resume count is discarded. -/
def completeBy (n : Nat) (r : SeatRef) (s : State) : State :=
  s.updSeat r fun t => { t with pc := t.pc + BitVec.ofNat 64 n, resume := 0 }

def complete (r : SeatRef) (s : State) : State := completeBy 4 r s

/-- An instruction writes its seat's registers and completes. -/
def finish (r : SeatRef) (f : Seat → Seat) (s : State) : State := complete r (s.updSeat r f)

/-- An instruction goes on at an address (R641). -/
def goto (r : SeatRef) (pc : Word) (s : State) : State := s.updSeat r fun t => { t with pc := pc, resume := 0 }

/-- R63: whether one of some registers is poisoned. -/
def Seat.poisoned (t : Seat) (rs : List RegNo) : Bool := rs.any t.rxp

/-- R646: the illegal-instruction exception. -/
def illegal (r : SeatRef) (s : State) : State := raiseSync r 0 0 0 s

/-- R646: checks in order: each with the cause and DETAIL that it raises, under a PROG; then the instruction. -/
def checkedAt (r : SeatRef) (prog : Nat) (cs : List (Bool × Nat × Nat)) (f : State → State) (s : State) : State :=
  match cs.find? fun c => c.1 with
  | some c => raiseSync r c.2.1 c.2.2 prog s
  | none => f s

/-- R646: the checks of an instruction that is not resumable. -/
def checked (r : SeatRef) (cs : List (Bool × Nat × Nat)) (f : State → State) (s : State) : State := checkedAt r 0 cs f s

/-- Whether a seat has entered a handler or stopped its coach between two states. -/
def undisturbed (r : SeatRef) (s t : State) : Bool :=
  (t.seat r).estat = (s.seat r).estat && (t.seat r).estat2 = (s.seat r).estat2 && (t.coach r.coach).stopped = (s.coach r.coach).stopped

-- interrupts (R84, R92 to R97)

/-- R88, R93: the lowest pending interrupt cause, as k of 0x20 + k. -/
def lowestPending (t : Seat) : Option Nat := (List.range 16).find? fun k => t.pend.getLsbD k

/-- R84, R97: whether a seat takes an interrupt now: its queued entries complete first. -/
def takeable (s : State) (r : SeatRef) : Bool :=
  let waits : Bool := match (s.seat r).wait with
    | .remote _ => true
    | _ => false
  due s r && !(s.coach r.coach).queued r.seat && !waits

/-- R84, R92, R93, R96, R97: takes the lowest pending interrupt; a waiting CORDWAIT or TGRP is abandoned, and PROG keeps the resume
count. -/
def takeInterrupt (r : SeatRef) (s : State) : State :=
  if !takeable s r then s
  else
    match lowestPending (s.seat r) with
    | none => s
    | some k =>
      let u := s.updSeat r fun t =>
        let e := enterFirst t (0x20 + k) t.resume (mget 0 t.pendDet k).toNat
        { e with pend := e.pend &&& ~~~((1 : BitVec 16) <<< k), pendDet := mset 0 e.pendDet k 0 }
      if k = 3 then u.updCoach r.coach fun c => { c with drainAt := mset none c.drainAt r.seat none } else u

/-- Runs an instruction of a seat at an instruction boundary.  An interrupt that is takeable there comes first (R84, R93), but for
a resumable instruction that it finds running (R95); a seat that may not issue stalls. -/
def seatRun (r : SeatRef) (i : Instr) (f : State → State) (s : State) : State :=
  if canBegin s r && !held s r i && (!due s r || runsInto i) then f s else takeInterrupt r s

def execInterruptTaken (sr : SeatRef) (s : State) : Result := .next (takeInterrupt sr s)

/-- INTERRUPT_PENDING_SET (R92). -/
def execInterruptPendingSet (sr : SeatRef) (k : Fin 8) (detail : Byte) (s : State) : Result :=
  .next (s.pendInt sr k.val detail.toNat)

/-- R102: a drain request of Thonar: cause 0x23, whose 10 ms count from now. -/
def drainRequest (r : SeatRef) (microcode : Bool) (s : State) : State := s.pendInt r 3 (b2n microcode)

def execDrainRequest (sr : SeatRef) (microcode : Bool) (s : State) : Result := .next (drainRequest sr microcode s)

/-- DRAIN_TIMEOUT: a drain request has stayed pending for 10 ms (R102). -/
def execDrainTimeout (sr : SeatRef) (s : State) : Result :=
  .next (match mget none (s.coach sr.coach).drainAt sr.seat with
    | some at0 =>
      if (s.seat sr).pend.getLsbD 3 && at0 + 10000000 ≤ s.time.ns && (s.coach sr.coach).stopped = none then
        stopCoach sr 0x23 1 (s.updCoach sr.coach fun c => { c with drainAt := mset none c.drainAt sr.seat none })
      else s
    | none => s)

end Sys2Proof.Machine
end

