-- ==== Sys2Proof/Machine/Scalar.lean ====
section
/-! DEFINITION. Scalar integer instructions (R640, R644), scalar loads and stores (R639, R82), remote accesses (R397, R398) and
LADD (R281 to R285), with the meanings of their commands. -/

namespace Sys2Proof.Machine

-- integer operations (R640, R644)

/-- R644: shifts by a count of all 64 bits. -/
def sll (a b : Word) : Word := if 64 ≤ b.toNat then 0 else a <<< b.toNat
def srl (a b : Word) : Word := if 64 ≤ b.toNat then 0 else a >>> b.toNat
def sra (a b : Word) : Word := a.sshiftRight (min b.toNat 64)

def ofBool64 (b : Bool) : Word := if b then 1 else 0

/-- R644: division rounds towards zero; a zero divisor gives all ones and leaves the dividend. -/
def sdiv64 (a b : Word) : Word := if b = 0 then BitVec.allOnes 64 else BitVec.ofInt 64 (a.toInt.tdiv b.toInt)
def srem64 (a b : Word) : Word := if b = 0 then a else BitVec.ofInt 64 (a.toInt.tmod b.toInt)
def udiv64 (a b : Word) : Word := if b = 0 then BitVec.allOnes 64 else BitVec.ofNat 64 (a.toNat / b.toNat)
def urem64 (a b : Word) : Word := if b = 0 then a else BitVec.ofNat 64 (a.toNat % b.toNat)

/-- R640: the operation that a function of class 0x00 selects. -/
def intOp (fn : Nat) : Option (Word → Word → Word) :=
  match fn with
  | 0x000 => some fun a b => a + b
  | 0x001 => some fun a b => a - b
  | 0x002 => some fun a b => a &&& b
  | 0x003 => some fun a b => a ||| b
  | 0x004 => some fun a b => a ^^^ b
  | 0x005 => some fun a b => a &&& ~~~b
  | 0x008 => some sll
  | 0x009 => some srl
  | 0x00A => some sra
  | 0x010 => some fun a b => ofBool64 (a.slt b)
  | 0x011 => some fun a b => ofBool64 (a.ult b)
  | 0x012 => some fun a b => ofBool64 (a = b)
  | 0x014 => some fun a b => if a.slt b then a else b
  | 0x015 => some fun a b => if a.slt b then b else a
  | 0x016 => some fun a b => if a.ult b then a else b
  | 0x017 => some fun a b => if a.ult b then b else a
  | 0x020 => some fun a b => a * b
  | 0x021 => some fun a b => BitVec.ofInt 64 (a.toInt * b.toInt / 2 ^ 64)
  | 0x022 => some fun a b => BitVec.ofNat 64 (a.toNat * b.toNat / 2 ^ 64)
  | 0x028 => some sdiv64
  | 0x029 => some udiv64
  | 0x02A => some srem64
  | 0x02B => some urem64
  | _ => none

/-- SCALAR_INT_REG_OP (R640). -/
def intReg (r : SeatRef) (fn : BitVec 11) (rd rs1 rs2 : RegNo) (s : State) : State :=
  match intOp fn.toNat with
  | none => illegal r s
  | some f =>
    checked r [((s.seat r).poisoned [rs1, rs2], 5, 0)]
      (fun s => finish r (fun t => t.wx rd (f (t.rx rs1) (t.rx rs2))) s) s

def execScalarIntRegOp (sr : SeatRef) (fn : BitVec 11) (rd rs1 rs2 : RegNo) (s : State) : Result :=
  .next (seatRun sr (.scalarIntRegOp sr fn rd rs1 rs2) (intReg sr fn rd rs1 rs2) s)

/-- R640: the immediate as an operand. -/
def sext16 (imm : Half) : Word := imm.signExtend 64
def zext16 (imm : Half) : Word := imm.setWidth 64

/-- R640: the result of an immediate form. -/
def immOp (op : ImmOp) (pc a : Word) (imm : Half) : Word :=
  match op with
  | .addi => a + sext16 imm
  | .andi => a &&& zext16 imm
  | .ori => a ||| zext16 imm
  | .xori => a ^^^ zext16 imm
  | .slli => sll a (zext16 imm)
  | .srli => srl a (zext16 imm)
  | .srai => sra a (zext16 imm)
  | .slti => ofBool64 (a.slt (sext16 imm))
  | .sltui => ofBool64 (a.ult (sext16 imm))
  | .shiftin => a <<< 16 ||| zext16 imm
  | .addpc => pc + (sext16 imm) <<< 16

/-- R640: an encoding that the immediate forms call illegal. -/
def immIllegal (op : ImmOp) (rs1 : RegNo) (imm : Half) : Bool :=
  match op with
  | .slli => 64 ≤ imm.toNat
  | .srli => 64 ≤ imm.toNat
  | .srai => 64 ≤ imm.toNat
  | .addpc => rs1 != 0
  | _ => false

/-- SCALAR_INT_IMM_OP (R640). -/
def intImm (r : SeatRef) (op : ImmOp) (rd rs1 : RegNo) (imm : Half) (s : State) : State :=
  checked r [(immIllegal op rs1 imm, 0, 0), ((s.seat r).poisoned [rs1], 5, 0)]
    (fun s => finish r (fun t => t.wx rd (immOp op t.pc (t.rx rs1) imm)) s) s

def execScalarIntImmOp (sr : SeatRef) (op : ImmOp) (rd rs1 : RegNo) (imm : Half) (s : State) : Result :=
  .next (seatRun sr (.scalarIntImmOp sr op rd rs1 imm) (intImm sr op rd rs1 imm) s)

-- where a load's value goes (R63, R110, R113, R639)

/-- Sign- or zero-extends n bytes. -/
def extend (signed : Bool) (n v : Nat) : Word :=
  if signed then BitVec.ofInt 64 (sInt (8 * n) v) else BitVec.ofNat 64 (v % 2 ^ (8 * n))

/-- A merge write of 2,048 bits under a byte mask, with the poison rule of R113. -/
def Seat.mergeV (t : Seat) (n : RegNo) (mask : Nat) (d : Nat) (p : Nat) : Seat :=
  let old := t.rv n
  let segs := (List.range 8).foldl (fun a i =>
    let m := bits mask (32 * i) 32
    a + b2n (if m = 2 ^ 32 - 1 then bit p i else (t.rvp n).getLsbD i || (m != 0 && bit p i)) * 2 ^ i) 0
  t.wv n (BitVec.ofNat 2048 (blend 256 mask old.toNat d)) (BitVec.ofNat 8 segs)

/-- R111: the byte lanes of the active elements of w bytes under a predicate. -/
def activeLanes (w : Nat) (pg : BitVec 256) : Nat :=
  (List.range (256 / w)).foldl (fun t i =>
    if bits pg.toNat (w * i) w = 2 ^ w - 1 then t + (2 ^ w - 1) * 2 ^ (w * i) else t) 0

/-- R117: the lanes that an instruction writes: the active ones, or all when the inactive ones are written 0. -/
def writtenLanes (zm : Bool) (act : Nat) : Nat := if zm then 2 ^ 256 - 1 else act

/-- Keeps the active lanes of a result; the others are 0. -/
def maskData (act d : Nat) : Nat := d &&& wideMask 256 act

/-- The segments that hold an active element. -/
def activeSegs (act : Nat) : Nat := (List.range 8).foldl (fun t i => t + b2n (bits act (32 * i) 32 != 0) * 2 ^ i) 0

/-- R113: the segments of a vector register that take bytes from the marked segments of n bytes which go to byte `at0` on. -/
def partSegs (at0 n p : Nat) : Nat :=
  (List.range ((n + 31) / 32)).foldl (fun t k => if bit p k then t ||| segsTouched 8 (at0 + 32 * k) (min 32 (n - 32 * k)) else t) 0

/-- Writes a loaded value to its destination; `v` has as many bytes as the access, and `p` marks its poisoned segments. -/
def writeDest (d : LoadDest) (v p : Nat) (t : Seat) : Seat :=
  match d with
  | .int rd signed n => t.wx rd (extend signed n v) (p != 0)
  | .fp rd n => t.wf rd (v % 2 ^ (8 * n)) (p != 0)
  | .vec vd w i n _ =>
    t.mergeV vd ((2 ^ (w * n) - 1) * 2 ^ (w * i)) (v % 2 ^ (8 * w * n) * 2 ^ (8 * w * i)) (partSegs (w * i) (w * n) p)

-- remote accesses (R397, R398)

/-- R397: position and address of a remote access. -/
def remotePos (pa : Nat) : Nat := bits pa 46 3
def remoteAddr (pa : Nat) : Nat := bits pa 0 46

/-- The control-class flow that carries remote accesses to a position, when it is reachable. -/
def remoteFlow (s : State) (pa : Nat) : Option Nat :=
  if reachable s (remotePos pa) then
    match rankOfPos s (remotePos pa) with
    | some rank => flowTo s rank 1
    | none => none
  else none

/-- The TAG that names a seat, as a NOTIFY field does. -/
def seatTag (r : SeatRef) : Nat := r.coach.val + 128 * r.seat.val

/-- R397, R398: a remote load asks the partner, and its seat waits; one that cannot be served returns poison. -/
def remoteLoad (r : SeatRef) (pa n : Nat) (d : LoadDest) (s : State) : State :=
  match remoteFlow s pa with
  | some fl => (sendMessage s fl 3 1 0 (seatTag r) n (remoteAddr pa) [] false).updSeat r fun t => { t with wait := .remote d }
  | none => finish r (writeDest d 0 0xFF) s

/-- R397, R398: a VLD asks for the runs of its elements that partners hold, one after another; a run that cannot be served returns
poison. -/
def vecRemote (r : SeatRef) (vd : RegNo) (w : Nat) : List (Nat × Nat × Nat) → State → State
  | [], s => finish r (fun t => { t with wait := .none }) s
  | (i, n, pa) :: rest, s =>
    let d : LoadDest := .vec vd w i n rest
    match remoteFlow s pa with
    | some fl => (sendMessage s fl 3 1 0 (seatTag r) (w * n) (remoteAddr pa) [] false).updSeat r fun t => { t with wait := .remote d }
    | none => vecRemote r vd w rest (s.updSeat r (writeDest d 0 0xFF))

/-- R397: remote data complete the access for which a seat waits. -/
def remoteArrive (r : SeatRef) (d : LoadDest) (v p : Nat) (s : State) : State :=
  match d with
  | .vec vd w _ _ rest => vecRemote r vd w rest (s.updSeat r (writeDest d v p))
  | _ => finish r (fun t => writeDest d v p { t with wait := .none }) s

/-- R398: a remote store is posted; one that cannot be served is dropped and raises cause 0x20.  `q` marks the poisoned codewords. -/
def remoteStore (r : SeatRef) (pa n d q : Nat) (s : State) : State :=
  match remoteFlow s pa with
  | some fl =>
    let cws := (List.range ((n + 31) / 32)).map fun i => (BitVec.ofNat 256 (bits d (256 * i) (8 * min 32 (n - 32 * i))), bit q i)
    (enqueueFrame s ⟨flowHdr s fl 5 1 0 (seatTag r) n (remoteAddr pa) true, cws⟩).updSeat r fun t =>
      { t with remSt := t.remSt + 1 }
  | none => s.pendInt r 0 0

-- loads and stores (R639)

/-- R639: the address of a scalar access. -/
def scalarAddr (t : Seat) (rs1 : RegNo) (off : BitVec 14) (n : Nat) : Nat :=
  (t.rx rs1 + off.signExtend 64 * BitVec.ofNat 64 n).toNat

/-- R82, R646: translates an aligned access; then `f` acts on the physical address. -/
def withPhys (r : SeatRef) (a : Acc) (va n : Nat) (f : Phys → State → State) (s : State) : State :=
  if va % n != 0 then raiseSync r 4 0 0 s
  else
    match translate r a va s with
    | (.exc c d, t) => raiseSync r c d 0 t
    | (.ok p, t) => f p t

/-- A load of n bytes into a register. -/
def loadTo (r : SeatRef) (va n : Nat) (d : LoadDest) (s : State) : State :=
  withPhys r .load va n (fun p s =>
    if p.space = .remote then remoteLoad r p.pa n d s
    else
      let (v, t) := loadPhys r p n s
      finish r (writeDest d v.data v.poison) (deadRead r v t)) s

/-- A store of n bytes. -/
def storeFrom (r : SeatRef) (va n v : Nat) (s : State) : State :=
  withPhys r .store va n (fun p s =>
    complete r (if p.space = .remote then remoteStore r p.pa n v 0 s else storePhys r p n v 0 s)) s

/-- SCALAR_LOAD (classes 0x10 and 0x11). -/
def scalarLoad (r : SeatRef) (signed : Bool) (size : BitVec 2) (off : BitVec 14) (rd rs1 : RegNo) (s : State) : State :=
  let n := 2 ^ size.toNat
  checked r [((s.seat r).poisoned [rs1], 5, 0)]
    (fun s => loadTo r (scalarAddr (s.seat r) rs1 off n) n (.int rd signed n) s) s

def execScalarLoad (sr : SeatRef) (signed : Bool) (size : BitVec 2) (off : BitVec 14) (rd rs1 : RegNo) (s : State) : Result :=
  .next (seatRun sr (.scalarLoad sr signed size off rd rs1) (scalarLoad sr signed size off rd rs1) s)

/-- SCALAR_STORE (class 0x12). -/
def scalarStore (r : SeatRef) (size : BitVec 2) (off : BitVec 14) (rd rs1 : RegNo) (s : State) : State :=
  let n := 2 ^ size.toNat
  checked r [((s.seat r).poisoned [rs1, rd], 5, 0)]
    (fun s => storeFrom r (scalarAddr (s.seat r) rs1 off n) n ((s.seat r).rx rd).toNat s) s

def execScalarStore (sr : SeatRef) (size : BitVec 2) (off : BitVec 14) (rd rs1 : RegNo) (s : State) : Result :=
  .next (seatRun sr (.scalarStore sr size off rd rs1) (scalarStore sr size off rd rs1) s)

/-- FP_LOAD (class 0x13). -/
def fpLoad (r : SeatRef) (size : BitVec 2) (off : BitVec 14) (rd rs1 : RegNo) (s : State) : State :=
  let n := 2 ^ size.toNat
  checked r [(size = 0, 0, 0), ((s.seat r).poisoned [rs1], 5, 0)]
    (fun s => loadTo r (scalarAddr (s.seat r) rs1 off n) n (.fp rd n) s) s

def execFpLoad (sr : SeatRef) (size : BitVec 2) (off : BitVec 14) (rd rs1 : RegNo) (s : State) : Result :=
  .next (seatRun sr (.fpLoad sr size off rd rs1) (fpLoad sr size off rd rs1) s)

/-- R114: whether segment 0 of V[n], which holds F[n], is poisoned. -/
def Seat.fpPoison (t : Seat) (n : RegNo) : Bool := (t.rvp n).getLsbD 0

/-- FP_STORE (class 0x14): F[rd] is read under R114, after the translation checks (R646). -/
def fpStore (r : SeatRef) (size : BitVec 2) (off : BitVec 14) (rd rs1 : RegNo) (s : State) : State :=
  let n := 2 ^ size.toNat
  checked r [(size = 0, 0, 0), ((s.seat r).poisoned [rs1], 5, 0)]
    (fun s =>
      let va := scalarAddr (s.seat r) rs1 off n
      if (s.seat r).fpPoison rd then withPhys r .store va n (fun _ s => raiseSync r 5 1 0 s) s
      else storeFrom r va n ((s.seat r).rf rd) s) s

def execFpStore (sr : SeatRef) (size : BitVec 2) (off : BitVec 14) (rd rs1 : RegNo) (s : State) : Result :=
  .next (seatRun sr (.fpStore sr size off rd rs1) (fpStore sr size off rd rs1) s)

-- LADD (R281 to R285)

/-- R281: bytes of a LADD element. -/
def laddBytes (ty : Nat) : Nat := if ty = 4 then 4 else 2 ^ ty

/-- R285: the LADDs of a coach in flight: held in it, queued at a slice, or forwarded. -/
def inFlight (s : State) (c : Nat) : Nat :=
  let mine (a : LaddReq) : Bool := a.sr.coach.val = c
  (s.coach c).ladds.length + (s.llc.adds.filter mine).length + (s.llc.fwd.filter mine).length
    + ((List.range 8).flatMap fun k => (s.stack k).requests.filter fun r => r.add.any mine).length

/-- R284, R285: the add leaves the seat: the coach's earlier adds to the line have been applied, its copy of the line leaves first, and
a full slice holds the add in the coach. -/
def laddSend (r : SeatRef) (pa ty : Nat) (v : Word) (s : State) : State :=
  let s := evictCopy r.coach (pa / 128) false (waitOwn r.coach (pa / 128) s)
  let a : LaddReq := { sr := r, pa := pa, ty := ty, addend := v }
  if sliceFull s (sliceOf (pa / 128)) then s.updCoach r.coach fun k => { k with ladds := k.ladds ++ [a] }
  else laddArrive s a

/-- LADD (class 0x17): the checks of R283 in their order; the 33rd add of a coach stalls. -/
def ladd (r : SeatRef) (rd rs1 rs2 : RegNo) (ty : BitVec 3) (rsv : BitVec 8) (s : State) : State :=
  let t := s.seat r
  let n := laddBytes ty.toNat
  let va := (t.rx rs1).toNat
  checked r [(4 < ty.toNat || rsv != 0 || rd != 0, 0, 0), (t.poisoned [rs1, rs2], 5, 0), (va % n != 0, 4, 0)]
    (fun s =>
      match translate r .store va s with
      | (.exc c d, u) => raiseSync r c d 0 u
      | (.ok p, u) =>
        if p.space != .mem || !p.cached then raiseSync r 3 p.level 0 u
        else if ty = 4 && !p.uok then raiseSync r 0xB 0 0 u
        else if 32 ≤ inFlight u r.coach then u
        else complete r (laddSend r p.pa ty.toNat (t.rx rs2) u)) s

def execLadd (sr : SeatRef) (rd rs1 rs2 : RegNo) (ty : BitVec 3) (rsv : BitVec 8) (s : State) : Result :=
  .next (seatRun sr (.ladd sr rd rs1 rs2 ty rsv) (ladd sr rd rs1 rs2 ty rsv) s)

end Sys2Proof.Machine
end

