-- ==== Sys2Proof/Machine/Branches.lean ====
section
/-! DEFINITION. Branches (R641), CALL and RET with the shadow stack (R103 to R107), and both forms of SSPSET, with the meanings of
their commands. -/

namespace Sys2Proof.Machine

-- the shadow stack (R103 to R106)

/-- R88: DETAIL of a shadow-stack fault. -/
def detailCall : Nat := 0
def detailRet : Nat := 1
def detailSet : Nat := 2

/-- R103: a slot or head is aligned and lies in an SHD page of the seat's own level; a walk that reads poison comes before both checks
(R646). -/
def shadowCheck (x : Xlat) (va align detail : Nat) : Xlat :=
  match x with
  | .exc 5 d => .exc 5 d
  | .exc _ _ => .exc 0xA detail
  | .ok p => if va % align != 0 then .exc 0xA detail else .ok p

/-- The check of one slot. -/
def shadowAt (r : SeatRef) (va align detail : Nat) (s : State) : Xlat × State :=
  let (x, t) := translate r .shadow va s
  (shadowCheck x va align detail, t)

/-- R103: checks a slot; then `f` acts on it. -/
def withSlot (r : SeatRef) (va detail : Nat) (f : Phys → State → State) (s : State) : State :=
  match shadowAt r va 8 detail s with
  | (.exc c d, t) => raiseSync r c d 0 t
  | (.ok p, t) => f p t

/-- R103: CALL at S or U pushes the return address on the shadow stack. -/
def callShadow (r : SeatRef) (target : Word) (s : State) : State :=
  let t := s.seat r
  let slot := t.ssp - 8
  withSlot r slot.toNat detailCall (fun p s =>
    let ret := t.pc + 4
    goto r target ((storePhys r p 8 ret.toNat 0 s).updSeat r fun t => { t.wx 1 ret with ssp := slot })) s

/-- CALL and CALLR: through the shadow stack at S and U, plain at M (R103, R107). -/
def callTo (r : SeatRef) (target : Word) (s : State) : State :=
  let t := s.seat r
  if t.level = .m then goto r target (s.updSeat r fun t => t.wx 1 (t.pc + 4)) else callShadow r target s

/-- R104: RET at S or U compares the popped slot with X1. -/
def retShadow (r : SeatRef) (s : State) : State :=
  let t := s.seat r
  withSlot r t.ssp.toNat detailRet (fun p s =>
    let (v, u) := loadPhys r p 8 s
    let u := deadRead r v u
    let x1 := t.rx 1
    if v.poison != 0 then raiseSync r 5 0 0 u
    else if v.data != x1.toNat then raiseSync r 9 0 0 u
    else if x1.toNat % 4 != 0 then raiseSync r 4 0 0 u
    else goto r x1 (u.updSeat r fun t => { t with ssp := t.ssp + 8 })) s

-- branches (R641)

/-- R641: a target in words from the branch. -/
def target16 (pc : Word) (off : Half) : Word := pc + off.signExtend 64 * 4
def target26 (pc : Word) (off : BitVec 26) : Word := pc + off.signExtend 64 * 4

/-- R641: whether a condition holds. -/
def condHolds (cond : Nat) (v : Word) : Bool :=
  match cond with
  | 0 => v = 0
  | 1 => v != 0
  | 2 => v.msb
  | 3 => !v.msb
  | 4 => !v.msb && v != 0
  | _ => v.msb || v = 0

/-- BRANCH_COND (class 0x18). -/
def branchCond (r : SeatRef) (cond rs1 : RegNo) (off : Half) (s : State) : State :=
  let t := s.seat r
  checked r [(5 < cond.toNat, 0, 0), (t.poisoned [rs1], 5, 0)]
    (fun s => if condHolds cond.toNat (t.rx rs1) then goto r (target16 t.pc off) s else complete r s) s

def execBranchCond (sr : SeatRef) (cond rs1 : RegNo) (off : Half) (s : State) : Result :=
  .next (seatRun sr (.branchCond sr cond rs1 off) (branchCond sr cond rs1 off) s)

/-- JUMP (class 0x19). -/
def jump (r : SeatRef) (off : BitVec 26) (s : State) : State := goto r (target26 (s.seat r).pc off) s

def execJump (sr : SeatRef) (off : BitVec 26) (s : State) : Result := .next (seatRun sr (.jump sr off) (jump sr off) s)

/-- JR (class 0x1B, function 0): rd and rs2 must be 0. -/
def jr (r : SeatRef) (rd rs1 rs2 : RegNo) (s : State) : State :=
  let t := s.seat r
  checked r [(rd != 0 || rs2 != 0, 0, 0), (t.poisoned [rs1], 5, 0), ((t.rx rs1).toNat % 4 != 0, 4, 0)]
    (goto r (t.rx rs1)) s

def execJr (sr : SeatRef) (rd rs1 rs2 : RegNo) (s : State) : Result := .next (seatRun sr (.jr sr rd rs1 rs2) (jr sr rd rs1 rs2) s)

/-- CALL (class 0x1A). -/
def call (r : SeatRef) (off : BitVec 26) (s : State) : State := callTo r (target26 (s.seat r).pc off) s

def execCall (sr : SeatRef) (off : BitVec 26) (s : State) : Result := .next (seatRun sr (.call sr off) (call sr off) s)

/-- CALLR (class 0x1B, function 1). -/
def callr (r : SeatRef) (rd rs1 rs2 : RegNo) (s : State) : State :=
  let t := s.seat r
  checked r [(rd != 0 || rs2 != 0, 0, 0), (t.poisoned [rs1], 5, 0), ((t.rx rs1).toNat % 4 != 0, 4, 0)]
    (callTo r (t.rx rs1)) s

def execCallr (sr : SeatRef) (rd rs1 rs2 : RegNo) (s : State) : Result := .next (seatRun sr (.callr sr rd rs1 rs2) (callr sr rd rs1 rs2) s)

/-- RET (class 0x1B, function 2): the alignment of X1 is checked after the checks of R104 (R641). -/
def ret (r : SeatRef) (rd rs1 rs2 : RegNo) (s : State) : State :=
  let t := s.seat r
  checked r [(rd != 0 || rs1 != 0 || rs2 != 0, 0, 0), (t.poisoned [1], 5, 0)]
    (fun s =>
      if t.level = .m then (if (t.rx 1).toNat % 4 != 0 then raiseSync r 4 0 0 s else goto r (t.rx 1) s)
      else retShadow r s) s

def execRet (sr : SeatRef) (rd rs1 rs2 : RegNo) (s : State) : Result := .next (seatRun sr (.ret sr rd rs1 rs2) (ret sr rd rs1 rs2) s)

-- SSPSET (R105 to R107, R642)

/-- Reads one word of a shadow stack: its value and whether it is poisoned. -/
def headWord (r : SeatRef) (p : Phys) (off : Nat) (s : State) : (Nat × Bool) × State :=
  let (v, t) := loadPhys r { p with pa := p.pa + off } 8 s
  ((v.data, v.poison != 0), deadRead r v t)

/-- R106: the head words and the parked slot are checked, and the seat moves to the parked stack. -/
def switchStacks (r : SeatRef) (hOld hNew : Word) (po pn : Phys) (s : State) : State :=
  let ((so, q1), s) := headWord r po 8 s
  let ((sn, q2), s) := headWord r pn 8 s
  let ((parkOld, q3), s) := headWord r po 0 s
  let ((p, q4), s) := headWord r pn 0 s
  if q1 || q2 || q3 || q4 then raiseSync r 5 0 0 s
  else if so != hOld.toNat || sn != hNew.toNat || parkOld != 0 || p = 0 then raiseSync r 0xA detailSet 0 s
  else
    withSlot r p detailSet (fun _ s =>
      let u := storePhys r po 8 (s.seat r).ssp.toNat 0 s
      let u := storePhys r pn 8 0 0 u
      finish r (fun t => { t with ssh := hNew, ssp := BitVec.ofNat 64 p }) u) s

/-- R106, R646: the first fault of two checked heads: a walk that read poison comes before a failed check of either. -/
def headFault : Xlat → Xlat → Option (Nat × Nat)
  | .exc 5 d, _ => some (5, d)
  | _, .exc 5 d => some (5, d)
  | .exc c d, _ => some (c, d)
  | _, .exc c d => some (c, d)
  | _, _ => none

/-- SSPSET, switch form (R106): both heads lie in SHD pages of the seat's level. -/
def sspSwitch (r : SeatRef) (w : SysWord) (s : State) : State :=
  let t := s.seat r
  let hOld := t.ssh
  let hNew := t.rx w.rs1
  checked r [(t.level = .m || w.rd != 0 || w.num != 0 || w.rsv != 0, 0, 0), (t.poisoned [w.rs1], 5, 0)]
    (fun s =>
      let (xo, u) := shadowAt r hOld.toNat 16 detailSet s
      let (xn, u) := shadowAt r hNew.toNat 16 detailSet u
      match headFault xo xn, xo, xn with
      | some (c, d), _, _ => raiseSync r c d 0 u
      | none, .ok po, .ok pn => switchStacks r hOld hNew po pn u
      | none, _, _ => u) s

def execSspsetSwitch (sr : SeatRef) (w : SysWord) (s : State) : Result := .next (seatRun sr (.sspsetSwitch sr w) (sspSwitch sr w) s)

/-- SSPSET, unwind form (R106): the last slot discarded is checked; no slot is read or written. -/
def sspUnwind (r : SeatRef) (w : SysWord) (s : State) : State :=
  let t := s.seat r
  let i := w.num.toNat
  let top := t.ssp + BitVec.ofNat 64 (8 * i)
  checked r [(t.level = .m || w.rd != 0 || w.rs1 != 0 || w.rsv != 0 || i = 0 || 255 < i, 0, 0)]
    (fun s => withSlot r (top - 8).toNat detailSet (fun _ s => finish r (fun t => { t with ssp := top }) s) s) s

def execSspsetUnwind (sr : SeatRef) (w : SysWord) (s : State) : Result := .next (seatRun sr (.sspsetUnwind sr w) (sspUnwind sr w) s)

end Sys2Proof.Machine
end

