-- ==== Sys2Proof/Machine/CacheRows.lean ====
section
/-! DEFINITION. What the caches do of themselves: fills that arrive (R255), write-buffer drains (R257, R260), uncorrectable errors in
cache lines (R252, R278), stride prefetches (R261 to R263), and requests at a line's home slice (R276, R277, R520). -/

namespace Sys2Proof.Machine

-- the coach's structures (R252, R255, R257)

/-- R252: an uncorrectable error in the buffer entry of a line, whose segments it poisons, or in the line's copy: a clean copy is
invalidated, and segments of a dirty one are poisoned.  Thonar counts it in an entry or a dirty line. -/
def l1Upset (c : Fin 96) (u : L1Upset) (s : State) : State :=
  let k := s.coach c
  let tag := u.line.toNat
  if u.buffer then
    if k.mbuf.any (ofEntry tag u.host) then
      let f (e : MEntry) : MEntry := if ofEntry tag u.host e then { e with poison := e.poison ||| u.segs, err := true } else e
      (s.updCoach c fun k => { k with mbuf := k.mbuf.map f }).bump (.coach c 3)
    else s
  else
    match k.copyOf tag u.host with
    | none => s
    | some l =>
      if l.dirty then (s.updCoach c fun k => k.mapCopy tag u.host fun l => { l with poison := l.poison ||| u.segs }).bump (.coach c 3)
      else s.updCoach c fun k => k.dropCopy tag u.host

/-- L1_FILL_COMPLETE (R255): the oldest fill in flight arrives; `upset` is an uncorrectable error met in the coach's lines. -/
def execL1FillComplete (c : Fin 96) (upset : Option L1Upset) (s : State) : Result :=
  .next (
    let s := match upset with
      | some u => l1Upset c u s
      | none => s
    match (s.coach c).fills with
    | e :: _ => completeFill c e s
    | [] => s)

/-- WRITE_BUFFER_DRAIN (R257): the oldest entry drains. -/
def execWriteBufferDrain (c : Fin 96) (s : State) : Result := .next (drainOldest c s)

/-- R257, R260: the merge timeout in beats. -/
def mergeTimeout (s : State) : Nat := if s.expert 2 then s.consist.merge else 256

/-- WRITE_BUFFER_TIMEOUT (R257): entries whose first store is a merge timeout ago drain, in order of age. -/
def execWriteBufferTimeout (c : Fin 96) (s : State) : Result :=
  .next (
    let k := s.coach c
    drainFirst c (k.mbuf.takeWhile fun e => e.at0 + mergeTimeout s ≤ k.now).length s)

-- the stride prefetcher (R261, R262)

/-- R262: whether a prefetch of a line may be made: the page is mapped by a TLB entry of the stream's ASID, or its seat is at M. -/
def prefetchMapped (k : Coach) (t : Stream) (line : Nat) : Bool :=
  (k.seat t.seat).level = .m || k.tlb.any fun e =>
    (e.pte.getLsbD 6 || e.asid = t.asid) &&
      (if e.giga then bits e.pte.toNat 30 20 = line * 128 / 2 ^ 30 else bits e.pte.toNat 21 29 = line * 128 / 2 ^ 21)

/-- The lines that a stream asks for: ahead of its last miss, up to its depth, within the 2 MiB page of that miss. -/
def prefetchLines (t : Stream) : List Nat :=
  (List.range t.depth).filterMap fun i =>
    let a : Int := (t.last : Int) + t.stride * ((i + 1 : Nat) : Int)
    if 0 ≤ a && a.toNat / 16384 = t.last / 16384 then some a.toNat else none

/-- PREFETCH_ISSUE: a confirmed stream's lines enter the LLC, never the L1. -/
def execPrefetchIssue (c : Fin 96) (stream : Fin 16) (s : State) : Result :=
  .next (
    let k := s.coach c
    match k.streams[stream.val]? with
    | none => s
    | some t =>
      let s := s.updCoach c fun k => { k with streams := lset k.streams stream.val fun t => { t with depth := 0 } }
      (prefetchLines t).foldl (fun s line =>
        if prefetchMapped k t line && windowEnd ≤ 128 * line && 128 * line < memBytes && llcLine s line = none then (llcRead s line true).2
        else s) s)

-- requests at a home slice (R276 to R278)

/-- R278: an uncorrectable error in an LLC line: a clean one is invalidated, segments of a dirty one are poisoned; it counts. -/
def llcUpset (line : Nat) (segs : BitVec 4) (s : State) : State :=
  match llcLine s line with
  | none => s
  | some l =>
    if segs = 0 then s
    else
      (putLine s line (if l.dirty then some { l with poison := l.poison ||| segs } else none)).bump
        (.llcSlice (sliceFin (sliceOf line)) 4)

/-- The line that a request names. -/
def reqLine : LlcReq → Nat
  | .hostRead a _ => a.toNat / 128
  | .hostWrite a _ => a.toNat / 128
  | .coachRead l => l.toNat
  | .evict l => l.toNat

/-- R521: the snoop filter notes a line that the host reads; from a full filter the least recently used line is back-invalidated.
Windows are uncached. -/
def hostHolds (s : State) (line : Nat) : State :=
  if 128 * line < windowEnd || memBytes ≤ 128 * line then s
  else
    let rest := s.llc.snoop.erase line
    let t := s.updLlc fun c => { c with snoop := line :: rest.take 1048575 }
    match rest.drop 1048575 with
    | [] => t
    | old :: _ => t.send (.backInv old)

/-- Serves a request at its home slice; requests of the host need the CXL link, and a pinned line is not evicted. -/
def llcServe (req : LlcReq) (s : State) : State :=
  match req with
  | .hostRead a n =>
    if !s.sys.cxlUp then s
    else
      let (bs, p, t) := hostMemRead (hostHolds s (a.toNat / 128)) a.toNat n.val
      t.send (.data bs p)
  | .hostWrite a bs => if s.sys.cxlUp then hostMemWrite s a.toNat bs else s
  | .coachRead l => if windowEnd ≤ 128 * l.toNat && 128 * l.toNat < memBytes then (llcRead s l.toNat true).2 else s
  | .evict l =>
    match llcLine s l.toNat with
    | none => s
    | some x =>
      if pinned s l.toNat then s
      else putLine (if x.dirty then writeBack s l.toNat x else s) l.toNat none

/-- LLC_ACCESS. -/
def execLlcAccess (req : LlcReq) (upset : BitVec 4) (s : State) : Result :=
  if wf (.llcAccess req upset) then .next (llcServe req (llcUpset (reqLine req) upset s)) else .fault .illFormed

end Sys2Proof.Machine
end

