-- ==== Sys2Proof/Machine/CarriageRx.lean ====
section
/-! DEFINITION. Carriage, receiving side: the check of a frame (R369, R394), delivery in sequence (R382 to R385), what a delivered frame
does (R332, R352, R397, R402, R423, R454, R487), and the far end of remote accesses (R397, R398), with the meanings of their commands. -/

namespace Sys2Proof.Machine

-- remote accesses (R397, R398)

/-- R397: this module serves a partner's load at the home slices of its bytes; an address outside its memory reads as poison. -/
def serveRead (s : State) (f : Frame) : State :=
  let n := f.hdr.leaf.toNat % 257
  let a : Nat := f.hdr.offset.toNat
  let (bs, t) := if inRange 0 a n then readPoison s a n false else (List.replicate n (0, true), s)
  enqueueFrame t ⟨flowHdr t (frameFlow f) 4 1 0 f.hdr.tag.toNat n a true, if n = 0 then [(0, true)] else poisonWords bs⟩

/-- R397: this module serves a partner's store; one to an address outside its memory is dropped. -/
def serveWrite (s : State) (f : Frame) : State :=
  let n := f.hdr.leaf.toNat % 257
  let a : Nat := f.hdr.offset.toNat
  if inDest 0 a n then writePoison s a ((payloadBytes f).take n) false false else s

/-- R397: remote data completes the load for which a seat waits. -/
def remoteComplete (r : SeatRef) (v p : Nat) (s : State) : State :=
  match (s.seat r).wait with
  | .remote d => remoteArrive r d v p s
  | _ => s

/-- The segments of a payload that are marked, as a mask. -/
def payloadMask (f : Frame) : Nat := (f.payload.zipIdx).foldl (fun t w => t + b2n w.1.2 * 2 ^ w.2) 0

def remoteResponse (s : State) (f : Frame) : State :=
  match notifySeat f.hdr.tag.toNat with
  | some r => remoteComplete r (leNat ((payloadBytes f).map (·.1))) (payloadMask f) s
  | none => s

-- what a delivered frame does

/-- R423: the micro-flits of a Cord frame take effect in order. -/
def flitFrame (s : State) (f : Frame) : State :=
  let parent := s.consist.rank != 0 && (s.flow (frameFlow f)).peer = treeParent s.consist.rank
  ((f.payload.filter fun w => !w.2).flatMap fun w => flitsOf w.1).foldl (fun t w => flitEffect t parent w) s

/-- R454, R487: a control frame carries a layer's partials (TAG below 4,096), a Waybill entry (TAG 4,096, LEAF 0) or its
acknowledgement (LEAF 1), a request for an entry (LEAF 2) or the entry that answers one (LEAF 3). -/
def controlFrame (s : State) (f : Frame) : State :=
  let bs := (payloadBytes f).map (·.1)
  let tag := f.hdr.tag.toNat
  if tag < 4096 then partialCame s tag f.hdr.leaf.toNat (leNat (bs.take 4)) (leNat ((bs.drop 4).take 4))
  else if tag = 4096 && f.hdr.leaf = 0 then mirrorReceive s (bs.take 4096)
  else if tag = 4096 && f.hdr.leaf = 2 then answerPartner s (leNat (bs.take 8))
  else if tag = 4096 && f.hdr.leaf = 3 then entryFetched s (bs.take 4096)
  else if tag = 4096 && f.hdr.leaf = 1 && s.way.toPartner = some (leNat (bs.take 8)) then mirrorAck s
  else s

/-- R332, R352, R402: a data frame carries bytes for a module address, a message of a collective, or part of an exchange slot. -/
def dataFrame (s : State) (f : Frame) : State :=
  let kind := frameKind f
  let a : Nat := f.hdr.offset.toNat % 2 ^ 56
  let bs := payloadBytes f
  if kind = 0 then (if inDest 0 a bs.length then writePoison s a bs false false else s)
  else if kind ≤ 17 then collReceive s f
  else if kind = 32 && inDest 0 a bs.length then
    let t := writePoison s a bs false false
    { t with arrivals := t.arrivals ++ [⟨f.hdr.tag.toNat, f.hdr.leaf.toNat, bs.length, bs.any (·.2)⟩] }
  else s

/-- R384: a frame that is next in sequence is delivered. -/
def deliverFrame (s : State) (f : Frame) : State :=
  match f.hdr.type.toNat with
  | 0 => match frameClass f with
    | 0 => flitFrame s f
    | 1 => controlFrame s f
    | 2 => dataFrame s f
    | _ => s
  | 3 => serveRead s f
  | 4 => remoteResponse s f
  | 5 => serveWrite s f
  | _ => s

-- sequence (R382, R383, R385, R447)

/-- R447: a frame of a collective that ends in the Tender is held, unacknowledged, while the Tender's queue is full. -/
def tenderHolds (s : State) (f : Frame) : Bool :=
  f.hdr.type = 0 && frameClass f = 2 && 1 ≤ frameKind f && frameKind f ≤ 17 && 1024 ≤ s.tender.queue.length
    && (List.range 16).any fun q => (s.coll q).cur.any fun c => cTag c.desc = f.hdr.tag.toNat && cTender c.desc

/-- Delivers the held frames of a flow that are next in sequence, at most n of them. -/
def deliverNext : Nat → Nat → State → State
  | 0, _, s => s
  | k + 1, n, s =>
    match (s.flow n).ahead.find? fun f => f.hdr.seq = (s.flow n).rx with
    | none => s
    | some f =>
      if tenderHolds s f then s
      else
        let t := s.updFlow n fun q => { q with
          ahead := q.ahead.erase f, rx := q.rx + 1, toAck := q.toAck + 1, nackAt := none }
        let t := deliverFrame t f
        deliverNext k n (if 8 ≤ (t.flow n).toAck then sendAck t n else t)

/-- R385: whether the present gap of a flow was reported within one retransmission timeout. -/
def nackedNow (s : State) (n : Nat) : Bool :=
  match (s.flow n).nackAt with
  | some t => s.time.ns < t + startTimeout s n
  | none => false

/-- R382, R383, R385: a sequenced frame is delivered, held ahead of a gap, or discarded as a duplicate, which is acknowledged again. -/
def sequenceFrame (s : State) (f : Frame) : State :=
  let n := frameFlow f
  let k := s.flow n
  if seqBefore f.hdr.seq k.rx then s.updFlow n fun q => { q with toAck := max q.toAck 1 }
  else
    let t := if k.ahead.any fun g => g.hdr.seq = f.hdr.seq then s else s.updFlow n fun q => { q with ahead := q.ahead ++ [f] }
    let t := deliverNext (t.flow n).ahead.length n t
    let q := t.flow n
    if q.ahead = [] || (q.ahead.any fun g => g.hdr.seq = q.rx) || nackedNow t n then t else sendNack t n

/-- R385: the acknowledgement that rides on a data frame, when it advances. -/
def rideAck (s : State) (f : Frame) : State :=
  if (s.flow (frameFlow f)).unacked.any fun u => seqBefore u.frame.hdr.seq f.hdr.ack then
    ackFlow s (frameFlow f) f.hdr.ack (f.hdr.flags.getLsbD 3)
  else s

/-- A frame without an uncorrectable codeword acts by its TYPE (R381); type 7 moves a lane of the port (R363), type 6 has
its own command, and the rest are reserved. -/
def acceptFrame (s : State) (p : Nat) (f : Frame) : State :=
  let n := frameFlow f
  if f.hdr.type = 7 then laneRequest s p f
  else if !(s.flow n).bound || (s.flow n).failed then s
  else match f.hdr.type.toNat with
    | 1 => ackFlow s n f.hdr.ack (f.hdr.flags.getLsbD 3)
    | 2 => resend (rideAck s f) n f.hdr.seq
    | 0 => sequenceFrame (rideAck s f) f
    | 3 => sequenceFrame (rideAck s f) f
    | 4 => sequenceFrame (rideAck s f) f
    | 5 => sequenceFrame (rideAck s f) f
    | _ => s

/-- R356: the bytes of the Ethernet frame that carries a Carriage frame, its check sequence included. -/
def macBytes (f : Frame) : Nat := 14 + 40 + 8 + wireBytes f + 4

/-- R369, R378: the port corrects the codewords of a frame, or discards the whole frame for one with 3 or more symbol errors.  On a
scale-out port `rx.fec` RS(544,514) codewords could not be corrected: they count, and the frame does not come (R356).  R395: a data frame
that arrives with CE makes the next acknowledgement carry ECE. -/
def frameReceive (s : State) (p : Port) (f : Frame) (symErrs : List Nat) (rx : FrameRx) : State :=
  if !carrying s p.val then s
  else if rx.fec != 0 then s.bump (.port p 1) rx.fec
  else if !coupling p.val && 9216 < macBytes f then s
  else
    let fixed := (symErrs.filter fun k => k = 1 || k = 2).length
    let lost := (symErrs.filter fun k => 3 ≤ k).length
    let t := if fixed = 0 then s else s.bump (.port p 0) fixed
    if lost != 0 then (if coupling p.val then t.bump (.port p 1) lost else t).bump (.port p 2)
    else
      let n := frameFlow f
      let t := if rx.ce && 7 ≤ p.val && frameClass f = 2 then t.updFlow n fun k => { k with ece := k.ece || k.bound } else t
      acceptFrame t p.val f

/-- CARRIAGE_FRAME_RECEIVE. -/
def execCarriageFrameReceive (p : Port) (f : Frame) (symErrs : List Nat) (rx : FrameRx) (s : State) : Result :=
  if wf (.carriageFrameReceive p f symErrs rx) then .next (frameReceive s p f symErrs rx) else .fault .illFormed

/-- R394: whether a datagram comes from the consist's address of the rank in SRC, to the consist's port. -/
def datagramOk (s : State) (src : BitVec 128) (dst : Half) (f : Frame) : Bool :=
  f.hdr.src.toNat < s.consist.ranks.length && src = mget 0 s.consist.addrs f.hdr.src.toNat && dst.toNat = s.consist.udpPort

/-- UDP_DATAGRAM_RECEIVE: a scale-out port accepts a datagram, or counts and drops it (R394). -/
def execUdpDatagramReceive (p : Port) (srcAddr : BitVec 128) (dstPort : Half) (f : Frame) (s : State) : Result :=
  if !wf (.udpDatagramReceive p srcAddr dstPort f) then .fault .illFormed
  else .next (
    if p.val < 7 || !carrying s p.val then s
    else if datagramOk s srcAddr dstPort f then frameReceive s p f [] ⟨false, 0⟩
    else s.bump (.portDrop p 1))

/-- REMOTE_READ_REQUEST: a frame of TYPE 3 arrives, and the read is served (R397). -/
def execRemoteReadRequest (p : Port) (f : Frame) (s : State) : Result :=
  if !wf (.remoteReadRequest p f) then .fault .illFormed
  else .next (if f.hdr.type = 3 then frameReceive s p f [] ⟨false, 0⟩ else s)

/-- REMOTE_WRITE: a frame of TYPE 5 arrives, and the store is served (R397, R398). -/
def execRemoteWrite (p : Port) (f : Frame) (s : State) : Result :=
  if !wf (.remoteWrite p f) then .fault .illFormed
  else .next (if f.hdr.type = 5 then frameReceive s p f [] ⟨false, 0⟩ else s)

/-- REMOTE_READ_RESPONSE: the data of a remote load reach the seat that waits (R397). -/
def execRemoteReadResponse (sr : SeatRef) (data : List Byte) (poison : Byte) (s : State) : Result :=
  if wf (.remoteReadResponse sr data poison) then .next (remoteComplete sr (leNat data) poison.toNat s) else .fault .illFormed

/-- REMOTE_ACCESS_UNREACHABLE: a remote load in flight finds no way to its partner and returns poison (R398). -/
def execRemoteAccessUnreachable (sr : SeatRef) (s : State) : Result := .next (remoteComplete sr 0 0xFF s)

end Sys2Proof.Machine
end

