-- ==== Sys2Proof/Machine/Thonar.lean ====
section
/-! DEFINITION. Consists, firmware and maintenance under sessions (R583 to R597), with the meanings of their commands but those that
move a coach. -/

namespace Sys2Proof.Machine

-- chunks (R583, R589)

/-- Bytes of a chunked load at an offset. -/
def putChunk (m : SMap (Option Byte)) (off : Nat) (bs : List Byte) : SMap (Option Byte) :=
  (bs.zipIdx).foldl (fun m e => mset none m (off + e.2) (some e.1)) m

/-- The bytes of a complete load. -/
def chunkBytes (m : SMap (Option Byte)) : List Byte := m.map fun e => e.2.getD 0

-- loading a consist (R586 to R589)

/-- R586, R588: the header of a consist of n bytes: FORMAT, SIZE, reserved bits, and the sections that must be present. -/
def headerOk (b : List Byte) : Bool :=
  let n := entryNat b 2 2
  let ids := (List.range n).map fun i => entryNat b (0x48 + 16 * i) 2
  entryNat b 0 2 = 1 && entryNat b 8 4 = b.length && 0x48 + 16 * n + 96 ≤ b.length && entryNat b 0x10 8 < 2 ^ 13
    && (List.range n).all (fun i =>
      let d := 0x48 + 16 * i
      entryNat b (d + 2) 2 = 0 && entryNat b (d + 12) 4 = 0 && entryNat b (d + 4) 4 + entryNat b (d + 8) 4 ≤ b.length - 96)
    && [1, 2, 3].all fun k => ids.contains k

/-- R586: the settings that a consist's bytes spell, with those of its header. -/
def readConsist (b : List Byte) : Option Consist :=
  if !headerOk b then none
  else (Config.parseConsist b).map fun c => { c with
    number := entryNat b 4 4
    digest := some (shaNat b)
    probation := if entryNat b 0xC 4 = 0 then 600 else entryNat b 0xC 4
    expert := BitVec.ofNat 13 (entryNat b 0x10 8)
    target := BitVec.ofNat 384 (entryNat b 0x18 48) }

/-- R589: the checks of a complete consist, in order: the status that rejects it, or its settings. -/
def consistCheck (s : State) (b : List Byte) : Nat × Option Consist :=
  let n := b.length - 96
  let signed : Bool := match s.mgmt.opKey with
    | some k => 96 ≤ b.length && Config.verify k (b.take n) (b.drop n)
    | none => false
  if !signed then (13, none)
  else if entryNat b 0x18 48 != leNat identityDigest then (13, none)
  else if entryNat b 4 4 ≤ s.mgmt.maxNum then (13, none)
  else
    match readConsist b with
    | none => (4, none)
    | some c => if consistOk c then (0, some c) else (4, none)

/-- CONSIST_LOAD (R589). -/
def cmdConsistLoad (ask : Ticket) (pl : List Byte) (s : State) : State :=
  let off := entryNat pl 0 4
  let total := entryNat pl 4 4
  let n := entryNat pl 8 4
  if pl.length != 12 + n || total = 0 || 2 ^ 20 < total || total < off + n then deny ask 4 s
  else
    let old := if s.mgmt.stageLen = total then s.mgmt.stage else []
    let st := putChunk old off (pl.drop 12)
    let t := s.updMgmt fun m => { m with stage := st, stageLen := total, staged := none }
    if st.length < total then respond t ask 0 (leBytes 4 st.length)
    else
      let u := t.updMgmt fun m => { m with stage := [], stageLen := 0 }
      match consistCheck s (chunkBytes st) with
      | (0, some c) => respond (u.updMgmt fun m => { m with staged := some c, maxNum := c.number }) ask 0 (leBytes 4 total)
      | (e, _) => deny ask e u

def execConsistLoad (path : Path) (s : State) : Result := .next (serve path 0x30 cmdConsistLoad s)

-- applying and reverting (R590, R593)

/-- R590: step s has already begun. -/
def begun (s : State) (step : Nat) : Bool :=
  s.tender.run && (if s.halted then step < s.tender.step else step ≤ s.tender.step)

/-- R590, R593: a change is accepted: it takes effect at once at a quiescent point, else it waits for its step. -/
def acceptChange (ask : Ticket) (kind : Nat) (pl : List Byte) (s : State) : State :=
  let step := entryNat pl 0 8
  if step != 0 && begun s step then deny ask 4 s
  else if s.mgmt.change.isSome then deny ask 8 s
  else
    let t := s.updMgmt fun m => { m with change := some (step, kind), priv := if kind = 0 then some .consist else m.priv }
    let u := consistRun t false
    respond u ask 0 (leBytes 8 (if s.quiescent then s.tender.step else step))

def cmdConsistApply (ask : Ticket) (pl : List Byte) (s : State) : State :=
  match s.mgmt.staged with
  | none => deny ask 5 s
  | some c => if votesOk s c then acceptChange ask 0 pl s else deny ask 4 s

def execConsistApply (path : Path) (s : State) : Result := .next (serve path 0x31 cmdConsistApply s)

/-- CONSIST_CONFIRM ends probation (R591). -/
def cmdConsistConfirm (ask : Ticket) (_ : List Byte) (s : State) : State :=
  if s.mgmt.probEnd.isNone then deny ask 5 s
  else respond (s.updMgmt fun m => { m with probEnd := none, priv := none }) ask 0 []

def execConsistConfirm (path : Path) (s : State) : Result := .next (serve path 0x32 cmdConsistConfirm s)

def cmdConsistRevert (ask : Ticket) (pl : List Byte) (s : State) : State :=
  if s.mgmt.prev.isNone then deny ask 5 s else acceptChange ask 1 pl s

def execConsistRevert (path : Path) (s : State) : Result := .next (serve path 0x33 cmdConsistRevert s)

def execConsistFactory (path : Path) (s : State) : Result :=
  .next (serve path 0x34 (fun ask pl s => acceptChange ask 2 pl s) s)

-- firmware (R583 to R585)

/-- R582, R584: the components that have slots. -/
def compOk (c : Nat) : Bool := [1, 2, 3].contains c || (0x10 ≤ c && c ≤ 0x17) || (0x20 ≤ c && c ≤ 0x23)

def compCode : FwComp → Nat
  | .thonar => 1
  | .microcode => 2
  | .tender => 3
  | .memCtl k => 0x10 + k.val
  | .dsp e => 0x20 + e.val

/-- The inactive slot of a component holds an image, or is empty. -/
def setInactive (k : Fw) (i : Option Image) : Fw := if k.slotB then { k with a := i } else { k with b := i }

/-- R583: the checks of a complete image: signature, component, digest, then the fused minimum. -/
def imageCheck (s : State) (comp : Nat) (b : List Byte) : Nat × Option Image :=
  match Config.parseImage b with
  | none => (13, none)
  | some (i, sig) =>
    if !Config.verify Config.firmwareKey b sig || i.comp != comp || shaNat (Config.imageBody b) != i.digest then (13, none)
    else if i.svn < (s.fwOf comp).minSvn then (14, none)
    else (0, some i)

/-- FW_LOAD (R583): the inactive slot is empty from the first chunk until the image has passed its checks. -/
def cmdFwLoad (ask : Ticket) (pl : List Byte) (s : State) : State :=
  let comp := entryNat pl 0 2
  let off := entryNat pl 4 4
  let total := entryNat pl 8 4
  let bs := pl.drop 12
  if !compOk comp || total = 0 || total < off + bs.length then deny ask 4 s
  else
    let k := s.fwOf comp
    let st := putChunk (if k.stageLen = total then k.staged else []) off bs
    let t := s.updFw comp fun k => { setInactive k none with staged := st, stageLen := total }
    if st.length < total then respond t ask 0 (leBytes 4 st.length)
    else
      let (e, i) := imageCheck s comp (chunkBytes st)
      let u := t.updFw comp fun k => { setInactive k i with staged := [], stageLen := 0 }
      if e != 0 then deny ask e u else respond u ask 0 (leBytes 4 total)

def execFwLoad (path : Path) (s : State) : Result := .next (serve path 0x40 cmdFwLoad s)

/-- R584: what starts with an activation: Thonar's sessions close, an engine's ports retrain, or every coach in service is to move. -/
def activationStart (s : State) (comp : Nat) : State :=
  if comp = 1 then s.updMgmt fun m => { m with sessions := [] }
  else if comp = 2 then s.updMgmt fun m => { m with ucodeLeft := (List.range 96).filter fun c => posOf s c < 100 }
  else if 0x20 ≤ comp then (portsOf (comp - 0x20)).foldl (fun t p => if (t.port p).state = 0 then t else retrainLink (portDown t p) p) s
  else s

/-- R584, R585: a component starts to move to its other slot. -/
def activate (ask : Ticket) (pl : List Byte) (s : State) : State :=
  let comp := entryNat pl 0 2
  let k := s.fwOf comp
  if !compOk comp then deny ask 4 s
  else
    match k.inactive with
    | none => deny ask 5 s
    | some i =>
      if i.svn < k.minSvn then deny ask 14 s
      else if i.compat != (k.active.map (·.compat)).getD i.compat && !s.halted then deny ask 5 s
      else if comp = 2 && !(s.sys.posMap.contains 0xFE) then deny ask 5 s
      else activationStart (s.updMgmt fun m => { m with priv := some (.firmware comp (some ask)) }) comp

def execFwActivate (path : Path) (s : State) : Result := .next (serve path 0x41 activate s)
def execFwRevert (path : Path) (s : State) : Result := .next (serve path 0x42 activate s)

/-- R572: VERSION and SLOT of a component. -/
def slotReport (s : State) (comp : Nat) : List Byte :=
  leBytes 4 (((s.fwOf comp).active.map (·.version)).getD 0) ++ leBytes 1 (b2n (s.fwOf comp).slotB)

/-- The activation in progress of a component. -/
def activating (s : State) (comp : Nat) : Option (Option Ticket) :=
  match s.mgmt.priv with
  | some (.firmware c ask) => if c = comp then some ask else none
  | _ => none

/-- FW_ACTIVATION_COMPLETE: the component runs its other slot, and the command completes (R584). -/
def execFwActivationComplete (comp : FwComp) (s : State) : Result :=
  .next (
    let c := compCode comp
    match activating s c with
    | none => s
    | some ask =>
      if c = 2 && s.mgmt.ucodeLeft != [] then s
      else
        let t := (s.updFw c fun k => { k with slotB := !k.slotB }).updMgmt fun m => { m with priv := none }
        respondOpt t ask 0 (slotReport t c))

/-- FW_SELF_TEST_REVERT: the component returns to its previous slot at once (R585). -/
def execFwSelfTestRevert (comp : FwComp) (s : State) : Result :=
  .next (
    let c := compCode comp
    let back (t : State) : State :=
      let u := if c = 2 then (List.range 96).foldl (fun u i => u.updCoach i fun k => { k with ucodeB := (u.fwOf 2).slotB }) t else t
      u.raise 0x0070 c (b2n (u.fwOf c).slotB)
    match activating s c with
    | some ask => respondOpt (back (s.updMgmt fun m => { m with priv := none, ucodeLeft := [] })) ask 5 []
    | none =>
      match (s.fwOf c).inactive with
      | none => s
      | some _ => back (s.updFw c fun k => { k with slotB := !k.slotB }))

/-- FW_COMMIT raises the fused minimum to the active image's security version (R585). -/
def cmdFwCommit (ask : Ticket) (pl : List Byte) (s : State) : State :=
  let comp := entryNat pl 0 2
  if !compOk comp then deny ask 4 s
  else
    let t := s.updFw comp fun k => { k with minSvn := max k.minSvn ((k.active.map (·.svn)).getD 0) }
    respond t ask 0 (leBytes 4 (t.fwOf comp).minSvn)

def execFwCommit (path : Path) (s : State) : Result := .next (serve path 0x43 cmdFwCommit s)

-- maintenance (R361, R324, R596, R597, R550, R595)

/-- LASER_RETIRE (R361). -/
def cmdLaserRetire (ask : Ticket) (pl : List Byte) (s : State) : State :=
  let e := entryNat pl 0 1
  let u := entryNat pl 1 1
  if 3 < e || 1 < u then deny ask 4 s
  else
    match retireLaser s e (if u = 0 then .a else .b) with
    | none => deny ask 5 s
    | some t => respond t ask 0 (leBytes 1 (laserCode (t.engine e).a) ++ leBytes 1 (laserCode (t.engine e).b))

def execLaserRetire (path : Path) (s : State) : Result := .next (serve path 0x50 cmdLaserRetire s)

/-- RETRAIN: one channel at a time; the response comes when retraining ends (R324). -/
def cmdRetrain (ask : Ticket) (pl : List Byte) (s : State) : State :=
  let k := entryNat pl 0 1
  let ch := entryNat pl 1 1
  if 7 < k || 31 < ch then deny ask 4 s
  else if s.mem.retrain.isSome then deny ask 8 s
  else (s.updMem fun m => { m with retrain := some ⟨k, ch, 0, some ask⟩ }).updMgmt fun m => { m with priv := some .retrain }

def execRetrain (path : Path) (s : State) : Result := .next (serve path 0x51 cmdRetrain s)

/-- RETRAIN_WINDOW: a window of at most 2 µs, during which the channel's requests wait; it may end retraining, passed or failed:
the third failure retires the channel's pseudo-channels (R324, R325). -/
def execRetrainWindow (passed : Option Bool) (s : State) : Result :=
  .next (match s.mem.retrain with
    | none => s
    | some r =>
      let finish (t : State) (status : Nat) : State :=
        let u := trainedNow r.stack r.channel (t.updMem fun m => { m with retrain := none })
        let u := if r.ask.isSome then u.updMgmt fun m => { m with priv := none } else u
        respondOpt u r.ask status []
      match passed with
      | none => s
      | some true => finish s 0
      | some false =>
        if r.fails < 2 then s.updMem fun m => { m with retrain := some { r with fails := r.fails + 1 } }
        else finish (retirePc (retirePc s (64 * r.stack + 2 * r.channel)) (64 * r.stack + 2 * r.channel + 1)) 0)

/-- R596: calibration of sensors from `first` on begins. -/
def calibrate (s : State) (first stop : Nat) (ask : Option Ticket) : State :=
  s.updMgmt fun m => { m with priv := some (.calibrate first stop ask), sensor := some first }

/-- RECALIBRATE (R596). -/
def cmdRecalibrate (ask : Ticket) (pl : List Byte) (s : State) : State :=
  let k := entryNat pl 0 2
  if k = 0xFFFF then (if Config.sensorCount = 0 then respond s ask 0 [] else calibrate s 0 Config.sensorCount (some ask))
  else if Config.sensorCount ≤ k then deny ask 4 s
  else calibrate s k (k + 1) (some ask)

def execRecalibrate (path : Path) (s : State) : Result := .next (serve path 0x52 cmdRecalibrate s)

/-- SENSOR_RECAL_TIMER: once per 24 h, when no privileged operation runs (R580, R596). -/
def execSensorRecalTimer (s : State) : Result :=
  .next (if s.mgmt.priv.isSome || Config.sensorCount = 0 then s else calibrate s 0 Config.sensorCount none)

/-- SENSOR_CALIBRATION_COMPLETE: the next sensor in turn starts (R596). -/
def execSensorCalibrationComplete (s : State) : Result :=
  .next (match s.mgmt.priv with
    | some (.calibrate k stop ask) =>
      if k + 1 < stop then calibrate s (k + 1) stop ask
      else respondOpt (s.updMgmt fun m => { m with priv := none, sensor := none }) ask 0 []
    | _ => s)

/-- R597: the trim of a half after one correction, and whether the limit stops it. -/
def trimStep (trim err : Int) : Int × Bool :=
  let d : Int := if 10 < err then -5 else if err < -10 then 5 else 0
  if trim + d < -30 || 30 < trim + d then (trim, true) else (trim + d, false)

/-- R597: re-trims the basic pace points of both halves; the rails move at the next step boundary. -/
def retrim (s : State) : State :=
  if s.expert 0 then s
  else
    let (w, lw) := trimStep s.power.trimW (Config.trimError ((halfRates s true).getD 1 0) s.power.coreW)
    let (e, le) := trimStep s.power.trimE (Config.trimError ((halfRates s false).getD 1 0) s.power.coreE)
    let t := s.updPower fun p => { p with trimW := w, trimE := e }
    let t := if lw then t.raise 0x0073 0 (intBits 16 w) else t
    let t := if le then t.raise 0x0073 1 (intBits 16 e) else t
    if t.quiescent then retarget t else t

/-- RETRIM (R597). -/
def cmdRetrim (ask : Ticket) (_ : List Byte) (s : State) : State :=
  let t := retrim s
  respond t ask 0 (leBytes 2 (intBits 16 t.power.trimW) ++ leBytes 2 (intBits 16 t.power.trimE))

def execRetrim (path : Path) (s : State) : Result := .next (serve path 0x53 cmdRetrim s)

/-- RETRIM_TIMER: once per 24 h, when no privileged operation runs. -/
def execRetrimTimer (s : State) : Result := .next (if s.mgmt.priv.isSome then s else retrim s)

/-- TIME_OF_DAY on a management path (R550). -/
def cmdMgmtTime (ask : Ticket) (pl : List Byte) (s : State) : State :=
  todAccept s none (some ask) (entryNat pl 0 8) (entryNat pl 8 1)

def execMgmtTimeOfDay (path : Path) (s : State) : Result := .next (serve path 0x55 cmdMgmtTime s)

/-- R595: spare blocks left after n retirements, in parts per 10,000 of the capacity. -/
def sparesLeft (n : Nat) : Nat := (7 * Config.flashBlocks / 100 - n) * 10000 / max Config.flashBlocks 1

/-- FLASH_BLOCK_RETIRE: a block is retired and its data rewritten to a spare; below 0.5 % the flash becomes read-only (R595). -/
def flashRetire (s : State) (block : Nat) : State :=
  if s.mgmt.flashBad.contains block then s
  else
    let t := s.updMgmt fun m => { m with flashBad := m.flashBad ++ [block] }
    let left := sparesLeft t.mgmt.flashBad.length
    if 50 ≤ left || s.mgmt.flashRo then t
    else
      let u := (t.updMgmt fun m => { m with flashRo := true }).raise 0x0072 left 0
      if s.consist.partner.isNone then u.raiseStop 4 2 else u

def execFlashBlockRetire (block : Word32) (s : State) : Result := .next (flashRetire s block.toNat)

end Sys2Proof.Machine
end

