-- ==== Sys2Proof/Machine/CoachMgmt.lean ====
section
/-! DEFINITION. What Thonar does with coaches: reset after a stop (R101, R102, R647), substitution and retirement (R13 to R15, R28),
self-test after a divergence (R512), and moves onto new microcode (R584), with the meanings of their commands. -/

namespace Sys2Proof.Machine

-- substitution (R15, R28)

/-- R647: a coach after a reset: what Thonar counts about the logical coach stays, and so do its adds and stores still on their way. -/
def freshCoach (k : Coach) : Coach :=
  { aFaults := k.aFaults, subDue := k.subDue, aFaultCt := k.aFaultCt, stops := k.stops, deadRd := k.deadRd, bankErr := k.bankErr, wakes := k.wakes
    ladds := k.ladds, ucodeB := k.ucodeB
    seats := k.seats.filterMap fun e => if e.2.remSt = 0 then none else some (e.1, { remSt := e.2.remSt }) }

/-- R15: the idle spare at the lowest position of the same half as a position, or else of the other half. -/
def spareFor (s : State) (old : Nat) : Option Nat :=
  let idle := (List.range 100).filter fun p => s.sys.posMap.getD p 0 = 0xFE
  match idle.find? fun p => westPos p = westPos old with
  | some p => some p
  | none => idle.head?

/-- R28: a change of the coach map, with the map generation stepped before and after it. -/
def remap (s : State) (f : List (BitVec 8) → List (BitVec 8)) : State :=
  s.updSys fun y => { y with posMap := f y.posMap, mapGen := (y.mapGen + 2) % 2 ^ 32 }

/-- R15: logical coach c moves to a spare; its former position is marked `left`; without a spare the coach is retired. -/
def moveCoach (s : State) (c : Nat) (left : BitVec 8) : State :=
  let old := posOf s c
  let s := flushCoach c s
  let s := s.updCoach c fun k => { freshCoach k with stops := [], aFaults := [], subDue := false }
  match spareFor s old with
  | some new =>
    (remap s fun m => lset (lset m old fun _ => left) new fun _ => BitVec.ofNat 8 c).raise 0x0011
      (c + 2 ^ 7 * old + 2 ^ 14 * new) s.sys.active
  | none =>
    let t := (remap s fun m => lset m old fun _ => 0xFF).updSys fun y => { y with active := y.active - 1 }
    t.raise 0x0012 (c + 2 ^ 7 * old) t.sys.active

def mapped (s : State) (c : Nat) : Bool := posOf s c < 100

/-- R343: a descriptor of a mover in flight writes to a tile of the coach. -/
def tileInFlight (s : State) (c : Nat) : Bool :=
  s.movers.any fun e => match e.2.cur with
    | some m => dDstKind m.desc = 3 && bits (dDst m.desc) 0 7 = c
    | none => false

/-- R102, R511: a drain request of some seat of the coach has not been taken, and the coach runs. -/
def draining (s : State) (c : Nat) : Bool :=
  (s.coach c).stopped = none && (List.range 4).any fun t => ((s.coach c).seat t).pend.getLsbD 3

/-- R101, R191: a third stop or array fault within 3,600 s has made a substitution due; it stays due until the coach moves. -/
def substitutionDue (s : State) (c : Nat) : Bool := (s.coach c).subDue

/-- A SUBSTITUTE command that waits for the coach. -/
def substituteAsk (s : State) (c : Nat) : Option Ticket :=
  match s.mgmt.priv with
  | some (.substitute k ask) => if k = c then some ask else none
  | _ => none

/-- R572: the answer to SUBSTITUTE: the new position, or status 5 for a coach that was retired. -/
def answerSubstitute (s : State) (c : Nat) : State :=
  match substituteAsk s c with
  | none => s
  | some ask =>
    let t := s.updMgmt fun m => { m with priv := none }
    if mapped t c then respond t ask 0 (leBytes 1 (posOf t c)) else respond t ask 5 []

/-- COACH_SUBSTITUTION: due under R101 or R191, or asked for; it waits for the drain and for tile descriptors (R343, R511). -/
def substitution (s : State) (c : Nat) : State :=
  if !mapped s c || !(substitutionDue s c || (substituteAsk s c).isSome) || draining s c || tileInFlight s c then s
  else answerSubstitute (moveCoach s c 0xFF) c

def execCoachSubstitution (c : Fin 96) (s : State) : Result := .next (substitution s c)

-- a stopped coach (R101, R102)

/-- COACH_RESET_RELOAD: the stop is reported and counted; the third within 3,600 s leads to a substitution, another to a reset and a
return to service. A coach stop fails a consist in probation (R591). -/
def coachReload (s : State) (c : Nat) : State :=
  match (s.coach c).stopped with
  | none => s
  | some (seat, cause, extra) =>
    let s := s.raise 0x0010 (c + 2 ^ 7 * seat.val + 2 ^ 9 * cause.toNat) extra
    let s := s.updCoach c fun k =>
      let l := recent s.time.ns k.stops ++ [s.time.ns]
      { k with stops := l, subDue := k.subDue || 3 ≤ l.length }
    let s := probFail s 1
    if substitutionDue s c && !tileInFlight s c then answerSubstitute (moveCoach s c 0xFF) c
    else s.updCoach c freshCoach

def execCoachResetReload (c : Fin 96) (s : State) : Result := .next (coachReload s c)

-- commands and self-tests (R512, R572, R594)

/-- SUBSTITUTE: the seats of the coach get a drain request; the answer comes when the coach has moved. -/
def cmdSubstitute (ask : Ticket) (pl : List Byte) (s : State) : State :=
  let c := entryNat pl 0 1
  if 96 ≤ c || !mapped s c then deny ask 4 s
  else
    let t := s.updMgmt fun m => { m with priv := some (.substitute c ask) }
    [(0 : Fin 4), 1, 2, 3].foldl (fun t i => drainRequest ⟨coachFin c, i⟩ false t) t

def execSubstitute (path : Path) (s : State) : Result := .next (serve path 0x54 cmdSubstitute s)

/-- COACH_SELF_TEST: at an idle point the coaches that fail are replaced; when none fails the module is suspect (R512). -/
def selfTest (s : State) (failed : List Nat) : State :=
  if !s.way.testDue || !s.quiescent then s
  else
    let t := s.updWay fun w => { w with testDue := false, suspect := w.suspect || failed = [] }
    failed.foldl (fun t c => if mapped t c then moveCoach t c 0xFF else t) t

def execCoachSelfTest (failed : List (Fin 96)) (s : State) : Result := .next (selfTest s (failed.map (·.val)))

-- microcode (R584)

/-- MICROCODE_COACH_MOVE: one logical coach moves onto a freshly loaded spare, at most one in a step; the freed coach is the next
spare. -/
def microcodeMove (s : State) (c : Nat) : State :=
  if !s.mgmt.ucodeLeft.contains c || !mapped s c || s.mgmt.ucodeAt = some s.tender.step || draining s c || tileInFlight s c
      || (spareFor s (posOf s c)).isNone then s
  else
    let t := moveCoach s c 0xFE
    (t.updCoach c fun k => { k with ucodeB := !(t.fwOf 2).slotB }).updMgmt fun m => { m with
      ucodeLeft := m.ucodeLeft.filter fun i => i != c, ucodeAt := some s.tender.step }

def execMicrocodeCoachMove (c : Fin 96) (s : State) : Result := .next (microcodeMove s c)

end Sys2Proof.Machine
end

