-- ==== Sys2Proof/Machine/Restore.lean ====
section
/-! DEFINITION. Restoring a checkpoint (R499, R504 to R506, R245, R458). -/

namespace Sys2Proof.Machine

/-- R506: an entry of a shard-source table. -/
structure Source where
  spbase : Nat
  srank  : Nat
  tier   : Nat
  slot   : Nat
  dentry : Nat
  sblock : Nat
  dblock : Nat
  blocks : Nat
  loc    : Nat
  rsvOk  : Bool
  deriving DecidableEq, Repr

/-- R506: the fields of a table entry. -/
def sourceOf (b : List Byte) : Source :=
  let f (o n : Nat) : Nat := entryNat b o n
  ⟨f 0 8, f 8 2, f 0xA 1, f 0xB 1, f 0xC 2, f 0x10 4, f 0x14 4, f 0x18 4, f 0x20 8,
    f 0xE 2 = 0 && f 0x1C 4 = 0 && f 0x28 24 = 0⟩

def allOnes64 : Nat := 2 ^ 64 - 1

def Source.isHistory (x : Source) : Bool := x.dentry = 0xFFFF

/-- R497: a checkpoint as it lies in a staged slot. -/
def stagedCkpt (s : State) (loc : Nat) : Option Ckpt :=
  let h := getCells s.hostMem loc 128
  let n := entryNat h 0x10 4
  if 65537 < n || !bit (entryNat h 0x15 1) 0 then none
  else
    let recs := (List.range n).map fun i => getCells s.hostMem (loc + 128 + 64 * i) 64
    let size (r : List Byte) : Nat :=
      if entryNat r 0 8 = allOnes64 then entryNat r 8 4 else 16384 * ((entryNat r 8 4 + 4095) / 4096)
    let ls := recs.map size
    let shards := (recs.zipIdx).map fun p =>
      let pb := entryNat p.1 0 8
      (⟨if pb = allOnes64 then none else some pb, entryNat p.1 8 4, entryNat p.1 0xC 2, entryNat p.1 0x10 48,
        getCells s.hostMem (loc + shardOff ls p.2) (size p.1)⟩ : Shard)
    some ⟨entryNat h 0 8, entryNat h 8 4, entryNat h 0xC 2, entryNat h 0xE 2, entryNat h 0x14 1, shards, entryNat h 0x30 48⟩

/-- R499, R506: the checkpoint that a source names, when its label, rank and MANDIG agree. -/
def sourceCkpt (s : State) (label : Nat) (x : Source) : Option Ckpt :=
  let c :=
    if x.tier = 1 || x.tier = 2 then
      (if x.loc = 0 && x.slot < 2 then mget none s.way.slots (2 * (x.tier - 1) + x.slot) else none)
    else if x.tier = 3 && x.slot = 0 then stagedCkpt s x.loc
    else none
  match c with
  | some c => if c.label = label && c.rank = x.srank && c.mandig = mandigOf c then some c else none
  | none => none

/-- R499: the source shard, with a matching digest. -/
def sourceShard (s : State) (label : Nat) (x : Source) : Option Shard :=
  match sourceCkpt s label x with
  | none => none
  | some c =>
    match c.shards.find? fun h => h.pbase.getD allOnes64 = x.spbase with
    | some h => if shaNat h.data = h.digest then some h else none
    | none => none

/-- R506: the blocks of this module's entries. -/
def ownBlocks (s : State) : List (Nat × Nat) :=
  (s.tender.dir.filter fun e => owned s e.2).flatMap fun e => (List.range (entryBlocks e.2)).map fun b => (e.1, b)

/-- The destination blocks of a source. -/
def destBlocks (x : Source) : List (Nat × Nat) := (List.range x.blocks).map fun i => (x.dentry, x.dblock + i)

/-- R506: whether a source fits its shard and its entry. -/
def sourceOk (s : State) (label : Nat) (x : Source) : Bool :=
  x.rsvOk &&
    match sourceShard s label x with
    | none => false
    | some h =>
      if x.isHistory then x.spbase = allOnes64 && x.blocks = 0 && x.sblock = 0 && x.dblock = 0
      else owned s (s.dir x.dentry) && x.dblock + x.blocks ≤ entryBlocks (s.dir x.dentry)
        && x.sblock + x.blocks ≤ (h.len + 4095) / 4096 && x.spbase != allOnes64

/-- R506: the checks of a table: every block of the module's entries once, and at most one scale history. -/
def tableOk (s : State) (label : Nat) (xs : List Source) : Bool :=
  let ds := (xs.filter fun x => !x.isHistory).flatMap destBlocks
  xs.all (sourceOk s label) && (xs.filter Source.isHistory).length ≤ 1
    && ds.length = (ownBlocks s).length && (ownBlocks s).all fun b => ds.contains b

/-- R505: copies a source's blocks into the active buffer, or the scale history into its region. -/
def copySource (label : Nat) (s : State) (x : Source) : State :=
  match sourceShard s label x with
  | none => s
  | some h =>
    if x.isHistory then sysWrite s s.consist.histBase (h.data.take s.consist.histLen) false false
    else (List.range x.blocks).foldl (fun t i =>
      sysWrite t (blockAddr (activeBase t) (t.dir x.dentry) (x.dblock + i))
        ((h.data.drop (16384 * (x.sblock + i))).take 16384) false false) s

/-- R245: the losses of the last `need` committed steps below a step, newest first, as the Waybill records them. -/
def lossesBack (s : State) : Nat → Nat → List Nat
  | _, 0 => []
  | 0, _ => []
  | n + 1, need + 1 =>
    match (findEntry s n).1 with
    | some e => if entryFlag e 1 then entryNat e 0xB8 4 :: lossesBack s n need else lossesBack s n (need + 1)
    | none => lossesBack s n (need + 1)

/-- R245: the loss watch is rebuilt from up to 1,024 committed losses. -/
def rebuildLoss (s : State) (label : Nat) : State :=
  let s := s.updWatch fun w => { w with mu := 0, var := 0, steps := { w.steps with val := 0 }, streak := 0 }
  (lossesBack s (label + 1) 1024).reverse.foldl (fun t l =>
    if nonFinite32 l then t
    else
      let (spike, d) := spikeTest t l
      lossUpdate t l spike d) s

/-- R458, R505: every FP8 copy is regenerated, and RSEM advances past every entry. -/
def regenerateNow (s : State) : State :=
  (regenEntries s).foldl (fun t e =>
    (moverConvert t t.consist.mover (regenDesc t { e.2 with frozen := false })).semAdd t.consist.rsem 1)
    (s.updTender fun k => { k with regen := [] })

/-- Distinct source shards of a table. -/
def shardCount (xs : List Source) : Nat :=
  (xs.foldl (fun (t : List (Nat × Nat × Nat × Nat × Nat)) x =>
    let k := (x.spbase, x.srank, x.tier, x.slot, x.loc)
    if t.contains k then t else k :: t) []).length

/-- R505: the restored state is committed at step L; with the scale history no cold start is due, and without it the next normal steps
start cold (R220, R507). -/
def restoreTo (s : State) (label : Nat) (xs : List Source) : State :=
  let t := xs.foldl (copySource label) s
  let t := rebuildLoss (regenerateNow t) label
  let t := (stepClear t).updTender fun k => { k with step := label + 1, marginAcc := [] }
  if xs.any Source.isHistory then t.updWay fun w => { w with noHistory := false, cold := 0 }
  else coldStart (t.updWay fun w => { w with noHistory := true })

/-- The sources of a table in module memory; none when a touched segment is poisoned. -/
def readTable (s : State) (addr n : Nat) : Option (List Source) × State :=
  let ((bs, p), t) := sysRead s addr (64 * n) false
  (if p then none else some ((List.range n).map fun i => sourceOf ((bs.drop (64 * i)).take 64)), t)

end Sys2Proof.Machine
end

