-- ==== Sys2Proof/Machine/Commands.lean ====
section
/-! DEFINITION. The commands of the submission rings (R532 to R534). -/

namespace Sys2Proof.Machine

/-- R532: the step that begins at the next boundary. -/
def boundaryStep (s : State) : Nat := if s.quiescent then s.tender.step else s.tender.step + 1

/-- R534: a command that takes effect at a boundary is accepted. -/
def acceptCmd (r : RingNo) (c : RingCmd) (s : State) : State := bcAccept s ⟨r.val, c.idx, c.op, c.params⟩

/-- Completes a command. -/
def doneCmd (r : RingNo) (c : RingCmd) (status result : Nat) (s : State) : State := ringDone s r.val c.idx status result

def execCmdNop (r : RingNo) (idx : Word32) (s : State) : Result := .next (startCmd s r idx 0x00 fun c s => doneCmd r c 0 0 s)

/-- R533: an access of host memory is done over the link, or completes the command with status 7. -/
def overLink (r : RingNo) (c : RingCmd) (f : State → State) (s : State) : State := if s.sys.cxlUp then f s else doneCmd r c 7 0 s

/-- MOVER: a host descriptor joins a mover's queue (R329). -/
def cmdMover (r : RingNo) (c : RingCmd) (s : State) : State :=
  let m := par c.params 8 8
  if 31 < m then doneCmd r c 4 0 s
  else overLink r c (fun s => s.updMover m fun k => { k with
    extra := k.extra ++ [(k.tail, r.val, c.idx.toNat, getCells s.hostMem (par c.params 0x10 8) 64)] }) s

def execCmdMover (r : RingNo) (idx : Word32) (s : State) : Result := .next (startCmd s r idx 0x01 (cmdMover r))

/-- COLLECTIVE: a host descriptor joins a collective queue. -/
def cmdCollective (r : RingNo) (c : RingCmd) (s : State) : State :=
  let q := par c.params 8 8
  if 15 < q then doneCmd r c 4 0 s
  else overLink r c (fun s => collLoad (s.updColl q fun k => { k with
    extra := k.extra ++ [(k.tail, r.val, c.idx.toNat, getCells s.hostMem (par c.params 0x10 8) 64)] }) q) s

def execCmdCollective (r : RingNo) (idx : Word32) (s : State) : Result := .next (startCmd s r idx 0x02 (cmdCollective r))

/-- RUN_START (R346, R533). -/
def cmdRunStart (r : RingNo) (c : RingCmd) (s : State) : State :=
  let n := par c.params 8 8
  if n = 0 || 2 ^ 48 < n then doneCmd r c 4 0 s
  else if s.rings.boundary.any fun b => b.op = 0x10 then doneCmd r c 8 0 s
  else acceptCmd r c s

def execCmdRunStart (r : RingNo) (idx : Word32) (s : State) : Result := .next (startCmd s r idx 0x10 (cmdRunStart r))

/-- STEP: it waits for its step, or completes at once when the Waybill records that step. -/
def cmdStep (r : RingNo) (c : RingCmd) (s : State) : State :=
  let n := par c.params 8 8
  if n < s.tender.step then
    let (e, t) := findEntry s n
    doneCmd r c 0 (match e with | some e => b2n (entryFlag e 1) + 2 * b2n (entryFlag e 0) | none => 0) t
  else s

def execCmdStep (r : RingNo) (idx : Word32) (s : State) : Result := .next (startCmd s r idx 0x11 (cmdStep r))

/-- STOP_REQUEST (R427). -/
def cmdStopRequest (r : RingNo) (c : RingCmd) (s : State) : State :=
  doneCmd r c 0 s.tender.step (s.updTender fun t => { t with stopReq := true })

def execCmdStopRequest (r : RingNo) (idx : Word32) (s : State) : Result := .next (startCmd s r idx 0x12 (cmdStopRequest r))

/-- R491: a void entry's rewrite stands between Halted and leaving it. -/
def voidPending (s : State) : Bool := voidDue s || s.way.rewrite.isSome

/-- RESUME (R429, R459); a running module has nothing to leave. -/
def cmdResume (r : RingNo) (c : RingCmd) (s : State) : State :=
  let t := if s.halted then leaveHalted s else s
  doneCmd r c 0 t.tender.step t

def execCmdResume (r : RingNo) (idx : Word32) (s : State) : Result :=
  .next (if s.halted && voidPending s then s else startCmd s r idx 0x13 (cmdResume r))

/-- RESTORE (R505, R506); it is rejected while a step runs, and a staged checkpoint is read over the link (R533). -/
def cmdRestore (r : RingNo) (c : RingCmd) (s : State) : State :=
  let label := par c.params 8 8
  let n := par c.params 0x18 2
  let a := par c.params 0x10 8
  if !s.quiescent then doneCmd r c 5 0 s
  else if !inRange 0 (a : Int) (64 * n) then doneCmd r c 4 0 s
  else
    match readTable s a n with
    | (none, t) => doneCmd r c 7 0 t
    | (some xs, t) =>
      if !s.sys.cxlUp && xs.any (·.tier = 3) then doneCmd r c 7 0 t
      else if tableOk t label xs then doneCmd r c 0 (shardCount xs) (restoreTo t label xs) else doneCmd r c 5 0 t

def execCmdRestore (r : RingNo) (idx : Word32) (s : State) : Result :=
  .next (if s.halted && voidPending s then s else startCmd s r idx 0x14 (cmdRestore r))

def execCmdMtbf (r : RingNo) (idx : Word32) (s : State) : Result := .next (startCmd s r idx 0x15 (acceptCmd r))

/-- TIER3_RELEASE: the slot's save counts as complete (R495). -/
def cmdTier3Release (r : RingNo) (c : RingCmd) (s : State) : State :=
  let i := par c.params 8 8
  if 1 < i then doneCmd r c 4 0 s
  else if !s.way.unreleased.contains i then doneCmd r c 5 0 s
  else
    match mget none s.way.slots (4 + i) with
    | none => doneCmd r c 5 0 s
    | some k => doneCmd r c 0 k.label (s.updWay fun w => { w with
        unreleased := w.unreleased.filter fun j => j != i, labels := mset 0 w.labels 2 k.label })

def execCmdTier3Release (r : RingNo) (idx : Word32) (s : State) : Result := .next (startCmd s r idx 0x16 (cmdTier3Release r))

/-- R533: the table of an install cannot be read. -/
def tablePoisoned (s : State) (a n : Nat) : Bool := (sysRead s a (64 * n) false).1.2

/-- TENDER_INSTALL: accepted or rejected as a whole (R441); at a quiescent point it takes effect at once. -/
def cmdTenderInstall (r : RingNo) (c : RingCmd) (s : State) : State :=
  let a := par c.params 8 8
  let first := par c.params 0x10 2
  let n := par c.params 0x12 2
  if 65536 < first + n || !inRange 0 (a : Int) (64 * n) then doneCmd r c 4 0 s
  else
    match installOf s a first n with
    | (none, t) => doneCmd r c (if tablePoisoned s a n then 7 else 5) 0 t
    | (some i, t) =>
      let u := t.updTender fun k => { k with installs := k.installs ++ [i] }
      doneCmd r c 0 (boundaryStep s) (if s.quiescent then installsApply u else u)

def execCmdTenderInstall (r : RingNo) (idx : Word32) (s : State) : Result := .next (startCmd s r idx 0x20 (cmdTenderInstall r))

/-- TENDER_RATE (R462, R464). -/
def cmdTenderRate (r : RingNo) (c : RingCmd) (s : State) : State :=
  if 7 < par c.params 8 4 then doneCmd r c 4 0 s
  else if !rateOk (par c.params 0xC 4) then doneCmd r c 5 0 s
  else acceptCmd r c s

def execCmdTenderRate (r : RingNo) (idx : Word32) (s : State) : Result := .next (startCmd s r idx 0x21 (cmdTenderRate r))

/-- PACE: only with pace matching enabled (R53). -/
def cmdPace (r : RingNo) (c : RingCmd) (s : State) : State :=
  if s.expert 0 && s.consist.floorMv.isSome then acceptCmd r c s else doneCmd r c 5 0 s

def execCmdPace (r : RingNo) (idx : Word32) (s : State) : Result := .next (startCmd s r idx 0x22 (cmdPace r))

/-- PAGE_CLASS: pages of the 274,659, with the memory-protection expert flag (R307). -/
def cmdPageClass (r : RingNo) (c : RingCmd) (s : State) : State :=
  let n := par c.params 0xC 4
  if 1 < par c.params 0x10 8 || n = 0 || 274659 < par c.params 8 4 + n then doneCmd r c 4 0 s
  else if !s.expert 1 then doneCmd r c 5 0 s
  else acceptCmd r c s

def execCmdPageClass (r : RingNo) (idx : Word32) (s : State) : Result := .next (startCmd s r idx 0x23 (cmdPageClass r))

/-- A status record is written to host memory. -/
def writeRecord (r : RingNo) (c : RingCmd) (bs : List Byte) (s : State) : State :=
  doneCmd r c 0 0 { s with hostMem := putBytes s.hostMem (par c.params 0x10 8) bs }

def cmdMemStatus (r : RingNo) (c : RingCmd) (s : State) : State :=
  if 7 < par c.params 8 8 then doneCmd r c 4 0 s
  else overLink r c (fun s => writeRecord r c (memStatus s (par c.params 8 8)) s) s

def execCmdMemStatus (r : RingNo) (idx : Word32) (s : State) : Result := .next (startCmd s r idx 0x30 (cmdMemStatus r))

def cmdPortStatus (r : RingNo) (c : RingCmd) (s : State) : State :=
  let p := par c.params 8 8
  if 11 < p then doneCmd r c 4 0 s
  else overLink r c (fun s => writeRecord r c (portStatus (measureBer s p) p) (measureBer s p)) s

def execCmdPortStatus (r : RingNo) (idx : Word32) (s : State) : Result := .next (startCmd s r idx 0x31 (cmdPortStatus r))

/-- OPEN_FLOW (R380). -/
def cmdOpenFlow (r : RingNo) (c : RingCmd) (s : State) : State :=
  let n := par c.params 8 2
  let peer := par c.params 0xA 2
  let cls := par c.params 0xC 8
  if 4095 < n || s.consist.ranks.length ≤ peer || peer = s.consist.rank || !(cls = 1 || cls = 2) then doneCmd r c 4 0 s
  else if (s.flow n).bound then doneCmd r c 5 0 s
  else doneCmd r c 0 0 (bindFlow s n peer cls)

def execCmdOpenFlow (r : RingNo) (idx : Word32) (s : State) : Result := .next (startCmd s r idx 0x32 (cmdOpenFlow r))

/-- CLOSE_FLOW: complete when the flow's frames are acknowledged. -/
def cmdCloseFlow (r : RingNo) (c : RingCmd) (s : State) : State :=
  let n := par c.params 8 2
  if 4095 < n then doneCmd r c 4 0 s
  else if !(s.flow n).bound || (s.flow n).closing.isSome then doneCmd r c 5 0 s
  else flowClosed (s.updFlow n fun f => { f with closing := some (r.val, c.idx.toNat) }) n

def execCmdCloseFlow (r : RingNo) (idx : Word32) (s : State) : Result := .next (startCmd s r idx 0x33 (cmdCloseFlow r))

/-- SEAT_INT: cause 0x27 on a seat of a logical coach in service. -/
def cmdSeatInt (r : RingNo) (c : RingCmd) (s : State) : State :=
  let k := par c.params 8 1
  let t := par c.params 9 1
  if 95 < k || 3 < t || 100 ≤ posOf s k then doneCmd r c 4 0 s
  else doneCmd r c 0 0 (s.pendInt ⟨coachFin k, seatFin t⟩ 7 (r.val % 256))

def execCmdSeatInt (r : RingNo) (idx : Word32) (s : State) : Result := .next (startCmd s r idx 0x34 (cmdSeatInt r))

/-- TIME_OF_DAY (R550). -/
def cmdTimeOfDay (r : RingNo) (c : RingCmd) (s : State) : State :=
  todAccept s (some (r.val, c.idx)) none (par c.params 8 8) (par c.params 0x10 1)

def execCmdTimeOfDay (r : RingNo) (idx : Word32) (s : State) : Result := .next (startCmd s r idx 0x35 (cmdTimeOfDay r))

end Sys2Proof.Machine
end

