-- ==== Sys2Proof/Machine/Vector.lean ====
section
/-! DEFINITION. Vector instructions without memory operands (R111 to R117, R131, R137), scalar floating point (R110), and the
vector queue with its power gate (R118 to R122), with the meanings of their commands. -/

namespace Sys2Proof.Machine

-- elements (R109, R111, R117)

/-- Bytes per element of an ew code. -/
def elemBytes (ew : BitVec 2) : Nat := 2 ^ ew.toNat

/-- Element i of w bytes. -/
def velem (w : Nat) (v : BitVec 2048) (i : Nat) : Nat := bits v.toNat (8 * w * i) (8 * w)

/-- A register value from its elements of w bytes. -/
def vmake (w : Nat) (f : Nat → Nat) : Nat :=
  (List.range (256 / w)).foldl (fun t i => t + f i % 2 ^ (8 * w) * 2 ^ (8 * w * i)) 0

/-- R114: whether a source register holds an active element in a poisoned segment. -/
def Seat.vpoison (t : Seat) (act : Nat) (n : RegNo) : Bool := (t.rvp n).toNat &&& activeSegs act != 0

/-- The governing predicate of a word. -/
def Seat.pred (t : Seat) (w : VecWord) : BitVec 256 := t.rp w.pg

/-- The byte lanes of a word's active elements. -/
def Seat.act (t : Seat) (w : VecWord) : Nat := activeLanes (elemBytes w.ew) (t.pred w)

/-- R113, R117: writes the elements of a result under a word's predicate; `p` marks poisoned segments of the result. -/
def Seat.putV (t : Seat) (w : VecWord) (d p : Nat) : Seat :=
  let act := t.act w
  t.mergeV w.vd (writtenLanes w.zm act) (maskData act d) (p &&& activeSegs act)

/-- Register Pd of a field: its low 4 bits (R115). -/
def predNo (n : RegNo) : BitVec 4 := n.setWidth 4

/-- R111: writes a predicate result under lanes: the others are kept or written 0. -/
def Seat.putP (t : Seat) (n : RegNo) (zm : Bool) (lanes d : Nat) : Seat :=
  let old := if zm then 0 else (t.rp (predNo n)).toNat &&& (lanes ^^^ (2 ^ 256 - 1))
  t.wp (predNo n) (BitVec.ofNat 256 (old ||| (d &&& lanes)))

/-- R111: the lanes of the elements for which a condition holds. -/
def lanesWhere (w : Nat) (f : Nat → Bool) : Nat :=
  (List.range (256 / w)).foldl (fun t i => t + b2n (f i) * (2 ^ w - 1) * 2 ^ (w * i)) 0

-- the queue and the gate (R58, R118 to R122)

/-- R120, R122: the idle threshold in beats. -/
def gateThreshold (s : State) : Nat := if s.expert 4 then s.consist.gating else 4096

/-- An entry joins the vector queue. -/
def Coach.enqueue (k : Coach) (e : VEntry) : Coach := { k with vq := k.vq ++ [e] }

/-- R58, R59, R121: a vector instruction of a seat at issue.  While the pipes are gated or wake it stands in the queue: one that
accesses memory waits there, with its seat, for its fault point; any other has its effect in the seat's registers at once, which
nothing but the seat's later instructions could see (row 16 of the log). -/
def vecBegin (r : SeatRef) (i : Instr) (f : State → State) (s : State) : State :=
  let k := s.coach r.coach
  if k.gated || k.waking then
    if touchesMem i then s.updCoach r.coach fun k => k.enqueue ⟨r.seat, i, false⟩
    else
      let t := f s
      if undisturbed r s t then t.updCoach r.coach fun k => k.enqueue ⟨r.seat, i, true⟩ else t
  else f (s.updCoach r.coach fun k => { k with idle := 0 })

/-- A vector instruction of a seat. -/
def vecIssue (r : SeatRef) (i : Instr) (f : State → State) (s : State) : State := seatRun r i (vecBegin r i f) s

/-- R36, R117: a non-finite vector result sets the module's flag. -/
def flagNonfinite (b : Bool) (s : State) : State := if b then s.updTender fun t => { t with nonfin := true } else s

/-- VECTOR_PIPE_GATE (R120, R122). -/
def execVectorPipeGate (c : Fin 96) (s : State) : Result :=
  let k := s.coach c
  let n := gateThreshold s
  .next (if n != 0 && n ≤ k.idle && k.vq = [] && !k.gated && !k.waking then s.updCoach c fun k => { k with gated := true } else s)

/-- VECTOR_PIPE_WAKE (R121): an entry of a gated coach's queue starts the wake, which is counted. -/
def execVectorPipeWake (c : Fin 96) (s : State) : Result :=
  let k := s.coach c
  .next (if k.gated && !k.waking && k.vq != [] then
      (s.updCoach c fun k => { k with waking := true }).bump (.coach c 0)
    else s)

-- lane-wise operations

/-- R646: the checks of a lane-wise instruction, then its result: element i from the elements i of its sources.  VBX and the permutes
take data from anywhere in a source: a poisoned segment without an active element raises nothing there, and the result is clean, for
R114 speaks of segments that hold one (DESIGN CHOICE, row 74). -/
def lanewise (r : SeatRef) (w : VecWord) (bad : Bool) (srcs : List RegNo) (f : Seat → Nat → Nat) (flag : Nat → Bool)
    (s : State) : State :=
  let t := s.seat r
  let n := elemBytes w.ew
  let act := t.act w
  checked r [(bad, 0, 0), (srcs.any (t.vpoison act), 5, 1)] (fun s =>
    let d := vmake n (f t)
    let hot := (List.range (256 / n)).any fun i => bit act (n * i) && flag (bits d (8 * n * i) (8 * n))
    finish r (fun t => t.putV w d 0) (flagNonfinite hot s)) s

/-- R116, R199, R644: an integer operation on elements of b bits. -/
def vint (op : VIntOp) (b x y : Nat) : Nat :=
  let sl := sInt b x < sInt b y
  match op with
  | .add => (x + y) % 2 ^ b
  | .sub => (x + 2 ^ b - y) % 2 ^ b
  | .and => x &&& y
  | .or => x ||| y
  | .xor => x ^^^ y
  | .andn => x &&& (y ^^^ (2 ^ b - 1))
  | .sll => if b ≤ y then 0 else x * 2 ^ y % 2 ^ b
  | .srl => if b ≤ y then 0 else x / 2 ^ y
  | .sra => wrapInt b (sInt b x / ((2 ^ min y b : Nat) : Int))
  | .min => if sl then x else y
  | .max => if sl then y else x
  | .minu => min x y
  | .maxu => max x y
  | .mul => x * y % 2 ^ b

/-- VEC_INT_OP (classes 0x20 and 0x21). -/
def vecIntOp (r : SeatRef) (op : VIntOp) (w : VecWord) (s : State) : State :=
  let n := elemBytes w.ew
  lanewise r w false [w.vs1, w.vs2] (fun t i => vint op (8 * n) (velem n (t.rv w.vs1) i) (velem n (t.rv w.vs2) i))
    (fun _ => false) s

def execVecIntOp (sr : SeatRef) (op : VIntOp) (w : VecWord) (s : State) : Result :=
  .next (vecIssue sr (.vecIntOp sr op w) (vecIntOp sr op w) s)

/-- R116: the floating-point format of an ew code. -/
def fmtOfEw (ew : BitVec 2) : Option Fmt :=
  if ew = 1 then some fmtBF16 else if ew = 2 then some fmtFP32 else if ew = 3 then some fmtFP64 else none

/-- R202, R636: a floating-point operation on codes. -/
def vfp (op : VFpOp) (f : Fmt) (a b : Nat) : Nat :=
  let x := fdecode f a
  let y := fdecode f b
  fround f false (match op with
    | .add => fadd x y
    | .sub => fadd x (fneg y)
    | .mul => fmul x y
    | .min => fmin x y
    | .max => fmax x y)

/-- R119: a fused multiply-add rounds once. -/
def ffma (f : Fmt) (a b c : Nat) : Nat := fround f false (fadd (fmul (fdecode f a) (fdecode f b)) (fdecode f c))

def nonFinite (f : Fmt) (b : Nat) : Bool := !fisFinite (fdecode f b)

/-- VEC_FP_OP (class 0x22). -/
def vecFpOp (r : SeatRef) (op : VFpOp) (w : VecWord) (s : State) : State :=
  match fmtOfEw w.ew with
  | none => illegal r s
  | some f =>
    let n := elemBytes w.ew
    lanewise r w false [w.vs1, w.vs2] (fun t i => vfp op f (velem n (t.rv w.vs1) i) (velem n (t.rv w.vs2) i)) (nonFinite f) s

def execVecFpOp (sr : SeatRef) (op : VFpOp) (w : VecWord) (s : State) : Result :=
  .next (vecIssue sr (.vecFpOp sr op w) (vecFpOp sr op w) s)

/-- VEC_FMA (class 0x23): Vd is addend and destination. -/
def vecFma (r : SeatRef) (w : VecWord) (s : State) : State :=
  match fmtOfEw w.ew with
  | none => illegal r s
  | some f =>
    let n := elemBytes w.ew
    lanewise r w false [w.vs1, w.vs2, w.vd]
      (fun t i => ffma f (velem n (t.rv w.vs1) i) (velem n (t.rv w.vs2) i) (velem n (t.rv w.vd) i)) (nonFinite f) s

def execVecFma (sr : SeatRef) (w : VecWord) (s : State) : Result :=
  .next (vecIssue sr (.vecFma sr w) (vecFma sr w) s)

-- compares and predicate operations (R111, R636)

/-- The predicate operations act lane by lane. -/
def predOp (op : VCmpOp) (a b : Nat) : Option Nat :=
  match op with
  | .pand => some (a &&& b)
  | .por => some (a ||| b)
  | .pxor => some (a ^^^ b)
  | .pandn => some (a &&& (b ^^^ (2 ^ 256 - 1)))
  | _ => none

/-- Whether a compare is of floating-point elements. -/
def fpCompare : VCmpOp → Bool
  | .feq => true
  | .fne => true
  | .flt => true
  | .fle => true
  | _ => false

/-- An integer compare of elements of b bits. -/
def icmp (op : VCmpOp) (b x y : Nat) : Bool :=
  match op with
  | .ieq => x = y
  | .ine => x != y
  | .ilt => sInt b x < sInt b y
  | .ile => sInt b x ≤ sInt b y
  | .iltu => x < y
  | .ileu => x ≤ y
  | _ => false

/-- R636: a floating-point compare. -/
def fcmp (op : VCmpOp) (f : Fmt) (a b : Nat) : Bool :=
  let x := fdecode f a
  let y := fdecode f b
  match op with
  | .feq => feq x y
  | .fne => !feq x y
  | .flt => flt x y
  | .fle => fle x y
  | _ => false

/-- VEC_COMPARE (class 0x24). -/
def vecCompare (r : SeatRef) (op : VCmpOp) (w : VecWord) (s : State) : State :=
  let t := s.seat r
  let n := elemBytes w.ew
  let act := t.act w
  match predOp op (t.rp (predNo w.vs1)).toNat (t.rp (predNo w.vs2)).toNat with
  | some d => checked r [(w.ew != 0, 0, 0)] (finish r fun t => t.putP w.vd w.zm (t.pred w).toNat d) s
  | none =>
    checked r [(fpCompare op && w.ew = 0, 0, 0), (t.vpoison act w.vs1 || t.vpoison act w.vs2, 5, 1)] (finish r fun t =>
      let x := velem n (t.rv w.vs1)
      let y := velem n (t.rv w.vs2)
      let hold (i : Nat) : Bool := match fmtOfEw w.ew with
        | some f => if fpCompare op then fcmp op f (x i) (y i) else icmp op (8 * n) (x i) (y i)
        | none => icmp op (8 * n) (x i) (y i)
      t.putP w.vd w.zm act (lanesWhere n hold)) s

def execVecCompare (sr : SeatRef) (op : VCmpOp) (w : VecWord) (s : State) : Result :=
  .next (vecIssue sr (.vecCompare sr op w) (vecCompare sr op w) s)

-- conversions (R203, R637)

/-- A format of VCVT: floating point, or an integer of so many bits. -/
inductive CvtKind where
  | fl (f : Fmt)
  | int (w : Nat)
  deriving DecidableEq, Repr

def cvtKind : CvtFmt → CvtKind
  | .e2m1 => .fl fmtE2M1
  | .e4m3 => .fl fmtE4M3
  | .e5m2 => .fl fmtE5M2
  | .bf16 => .fl fmtBF16
  | .fp32 => .fl fmtFP32
  | .fp64 => .fl fmtFP64
  | .i8 => .int 8
  | .i16 => .int 16
  | .i32 => .int 32
  | .i64 => .int 64

def cvtBits (c : CvtFmt) : Nat :=
  match cvtKind c with
  | .fl f => f.width
  | .int w => w

/-- R203: the pairs that the table lists. -/
def cvtListed (src dst : CvtFmt) : Bool :=
  let wide : Bool := src = .bf16 || src = .fp32 || src = .fp64
  match cvtKind src, cvtKind dst with
  | .int _, .fl f => 16 ≤ f.width
  | .fl _, .int _ => wide
  | .fl a, .fl b =>
    if b.width = 4 then false
    else if b.width = 8 then wide
    else if b.width = 16 then 32 ≤ a.width
    else if b.width = 32 then a.width != 32
    else a.width < 64
  | _, _ => false

/-- R637: the ew of a pair: the width of its wider format. -/
def cvtEw (src dst : CvtFmt) : BitVec 2 :=
  let b := max (cvtBits src) (cvtBits dst)
  if b ≤ 8 then 0 else if b ≤ 16 then 1 else if b ≤ 32 then 2 else 3

/-- R203: converts one element. -/
def vcvtElem (src dst : CvtFmt) (x : Nat) : Nat :=
  let v := match cvtKind src with
    | .fl f => fdecode f (x % 2 ^ f.width)
    | .int w => fofInt (sInt w x)
  match cvtKind dst with
  | .fl f => fround f (f.width ≤ 8) v
  | .int w => ftoInt w v

/-- VCVT (class 0x25). -/
def vcvt (r : SeatRef) (src dst : CvtFmt) (w : VecWord) (s : State) : State :=
  let n := elemBytes w.ew
  lanewise r w (!cvtListed src dst || w.ew != cvtEw src dst) [w.vs1] (fun t i => vcvtElem src dst (velem n (t.rv w.vs1) i))
    (fun d => match cvtKind dst with
      | .fl f => nonFinite f d
      | .int _ => false) s

def execVcvt (sr : SeatRef) (src dst : CvtFmt) (w : VecWord) (s : State) : Result :=
  .next (vecIssue sr (.vcvt sr src dst w) (vcvt sr src dst w) s)

-- permutes and VBX (R131)

/-- R131: the field that an element of Vs2 describes. -/
def vbxField (w : Nat) (v1 : BitVec 2048) (e : Nat) : Nat :=
  bits v1.toNat (bits e 0 11) (bits e 11 5 + 1) % 2 ^ (8 * w)

/-- VBX (class 0x26, op 0x3). -/
def vbx (r : SeatRef) (w : VecWord) (s : State) : State :=
  let n := elemBytes w.ew
  lanewise r w (w.ew != 1 && w.ew != 2) [w.vs1, w.vs2] (fun t i => vbxField n (t.rv w.vs1) (velem n (t.rv w.vs2) i))
    (fun _ => false) s

def execVbx (sr : SeatRef) (w : VecWord) (s : State) : Result :=
  .next (vecIssue sr (.vbx sr w) (vbx sr w) s)

/-- VEC_PERMUTE (class 0x26): the spec assigns no permute but VBX, so which element of its sources each takes is open. -/
def vecPermute (r : SeatRef) (op : BitVec 4) (w : VecWord) (s : State) : State :=
  if op = 3 then vbx r w s
  else
    let n := elemBytes w.ew
    let m := 256 / n
    lanewise r w false [w.vs1, w.vs2] (fun t i =>
      let j := Config.permIndex op w.ew i (t.rv w.vs1) (t.rv w.vs2) % (2 * m)
      if j < m then velem n (t.rv w.vs1) j else velem n (t.rv w.vs2) (j - m)) (fun _ => false) s

def execVecPermute (sr : SeatRef) (op : BitVec 4) (w : VecWord) (s : State) : Result :=
  .next (vecIssue sr (.vecPermute sr op w) (vecPermute sr op w) s)

-- reductions (R137)

/-- Whether a reduction is of floating-point elements. -/
def redFp : RedOp → Bool
  | .fsum => true
  | .fmax => true
  | .fmin => true
  | _ => false

/-- R137: an integer reduction over elements of b bits, inactive ones at the identity. -/
def intReduce (op : RedOp) (b : Nat) (xs : List (Option Nat)) : Nat :=
  match op with
  | .imax => treeFold (fun x y => if sInt b x < sInt b y then y else x) 0 9 (xs.map fun x => x.getD (2 ^ (b - 1)))
  | .imin => treeFold (fun x y => if sInt b x < sInt b y then x else y) 0 9 (xs.map fun x => x.getD (2 ^ (b - 1) - 1))
  | _ => treeFold (fun x y => (x + y) % 2 ^ b) 0 9 (xs.map fun x => x.getD 0)

/-- R137: a floating-point reduction; BF16 elements are widened to FP32. -/
def fpReduce (op : RedOp) (f : Fmt) (xs : List (Option Nat)) : Nat :=
  let g := if f.width = 16 then fmtFP32 else f
  let widen (x : Nat) : Nat := fround g false (fdecode f x)
  match op with
  | .fmax => treeFold (vfp .max g) 0 9 (xs.map fun x => widen (x.getD (maxBits f + 2 ^ (f.width - 1))))
  | .fmin => treeFold (vfp .min g) 0 9 (xs.map fun x => widen (x.getD (maxBits f)))
  | _ => treeFold (vfp .add g) 0 9 (xs.map fun x => match x with
    | some x => widen x
    | none => 2 ^ (g.width - 1))

/-- VEC_REDUCTION (class 0x27): the result is the whole of Vd. -/
def vecReduction (r : SeatRef) (op : RedOp) (w : VecWord) (s : State) : State :=
  let t := s.seat r
  let n := elemBytes w.ew
  let act := t.act w
  checked r [(redFp op && w.ew = 0, 0, 0), (t.vpoison act w.vs1, 5, 1)] (fun s =>
    let xs := (List.range (256 / n)).map fun i => if bit act (n * i) then some (velem n (t.rv w.vs1) i) else none
    match fmtOfEw w.ew with
    | some f =>
      if redFp op then
        let v := fpReduce op f xs
        finish r (fun t => t.wv w.vd (BitVec.ofNat 2048 v) 0)
          (flagNonfinite (nonFinite (if f.width = 16 then fmtFP32 else f) v) s)
      else finish r (fun t => t.wv w.vd (BitVec.ofNat 2048 (intReduce op (8 * n) xs)) 0) s
    | none => finish r (fun t => t.wv w.vd (BitVec.ofNat 2048 (intReduce op (8 * n) xs)) 0) s) s

def execVecReduction (sr : SeatRef) (op : RedOp) (w : VecWord) (s : State) : Result :=
  .next (vecIssue sr (.vecReduction sr op w) (vecReduction sr op w) s)

-- VMOV (R112, R114)

/-- VMOV (class 0x2C). -/
def vmov (r : SeatRef) (form : VMovForm) (w : VecWord) (s : State) : State :=
  let t := s.seat r
  let act := t.act w
  let whole : Bool := w.pg != 0 || w.zm
  match form with
  | .vec => finish r (fun t => t.putV w (t.rv w.vs1).toNat (t.rvp w.vs1).toNat) s
  | .pred => checked r [(whole, 0, 0)] (finish r fun t => t.wp (predNo w.vd) (t.rp (predNo w.vs1))) s
  | .predFromFfr => checked r [(whole, 0, 0)] (finish r fun t => t.wp (predNo w.vd) t.ffr) s
  | .ffrFromPred => checked r [(whole, 0, 0)] (finish r fun t => { t with ffr := t.rp (predNo w.vs1) }) s
  | .vecToScalar => checked r [(t.vpoison act w.vs1, 5, 1)]
      (finish r fun t => t.wx w.vd (Config.vecToScalar w.ew (t.pred w) (t.rv w.vs1))) s
  | .scalarToVec => checked r [(t.rxp w.vs1, 5, 0)]
      (finish r fun t => t.putV w (Config.scalarToVec w.ew (t.pred w) (t.rx w.vs1)).toNat 0) s

def execVmov (sr : SeatRef) (form : VMovForm) (w : VecWord) (s : State) : Result :=
  .next (vecIssue sr (.vmov sr form w) (vmov sr form w) s)

-- scalar floating point (R110)

/-- The code of a scalar floating-point result. -/
def sfp (op : SFpOp) (f : Fmt) (a b c : Nat) : Nat :=
  match op with
  | .add => vfp .add f a b
  | .sub => vfp .sub f a b
  | .mul => vfp .mul f a b
  | .min => vfp .min f a b
  | .max => vfp .max f a b
  | .fma => ffma f a b c

/-- SCALAR_FP_OP (class 0x2D). -/
def scalarFpOp (r : SeatRef) (op : SFpOp) (w : VecWord) (s : State) : State :=
  let t := s.seat r
  match fmtOfEw w.ew with
  | none => illegal r s
  | some f =>
    let rd (n : RegNo) : Nat := t.rf n % 2 ^ f.width
    checked r [(t.fpPoison w.vs1 || t.fpPoison w.vs2 || (op = .fma && t.fpPoison w.vd), 5, 1)]
      (finish r fun t => t.wf w.vd (sfp op f (rd w.vs1) (rd w.vs2) (rd w.vd))) s

def execScalarFpOp (sr : SeatRef) (op : SFpOp) (w : VecWord) (s : State) : Result :=
  .next (vecIssue sr (.scalarFpOp sr op w) (scalarFpOp sr op w) s)

end Sys2Proof.Machine
end

