-- ==== Sys2Proof/Machine/VecMem.lean ====
section
/-! DEFINITION. Vector loads, stores, gathers and scatters (R123 to R128), table lookups (R129, R130) and VRANS (R132 to R136), with
the meanings of their commands. -/

namespace Sys2Proof.Machine

-- checks of one element (R123, R127)

/-- R123: one element is aligned and translated. -/
def elemCheck (r : SeatRef) (a : Acc) (va w : Nat) (s : State) : Xlat × State :=
  if va % w != 0 then (.exc 4 0, s) else translate r a va s

/-- R127: an element of a first-fault form that also counts as faulting: an uncached page, or host memory without its link. -/
def alsoFaults (s : State) (p : Phys) : Bool := !p.cached || (p.space = .host && !s.sys.cxlUp)

/-- The indexes of the active elements of w bytes. -/
def activeList (w act : Nat) : List Nat := (List.range (256 / w)).filter fun i => bit act (w * i)

/-- R123: the address of element i of a contiguous form. -/
def contigVa (t : Seat) (w : VecWord) (i : Nat) : Nat :=
  (t.rx w.vs1 + t.rx w.vs2 + BitVec.ofNat 64 (elemBytes w.ew * i)).toNat

/-- What checking active elements in ascending order finds: each with its place, until one that faults. -/
structure Checked where
  s    : State
  ok   : List (Nat × Phys)
  bad  : Option (Nat × Nat × Nat)

/-- R124, R126: checks elements in ascending order up to the first that faults; `ff` is the first-fault rule of R127. -/
def checkElems (r : SeatRef) (a : Acc) (va : Nat → Nat) (w low : Nat) (ff : Bool) : List Nat → State → Checked
  | [], s => ⟨s, [], none⟩
  | i :: is, s =>
    match elemCheck r a (va i) w s with
    | (.exc c d, t) => ⟨t, [], some (i, c, d)⟩
    | (.ok p, t) =>
      if ff && i != low && alsoFaults t p then ⟨t, [], some (i, faultCause a, p.level)⟩
      else
        let k := checkElems r a va w low ff is t
        { k with ok := (i, p) :: k.ok }

/-- R397: the runs of elements that follow one another in a partner's memory: first element, number and address. -/
def remoteRuns (w : Nat) (es : List (Nat × Phys)) : List (Nat × Nat × Nat) :=
  es.foldr (fun e rs => match rs with
    | (j, n, a) :: more =>
      if e.1 + 1 = j && e.2.pa + w = a && e.2.pa / 2 ^ 46 = a / 2 ^ 46 then (e.1, n + 1, e.2.pa) :: more else (e.1, 1, e.2.pa) :: rs
    | [] => [(e.1, 1, e.2.pa)]) []

/-- Whether an element lies in a partner's memory. -/
def anyRemote (es : List (Nat × Phys)) : Bool := es.any fun e => e.2.space = .remote

-- loads (R113, R123, R126)

/-- Bytes gathered for a destination: data, the lanes written, the poisoned segments. -/
structure Gathered where
  s     : State
  data  : Nat
  lanes : Nat
  pois  : Nat

/-- R113: one element enters a destination. -/
def Gathered.elem (g : Gathered) (w i v : Nat) (p : Bool) (s : State) : Gathered :=
  ⟨s, g.data + v * 2 ^ (8 * w * i), g.lanes + (2 ^ w - 1) * 2 ^ (w * i), g.pois ||| b2n p * 2 ^ (w * i / 32)⟩

/-- Loads one element. -/
def loadElem (r : SeatRef) (w i : Nat) (p : Phys) (g : Gathered) : Gathered :=
  let (v, t) := loadPhys r p w g.s
  g.elem w i v.data (v.poison != 0) (deadRead r v t)

def loadElems (r : SeatRef) (w : Nat) (es : List (Nat × Phys)) (s : State) : Gathered :=
  es.foldl (fun g e => loadElem r w e.1 e.2 g) ⟨s, 0, 0, 0⟩

/-- The lanes of inactive elements below k, which a zeroing form writes 0. -/
def zeroLanes (w : Nat) (zm : Bool) (act k : Nat) : Nat :=
  if zm then lanesWhere w fun i => i < k && !bit act (w * i) else 0

/-- Writes what was loaded, and the inactive elements below k under zm. -/
def putLoaded (r : SeatRef) (w : VecWord) (act k : Nat) (g : Gathered) : State :=
  g.s.updSeat r fun t => t.mergeV w.vd (g.lanes ||| zeroLanes (elemBytes w.ew) w.zm act k) g.data g.pois

/-- R646: the check of the scalar registers of a contiguous form. -/
def contigPoison (t : Seat) (w : VecWord) : Bool × Nat × Nat := (t.poisoned [w.vs1, w.vs2], 5, 0)

/-- R113: the marks of the segments that one instruction writes whole go; each part that it writes brings its own. -/
def Seat.freshSegs (t : Seat) (n : RegNo) (lanes : Nat) : Seat :=
  { t with vp := mset 0 t.vp n.toNat (t.rvp n &&& ~~~(BitVec.ofNat 8 ((List.range 8).foldl (fun a i =>
      a + b2n (bits lanes (32 * i) 32 = 2 ^ 32 - 1) * 2 ^ i) 0))) }

/-- VLD (class 0x28, op 0x0): every active element is checked before any is loaded (R124).  Elements of a partner's memory are asked
for (R397), and the seat waits for them. -/
def vld (r : SeatRef) (w : VecWord) (s : State) : State :=
  let t := s.seat r
  let n := elemBytes w.ew
  let act := t.act w
  checked r [contigPoison t w] (fun s =>
    let k := checkElems r .load (contigVa t w) n 0 false (activeList n act) s
    match k.bad with
    | some (_, c, d) => raiseSync r c d 0 k.s
    | none =>
      let (far, near) := k.ok.partition fun e => e.2.space = .remote
      let s := k.s.updSeat r fun t => t.freshSegs w.vd (writtenLanes w.zm act)
      vecRemote r w.vd n (remoteRuns n far) (putLoaded r w act 256 (loadElems r n near s))) s

def execVld (sr : SeatRef) (w : VecWord) (s : State) : Result := .next (vecIssue sr (.vld sr w) (vld sr w) s)

/-- VLDFF (class 0x28, op 0x1): R126, R127. -/
def vldff (r : SeatRef) (w : VecWord) (s : State) : State :=
  let t := s.seat r
  let n := elemBytes w.ew
  let act := t.act w
  let es := activeList n act
  let low := es.headD 256
  checked r [contigPoison t w] (fun s =>
    let k := checkElems r .load (contigVa t w) n low true es s
    let lowBad : Option (Nat × Nat) := match k.bad with
      | some (i, c, d) => if i = low then some (c, d) else none
      | none => none
    match lowBad with
    | some (c, d) => raiseSync r c d 0 k.s
    | none =>
      if anyRemote k.ok then raiseSync r 2 0 0 k.s
      else
        let pt := (k.bad.map (·.1)).getD 256
        let g := loadElems r n k.ok k.s
        finish r (fun t => { t with ffr := BitVec.ofNat 256 g.lanes }) (putLoaded r w act pt g)) s

def execVldff (sr : SeatRef) (w : VecWord) (s : State) : Result := .next (vecIssue sr (.vldff sr w) (vldff sr w) s)

-- stores (R114, R123, R125)

/-- Elements that one instruction stores together: those of one line, so that whole segments are replaced (R309). -/
structure Run where
  p : Phys
  n : Nat
  d : Nat
  q : Nat

/-- The segment of a run's line, or of a remote run's payload, that byte k of the run lies in. -/
def runSeg (p : Phys) (k : Nat) : Nat := if p.space = .remote then k / 32 else (p.pa + k) % 128 / 32

/-- An element joins the run before it when it follows it in the same line; window stores stay as issued (R259). -/
def addRun (w : Nat) (p : Phys) (d : Nat) (poison : Bool) : List Run → List Run
  | [] => [⟨p, w, d, b2n poison * 2 ^ runSeg p 0⟩]
  | r :: rs =>
    if p.space = r.p.space && p.space != .window && r.p.pa + r.n = p.pa &&
        (if p.space = .remote then r.p.pa / 2 ^ 46 = p.pa / 2 ^ 46 else r.p.pa / 128 = p.pa / 128) then
      { r with n := r.n + w, d := r.d + d * 2 ^ (8 * r.n), q := r.q ||| b2n poison * 2 ^ runSeg r.p r.n } :: rs
    else ⟨p, w, d, b2n poison * 2 ^ runSeg p 0⟩ :: r :: rs

def storeRun (r : SeatRef) (s : State) (x : Run) : State :=
  if x.p.space = .remote then remoteStore r x.p.pa x.n x.d x.q s else storePhys r x.p x.n x.d (BitVec.ofNat 4 x.q) s

/-- R114: whether the register segment of element i is poisoned. -/
def Seat.elemPoison (t : Seat) (n : RegNo) (w i : Nat) : Bool := (t.rvp n).getLsbD (w * i / 32)

/-- VST (class 0x2A, op 0x0). -/
def vst (r : SeatRef) (w : VecWord) (s : State) : State :=
  let t := s.seat r
  let n := elemBytes w.ew
  checked r [contigPoison t w] (fun s =>
    let k := checkElems r .store (contigVa t w) n 0 false (activeList n (t.act w)) s
    match k.bad with
    | some (_, c, d) => raiseSync r c d 0 k.s
    | none =>
      let runs := k.ok.foldl (fun rs e => addRun n e.2 (velem n (t.rv w.vd) e.1) (t.elemPoison w.vd n e.1) rs) []
      complete r (runs.reverse.foldl (storeRun r) k.s)) s

def execVst (sr : SeatRef) (w : VecWord) (s : State) : Result := .next (vecIssue sr (.vst sr w) (vst sr w) s)

-- gathers and scatters (R123 to R128)

/-- R95, R97: the element or row at which a resumable instruction of n stops, when an interrupt is takeable. -/
def stopAt (s : State) (r : SeatRef) (start n : Nat) (lim : Option Nat) : Nat :=
  match lim with
  | some l => if takeable s r then min n (max start l) else n
  | none => n

/-- R95: an instruction stopped at a boundary: its address stays, and the count of what is complete. -/
def stopped (r : SeatRef) (k : Nat) (s : State) : State := s.updSeat r fun t => { t with resume := k }

/-- R123: the address of element i of an indexed form. -/
def indexVa (t : Seat) (w : VecWord) (i : Nat) : Nat :=
  let n := elemBytes w.ew
  (t.rx w.vs1 + BitVec.ofNat 64 (n * velem n (t.rv w.vs2) i)).toNat

/-- What a run over the elements of an indexed form leaves: what it gathered, the exception at an element, or the fault point. -/
structure Indexed where
  g     : Gathered
  trap  : Option (Nat × Nat × Nat)
  point : Option Nat

/-- R646: the checks of one active element of an indexed form: its base and index (step 3), its address, its page. -/
def indexCheck (r : SeatRef) (a : Acc) (t : Seat) (w : VecWord) (i : Nat) (s : State) : Xlat × State :=
  let n := elemBytes w.ew
  if t.rxp w.vs1 || t.elemPoison w.vs2 n i then (.exc 5 0, s)
  else
    match elemCheck r a (indexVa t w i) n s with
    | (.ok p, u) => (if p.space = .remote then .exc (faultCause a) 0 else .ok p, u)
    | out => out

/-- R124, R126, R128: gathers active elements in ascending order. -/
def gatherElems (r : SeatRef) (t : Seat) (w : VecWord) (low : Nat) (ff : Bool) : List Nat → Gathered → Indexed
  | [], g => ⟨g, none, none⟩
  | i :: is, g =>
    match indexCheck r .load t w i g.s with
    | (.exc c d, u) =>
      let g := { g with s := u }
      if ff && i != low && !(c = 5 && d = 0) then ⟨g, none, some i⟩ else ⟨g, some (i, c, d), none⟩
    | (.ok p, u) =>
      let g := { g with s := u }
      if ff && i != low && alsoFaults u p then ⟨g, none, some i⟩
      else gatherElems r t w low ff is (loadElem r (elemBytes w.ew) i p g)

/-- The lanes from lane k up. -/
def lanesAbove (k : Nat) : Nat := (2 ^ 256 - 1) / 2 ^ k * 2 ^ k

/-- VGATH and VGATHFF: the elements from the resume count to a stop, a trap or a fault point.  The two parts of a gather that an
interrupt divides merge their own lanes: a segment that they write between them keeps its poison bit (row 79 of the log). -/
def gather (r : SeatRef) (ff : Bool) (w : VecWord) (lim : Option Nat) (s : State) : State :=
  let t := s.seat r
  let n := elemBytes w.ew
  let act := t.act w
  let all := activeList n act
  let stop := stopAt s r t.resume (256 / n) lim
  let x := gatherElems r t w (all.headD 256) ff (all.filter fun i => t.resume ≤ i && i < stop) ⟨s, 0, 0, 0⟩
  let upto := match x.trap, x.point with
    | some (k, _, _), _ => k
    | none, some k => k
    | none, none => stop
  let cleared := zeroLanes n w.zm act upto &&& lanesAbove (n * t.resume)
  let s := x.g.s.updSeat r fun t => t.mergeV w.vd (x.g.lanes ||| cleared) x.g.data x.g.pois
  match x.trap with
  | some (k, c, d) => raiseSync r c d k s
  | none =>
    if x.point = none && stop < 256 / n then stopped r stop s
    else finish r (fun t => if ff then { t with ffr := BitVec.ofNat 256 (lanesWhere n fun i => i < upto && bit act (n * i)) } else t) s

/-- VGATH (class 0x29, op 0x0). -/
def execVgath (sr : SeatRef) (w : VecWord) (lim : Option (Fin 257)) (s : State) : Result :=
  .next (vecIssue sr (.vgath sr w lim) (gather sr false w (lim.map (·.val))) s)

/-- VGATHFF (class 0x29, op 0x1). -/
def execVgathff (sr : SeatRef) (w : VecWord) (lim : Option (Fin 257)) (s : State) : Result :=
  .next (vecIssue sr (.vgathff sr w lim) (gather sr true w (lim.map (·.val))) s)

/-- R125: stores active elements in ascending order, until one that faults. -/
def scatterElems (r : SeatRef) (t : Seat) (w : VecWord) : List Nat → State → State × Option (Nat × Nat × Nat)
  | [], s => (s, none)
  | i :: is, s =>
    match indexCheck r .store t w i s with
    | (.exc c d, u) => (u, some (i, c, d))
    | (.ok p, u) =>
      let n := elemBytes w.ew
      let q := b2n (t.elemPoison w.vd n i) * 2 ^ runSeg p 0
      scatterElems r t w is (storePhys r p n (velem n (t.rv w.vd) i) (BitVec.ofNat 4 q) u)

/-- VSCAT (class 0x2A, op 0x1). -/
def scatter (r : SeatRef) (w : VecWord) (lim : Option Nat) (s : State) : State :=
  let t := s.seat r
  let n := elemBytes w.ew
  let stop := stopAt s r t.resume (256 / n) lim
  let (s, bad) := scatterElems r t w ((activeList n (t.act w)).filter fun i => t.resume ≤ i && i < stop) s
  match bad with
  | some (k, c, d) => raiseSync r c d k s
  | none => if stop < 256 / n then stopped r stop s else complete r s

def execVscat (sr : SeatRef) (w : VecWord) (lim : Option (Fin 257)) (s : State) : Result :=
  .next (vecIssue sr (.vscat sr w lim) (scatter sr w (lim.map (·.val))) s)

-- VLUT (R129, R130)

/-- Bytes of a seat's own rows of a tile, from byte b (R129, R133). -/
def Seat.tileBytes (t : Seat) (tile b n : Nat) : Nat := bits (t.tileRow tile (b / 128)).data.toNat (8 * (b % 128)) (8 * n)

/-- Whether the segment of a tile byte is poisoned. -/
def Seat.tilePoison (t : Seat) (tile b : Nat) : Bool := (t.tileRow tile (b / 128)).poison.getLsbD (b % 128 / 32)

/-- R129: the byte at which an index finds its entry of w bytes. -/
def lutByte (w e : Nat) : Nat := w * (e % (16384 / w))

/-- VLUT (class 0x2B, op 0x0): the tile number is in bits [12:10], and bits [14:13] are 0. -/
def vlut (r : SeatRef) (w : VecWord) (s : State) : State :=
  let t := s.seat r
  let n := elemBytes w.ew
  let act := t.act w
  let tile := w.vs2.toNat % 8
  let at' (i : Nat) : Nat := lutByte n (velem n (t.rv w.vs1) i)
  checked r [(8 ≤ w.vs2.toNat, 0, 0), (!(s.coach r.coach).full r.seat tile, 8, tile), (t.vpoison act w.vs1, 5, 1),
      ((activeList n act).any fun i => t.tilePoison tile (at' i), 5, 2)]
    (finish r fun t => t.putV w (vmake n fun i => t.tileBytes tile (at' i) n) 0) s

def execVlut (sr : SeatRef) (w : VecWord) (s : State) : Result := .next (vecIssue sr (.vlut sr w) (vlut sr w) s)

-- VRANS (R132 to R136)

/-- Where a round stands: the lanes' symbols and states, the refill pointer, and what it met. -/
structure Round where
  s    : State
  syms : List Nat
  sts  : List Nat
  ptr  : Word
  bad  : Option (Nat × Nat)
  pois : Bool
  tile : Bool

/-- R133: the update of one state by its table entry. -/
def ransStep (n x e : Nat) : Nat := ((bits e 8 12 + 1) * (x / 2 ^ n) + bits e 20 12) % 2 ^ 32

/-- R133: one lane; a refill reads two bytes. -/
def ransLane (r : SeatRef) (t : Seat) (tile n : Nat) (k : Round) (x : Nat) : Round :=
  if k.bad.isSome then k
  else
    let slot := x % 2 ^ n
    let e := t.tileBytes tile (4 * slot) 4
    let k := { k with tile := k.tile || t.tilePoison tile (4 * slot), syms := k.syms ++ [bits e 0 8] }
    let y := ransStep n x e
    if 2 ^ 16 ≤ y then { k with sts := k.sts ++ [y] }
    else
      match translate r .load k.ptr.toNat k.s with
      | (.exc c d, u) => { k with s := u, bad := some (c, d) }
      | (.ok p, u) =>
        if p.space = .remote then { k with s := u, bad := some (2, 0) }
        else
          let (v, u) := loadPhys r p 2 u
          { k with s := deadRead r v u, sts := k.sts ++ [y * 2 ^ 16 + v.data], ptr := k.ptr + 2, pois := k.pois || v.poison != 0 }

/-- R133: one round over 64 lanes. -/
def ransRound (r : SeatRef) (w : RansWord) (s : State) : Round :=
  let t := s.seat r
  ((List.range 64).map fun i => velem 4 (t.rv w.vd) i).foldl (ransLane r t w.t.toNat (8 + w.prec.toNat))
    ⟨s, [], [], t.rx w.xn, none, false, false⟩

/-- R136, R646: the first exception that a round meets in its data. -/
def roundPoison (t : Seat) (w : RansWord) (k : Round) : Option (Nat × Nat) :=
  if t.rvp w.vd != 0 || k.pois then some (5, 1) else if k.tile then some (5, 2) else none

/-- Packs 64 lanes of 32 bits. -/
def lanes32 (xs : List Nat) : BitVec 2048 := BitVec.ofNat 2048 (packElems 32 xs)

/-- R132: an encoding that is no VRANS. -/
def ransBad (w : RansWord) (bad : Bool) : Bool × Nat × Nat := (4 < w.prec.toNat || bad, 0, 0)

/-- R136, R646: the checks of a round before its data: scalar registers, the tile, the alignment of Xn. -/
def ransChecks (s : State) (r : SeatRef) (w : RansWord) (xs : List RegNo) : List (Bool × Nat × Nat) :=
  let t := s.seat r
  [(t.poisoned (w.xn :: xs), 5, 0), (!(s.coach r.coach).full r.seat w.t.toNat, 8, w.t.toNat), ((t.rx w.xn).getLsbD 0, 4, 0)]

/-- VRANS, single form (R135): Vy is written first, then Vd and Xn. -/
def vransSingle (r : SeatRef) (w : RansWord) (s : State) : State :=
  checked r (ransBad w false :: ransChecks s r w []) (fun s =>
    let k := ransRound r w s
    match k.bad with
    | some (c, d) => raiseSync r c d 0 k.s
    | none =>
      match roundPoison (s.seat r) w k with
      | some (c, d) => raiseSync r c d 0 k.s
      | none => finish r (fun t => ((t.wv w.vy (lanes32 k.syms) 0).wv w.vd (lanes32 k.sts) 0).wx w.xn k.ptr) k.s) s

def execVransSingle (sr : SeatRef) (w : RansWord) (s : State) : Result :=
  .next (vecIssue sr (.vransSingle sr w) (vransSingle sr w) s)

/-- The pieces of n bytes from an address that stay within lines. -/
def linePieces (va n : Nat) : List (Nat × Nat) :=
  let first := min n (128 - va % 128)
  if first < n then [(0, first), (first, n - first)] else [(0, n)]

/-- Translates the pieces of a store; none is written unless all may be. -/
def storePieces (r : SeatRef) (va d : Nat) : List (Nat × Nat) → State → (List (Phys × Nat × Nat) × State) ⊕ (Nat × Nat × State)
  | [], s => .inl ([], s)
  | (o, n) :: ps, s =>
    match translate r .store ((va + o) % 2 ^ 64) s with
    | (.exc c x, t) => .inr (c, x, t)
    | (.ok p, t) =>
      if p.space = .remote then .inr (3, 0, t)
      else
        match storePieces r va d ps t with
        | .inl (qs, u) => .inl ((p, n, bits d (8 * o) (8 * n)) :: qs, u)
        | .inr e => .inr e

/-- R135: one round of the block form: its symbols are stored as bytes, then Vd and Xn change. -/
def ransBlockRound (r : SeatRef) (w : RansWord) (round : Nat) (s : State) : State × Option (Nat × Nat) :=
  let t := s.seat r
  let k := ransRound r w s
  match k.bad with
  | some e => (k.s, some e)
  | none =>
    let va := (t.rx (w.vy + 1) + BitVec.ofNat 64 (64 * round)).toNat
    match storePieces r va (packElems 8 k.syms) (linePieces va 64) k.s with
    | .inr (c, d, u) => (u, some (c, d))
    | .inl (ps, u) =>
      match roundPoison t w k with
      | some e => (u, some e)
      | none =>
        let u := ps.foldl (fun u p => storePhys r p.1 p.2.1 p.2.2 0 u) u
        (u.updSeat r fun t => (t.wv w.vd (lanes32 k.sts) 0).wx w.xn k.ptr, none)

/-- Rounds from one number on, until one that faults: how many are then complete, and the exception. -/
def ransRounds (r : SeatRef) (w : RansWord) : Nat → Nat → State → Nat × State × Option (Nat × Nat)
  | 0, i, s => (i, s, none)
  | n + 1, i, s =>
    match ransBlockRound r w i s with
    | (t, some e) => (i, t, some e)
    | (t, none) => ransRounds r w n (i + 1) t

/-- R135: the rounds of a block form of n rounds from its resume count on. -/
def ransBlock (r : SeatRef) (w : RansWord) (n : Nat) (lim : Option Nat) (s : State) : State :=
  let start := min (s.seat r).resume n
  checkedAt r start (ransChecks s r w [w.vy + 1]) (fun s =>
    let stop := stopAt s r start n lim
    let (k, s, bad) := ransRounds r w (stop - start) start s
    match bad with
    | some (c, d) => raiseSync r c d k s
    | none =>
      if stop < n then stopped r stop s
      else finish r (fun t => t.wx (w.vy + 1) (t.rx (w.vy + 1) + BitVec.ofNat 64 (64 * n))) s) s

/-- VRANS, block form (R135): X[m] from 1 to 65,535 counts the rounds, and 0 completes with no effect; the spec gives no meaning to a
larger value, which runs a free number of rounds (row 6). -/
def vransBlock (r : SeatRef) (w : RansWord) (lim : Option Nat) (s : State) : State :=
  let t := s.seat r
  checkedAt r t.resume [ransBad w (w.vy = 0 || w.vy = 31), (t.rxp w.vy, 5, 0)] (fun s =>
    let x := (t.rx w.vy).toNat
    let (n, s) := if x < 65536 then (x, s) else let (v, t) := s.free; (v % 65536, t)
    if n = 0 then complete r s else ransBlock r w n lim s) s

def execVransBlock (sr : SeatRef) (w : RansWord) (lim : Option Half) (s : State) : Result :=
  .next (vecIssue sr (.vransBlock sr w lim) (vransBlock sr w (lim.map (·.toNat))) s)

end Sys2Proof.Machine
end

