-- ==== Sys2Proof/Machine/Tiles.lean ====
section
/-! DEFINITION. Tile transfers TLD and TST (R143 to R153), release and group mode (R154 to R161), with the meanings of their
commands. -/

namespace Sys2Proof.Machine

-- shape checks (R153)

/-- The DETAIL of the lowest failed check of a list. -/
def lowestFail (cs : List (Bool × Nat)) : Option Nat := ((cs.filter (·.1)).map (·.2)).min?

/-- R646: the shape checks, under a PROG, then the rest. -/
def shapedAt (r : SeatRef) (prog : Nat) (cs : List (Bool × Nat)) (f : State → State) (s : State) : State :=
  match lowestFail cs with
  | some d => raiseSync r 7 d prog s
  | none => f s

/-- The shape checks of an instruction that is not resumable. -/
def shaped (r : SeatRef) (cs : List (Bool × Nat)) (f : State → State) (s : State) : State := shapedAt r 0 cs f s

/-- R153: checks 0x02 and 0x03 of one tile operand. -/
def groupChecks (k : Coach) (t : Nat) (g : Bool) : List (Bool × Nat) :=
  [(g && !k.grouped t, 2), (!g && k.grouped t, 3)]

/-- Bytes of a transferred row (R144, R148). -/
def rowBytes (w : TileWord) : Nat := if w.a then 512 else 16 * (w.rb.toNat + 1)

/-- R153: the shape checks of TLD and TST. -/
def tileChecks (k : Coach) (w : TileWord) (load : Bool) : List (Bool × Nat) :=
  let top := w.first.toNat + w.rows.toNat + 1
  let len := 16 * (w.rb.toNat + 1)
  (if w.a then [] else groupChecks k w.t.toNat w.g) ++
    [(decide ((if w.g && !w.a then 512 else 128) < top), 1),
     (w.a && (w.rb != 7 || w.g || w.t.getLsbD 2 || 128 < top), 4),
     (w.wen && (load || w.fmt = 0), 5),
     ((w.fmt = 1 || w.fmt = 2) && len % 32 != 0, 6),
     (w.rsv != 0, 7)]

-- rows in memory (R146, R149, R150)

/-- The pieces of n bytes from an address that stay within lines: offset and length. -/
def lineChunks (va : Nat) : Nat → Nat → Nat → List (Nat × Nat)
  | 0, _, _ => []
  | fuel + 1, o, n =>
    if n = 0 then []
    else
      let k := min n (128 - (va + o) % 128)
      (o, k) :: lineChunks va fuel (o + k) (n - k)

/-- R146: the address of row j. -/
def rowVa (t : Seat) (w : TileWord) (j : Nat) : Nat := (t.rx w.xn + BitVec.ofNat 64 j * t.rx w.xm).toNat

/-- A row's pieces, translated: offset, length and place. -/
structure RowPlace where
  s   : State
  ps  : List (Nat × Nat × Phys)
  bad : Option (Nat × Nat)

/-- R149: every piece of a row is translated before any byte moves; a partner's memory is out of reach of the tile forms (R397). -/
def placeRow (r : SeatRef) (a : Acc) (va : Nat) : List (Nat × Nat) → State → RowPlace
  | [], s => ⟨s, [], none⟩
  | (o, n) :: cs, s =>
    match translate r a ((va + o) % 2 ^ 64) s with
    | (.exc c d, t) => ⟨t, [], some (c, d)⟩
    | (.ok p, t) =>
      if p.space = .remote then ⟨t, [], some (faultCause a, 0)⟩
      else
        let k := placeRow r a va cs t
        { k with ps := (o, n, p) :: k.ps }

/-- R150: a load that allocates no line in the coach: bytes held there come from there. -/
def loadAround (r : SeatRef) (p : Phys) (n : Nat) (s : State) : Loaded × State :=
  if !p.cached then loadPhys r p n s
  else
    let c := r.coach.val
    let tag := p.pa / 128
    let host := decide (p.space = .host)
    let s := fillLine c tag host (if host then s else waitOwn c tag s)
    let k := s.coach c
    let e := k.mbuf.find? (ofEntry tag host)
    let (v, t) := match k.copyOf tag host with
      | some l => ((l.data, l.poison, l.dead), s)
      | none => fetchLine s tag host true
    let v := gatherBytes (p.pa % 128) n v e
    (if host then v else offlinePoison t v, t)

/-- R150: a store past the coach's caches: its copies of the line leave first. -/
def storeAround (r : SeatRef) (p : Phys) (n d : Nat) (q : BitVec 4) (s : State) : State :=
  if !p.cached then storePhys r p n d q s
  else
    let c := r.coach.val
    let tag := p.pa / 128
    let host := decide (p.space = .host)
    let s := evictCopy c tag host (if host then s else waitOwn c tag s)
    if host then { s with hostMem := putCells s.hostMem p.pa n d }
    else llcWrite s tag (byteMask (p.pa % 128) n) (d * 2 ^ (8 * (p.pa % 128))) q false

/-- R151: the segments of a row that take bytes from marked segments of a piece's line. -/
def rowMarks (o n off m : Nat) : Nat :=
  (List.range 4).foldl (fun t k =>
    let lo := max off (32 * k)
    let hi := min (off + n) (32 * (k + 1))
    if bit m k && lo < hi then t ||| segsTouched 16 (o + lo - off) (hi - lo) else t) 0

/-- R151: the segments of a piece's line that take bytes from marked segments of a row. -/
def lineMarks (o n off m : Nat) : Nat :=
  (List.range 16).foldl (fun t k =>
    let lo := max o (32 * k)
    let hi := min (o + n) (32 * (k + 1))
    if bit m k && lo < hi then t ||| segsTouched 4 (off + lo - o) (hi - lo) else t) 0

/-- The bytes and marks of a row in memory. -/
def loadRow (r : SeatRef) (ps : List (Nat × Nat × Phys)) (s : State) : Nat × Nat × State :=
  ps.foldl (fun (d, m, s) (o, n, p) =>
    let (v, t) := loadAround r p n s
    (d + v.data * 2 ^ (8 * o), m ||| rowMarks o n (p.pa % 128) v.poison, deadRead r v t)) (0, 0, s)

def storeRow (r : SeatRef) (ps : List (Nat × Nat × Phys)) (d m : Nat) (s : State) : State :=
  ps.foldl (fun s (o, n, p) =>
    storeAround r p n (bits d (8 * o) (8 * n)) (BitVec.ofNat 4 (lineMarks o n (p.pa % 128) m)) s) s

-- watch counting of TST (R152, R226, R227)

/-- R226: whether a stored element counts as saturated. -/
def storeSat (fmt c : Nat) : Bool :=
  match fmtOfCode fmt with
  | some f => f.width ≤ 8 && c % 2 ^ (f.width - 1) = maxBits f
  | none => (fmt = 6 && (c = 0x7F || c = 0x80)) || (fmt = 7 && (c = 0x7FFF || c = 0x8000))

/-- R227: the magnitude that a stored element brings to the step maximum, as FP32. -/
def storeMag (fmt c : Nat) : Nat :=
  match fmt with
  | 4 => widen32 fmtBF16 c
  | 5 => c
  | 6 => fround fmtFP32 false (fofInt (sInt 8 c).natAbs)
  | 7 => fround fmtFP32 false (fofInt (sInt 16 c).natAbs)
  | _ => 0

/-- R152: the elements of a stored row enter a slot's counts. -/
def countRow (s : State) (slot fmt d len : Nat) : State :=
  let w := fmtBits fmt
  let es := (List.range (8 * len / w)).map (elemAt d w)
  let nonf (c : Nat) : Bool := match fmtOfCode fmt with
    | some f => !fisFinite (fdecode f c)
    | none => false
  let isZero (c : Nat) : Bool := match fmtOfCode fmt with
    | some f => fisZero (fdecode f c)
    | none => c = 0
  let live := es.filter fun c => !nonf c
  let t := watchCount s slot es.length (live.filter isZero).length
    (live.filter fun c => !isZero c && storeSat fmt c).length (es.length - live.length)
  if 4 ≤ fmt then watchMax t slot (maxMag (es.map (storeMag fmt))) else t

-- TLD and TST

/-- R146, R148, R156: row j of a TLD enters its tile or accumulator. -/
def putRow (r : SeatRef) (w : TileWord) (j d m : Nat) (s : State) : State :=
  let n := rowBytes w
  let row := w.first.toNat + j
  s.updCoach r.coach fun k =>
    if w.a then k.putAcc (w.t.toNat % 4) row fun a => a.put 0 n d m
    else (k.fillTile r.seat w.t.toNat w.g).putTile r.seat w.t.toNat w.g row fun t => t.put 0 n d m

/-- The bytes and marks of row j of a TST. -/
def getRow (s : State) (r : SeatRef) (w : TileWord) (j : Nat) : Nat × Nat :=
  let k := s.coach r.coach
  let row := w.first.toNat + j
  if w.a then let a := k.accRow (w.t.toNat % 4) row; (a.data.toNat, a.poison.toNat)
  else
    let t := k.tileRow r.seat w.t.toNat w.g row
    (bits t.data.toNat 0 (8 * rowBytes w), t.poison.toNat)

/-- One row of a transfer, or the exception that it meets. -/
def moveRow (r : SeatRef) (w : TileWord) (load : Bool) (j : Nat) (s : State) : State × Option (Nat × Nat) :=
  let va := rowVa (s.seat r) w j
  let k := placeRow r (if load then .load else .store) va (lineChunks va 5 0 (rowBytes w)) s
  match k.bad with
  | some e => (k.s, some e)
  | none =>
    if load then
      let (d, m, t) := loadRow r k.ps k.s
      (putRow r w j d m t, none)
    else
      let (d, m) := getRow k.s r w j
      let t := storeRow r k.ps d m k.s
      (if w.wen then countRow t w.slot.toNat w.fmt.toNat d (rowBytes w) else t, none)

/-- R149: rows from one on, until one that meets an exception. -/
def moveRows (r : SeatRef) (w : TileWord) (load : Bool) : Nat → Nat → State → Nat × State × Option (Nat × Nat)
  | 0, j, s => (j, s, none)
  | n + 1, j, s =>
    match moveRow r w load j s with
    | (t, some e) => (j, t, some e)
    | (t, none) => moveRows r w load n (j + 1) t

/-- TLD and TST (class 0x3E, R143 to R153); the word is 64 bits long.  A check that a resumed transfer fails keeps its count, but for
alignment, whose PROG is 0 (R95, R147). -/
def tileMove (r : SeatRef) (w : TileWord) (load : Bool) (lim : Option Nat) (s : State) : State :=
  let k := s.coach r.coach
  let t := s.seat r
  shapedAt r t.resume (tileChecks k w load)
    (checkedAt r t.resume [(t.poisoned [w.xn, w.xm], 5, 0), (!load && !w.a && !k.full r.seat w.t.toNat, 8, w.t.toNat)] fun s =>
      if (t.rx w.xn).toNat % 16 != 0 || (t.rx w.xm).toNat % 16 != 0 then raiseSync r 4 0 0 s
      else
      let n := w.rows.toNat + 1
      let start := min t.resume n
      let stop := stopAt s r start n lim
      let (j, s, bad) := moveRows r w load (stop - start) start s
      match bad with
      | some (c, d) => raiseSync r c d j s
      | none => if stop < n then stopped r stop s else completeBy 8 r s) s

/-- TLD. -/
def execTld (sr : SeatRef) (w : TileWord) (lim : Option (Fin 513)) (s : State) : Result :=
  .next (seatRun sr (.tld sr w lim) (tileMove sr w true (lim.map (·.val))) s)

/-- TST. -/
def execTst (sr : SeatRef) (w : TileWord) (lim : Option (Fin 513)) (s : State) : Result :=
  .next (seatRun sr (.tst sr w lim) (tileMove sr w false (lim.map (·.val))) s)

-- TREL and TGRP (R154, R158 to R160)

/-- TREL (class 0x30). -/
def trel (r : SeatRef) (t : BitVec 3) (g : Bool) (rsv : BitVec 22) (s : State) : State :=
  checked r [(rsv != 0, 0, 0)]
    (shaped r (groupChecks (s.coach r.coach) t.toNat g) fun s =>
      complete r (s.updCoach r.coach fun k => k.release r.seat t.toNat)) s

def execTrel (sr : SeatRef) (t : BitVec 3) (g : Bool) (rsv : BitVec 22) (s : State) : Result :=
  .next (seatRun sr (.trel sr t g rsv) (trel sr t g rsv) s)

/-- R160: tile number t enters group mode: full if any fragment was, and every seat shows it. -/
def Coach.group (k : Coach) (t : Nat) : Coach :=
  let any := (List.range 4).any fun i => k.full i t
  let k := (List.range 4).foldl (fun k i => if k.full i t then k else k.clearRows i t false) k
  { (k.touchTile 0 t true) with grp := k.grp ||| ((1 : BitVec 8) <<< t) }.setFull 0 t any

/-- R160: tile number t leaves group mode: every seat's fragment takes the fullness of the grouped tile. -/
def Coach.ungroup (k : Coach) (t : Nat) : Coach :=
  { ((k.touchTile 0 t true).setFull 0 t (k.full 0 t)) with grp := k.grp &&& ~~~((1 : BitVec 8) <<< t) }

/-- R158: the switch of group mode; a request for the mode in force changes nothing. -/
def tgrpSwitch (r : SeatRef) (t : BitVec 3) (on : Bool) (s : State) : State :=
  complete r (if (s.coach r.coach).grouped t.toNat = on then s
    else s.updCoach r.coach fun k => if on then k.group t.toNat else k.ungroup t.toNat)

/-- TGRP (class 0x31, R158, R159): while a queued VLUT or VRANS reads a tile of the number, the seat waits. -/
def tgrp (r : SeatRef) (t : BitVec 3) (on : Bool) (rsv : BitVec 22) (s : State) : State :=
  checked r [(rsv != 0, 0, 0)] (fun s =>
    if (s.coach r.coach).vq.any fun e => readsTile t.toNat e.instr then s.updSeat r fun q => { q with wait := .tgrp t on }
    else tgrpSwitch r t on s) s

/-- R159: the TGRPs of a coach that wait end once no queued instruction that they wait for is left. -/
def tgrpResume (c : Fin 96) (s : State) : State :=
  (List.range 4).foldl (fun s i =>
    let r : SeatRef := ⟨c, seatFin i⟩
    match (s.seat r).wait with
    | .tgrp t on =>
      if (s.coach c).vq.any fun e => readsTile t.toNat e.instr then s
      else tgrpSwitch r t on (s.updSeat r fun q => { q with wait := .none })
    | _ => s) s

def execTgrp (sr : SeatRef) (t : BitVec 3) (on : Bool) (rsv : BitVec 22) (s : State) : Result :=
  .next (seatRun sr (.tgrp sr t on rsv) (tgrp sr t on rsv) s)

end Sys2Proof.Machine
end

