-- ==== Sys2Proof/Machine/Matrix.lean ====
section
/-! DEFINITION. The matrix array: TMMA and TMMA.Z (R167 to R181), the checksum stream (R189 to R191), the agreement sampler (R239,
R240) and the converting read-out TCVT (R182 to R185), with the meanings of their commands. -/

namespace Sys2Proof.Machine

-- operands (R168, R171 to R173)

/-- R171: the formats of the stationary and the streamed operand. -/
def pairFmts (fp : Nat) : Fmt × Fmt :=
  match fp with
  | 0 => (fmtE4M3, fmtE4M3)
  | 1 => (fmtE4M3, fmtE5M2)
  | 2 => (fmtE5M2, fmtE4M3)
  | 3 => (fmtE5M2, fmtE5M2)
  | 4 => (fmtE2M1, fmtE2M1)
  | _ => (fmtBF16, fmtBF16)

/-- R179: the bytes of 32 elements of a pair. -/
def pairUnit (fp : Nat) : Nat := if fp = 4 then 16 else if fp = 5 then 64 else 32

/-- The element codes of the first bytes of a row, in blocks of 32 (R139, R173). -/
def rowBlocks (f : Fmt) (kb : Nat) (d : BitVec 1024) : List (List Nat) :=
  (List.range (8 * kb / f.width / 32)).map fun j => (List.range 32).map fun i => elemAt d.toNat f.width (32 * j + i)

/-- Rows of a tile operand. -/
def operandRows (k : Coach) (seat t : Nat) (g : Bool) (first n : Nat) : List TileRow :=
  (List.range n).map fun i => k.tileRow seat t g (first + i)

/-- R173: the scales of one operand in a row of the scale tile. -/
def rowScales (so half blocks : Nat) (d : BitVec 1024) : List Nat :=
  (List.range blocks).map fun j => bits d.toNat (8 * (16 * so + 8 * half + j)) 8

/-- R174: one element: the chain of block values in ascending K. -/
def dotChain (start : Nat) (sf wf : Fmt) (ss ws : List Nat) (sb wb : List (List Nat)) : Nat :=
  ((ss.zip ws).zip (sb.zip wb)).foldl (fun t q =>
    add32 t (blockValue q.1.1 q.1.2 ((q.2.1.map (fdecode sf)).zip (q.2.2.map (fdecode wf))))) start

-- checks (R178 to R180)

/-- R179: the shape checks of TMMA. -/
def mmaChecks (k : Coach) (w : MmaWord) : List (Bool × Nat) :=
  groupChecks k w.ts.toNat w.gs ++ groupChecks k w.tw.toNat w.gw ++
    [(k.grouped w.tsc.toNat, 3), ((w.kb.toNat + 1) % pairUnit w.fp.toNat != 0, 8), (decide (128 < w.n.toNat + 1), 9),
     (decide ((if w.gs then 512 else 128) < 32 * w.sf.toNat + w.m.toNat + 1)
       || decide ((if w.gw then 512 else 128) < 32 * w.wf.toNat + w.n.toNat + 1), 10)]

/-- R155, R180: the lowest-numbered empty tile of some. -/
def emptyTile (k : Coach) (seat : Nat) (ts : List Nat) : Option Nat := (ts.filter fun t => !k.full seat t).min?

/-- The segments of the first n bytes of a row. -/
def firstSegs (n : Nat) : Nat := 2 ^ ((n + 31) / 32) - 1

def rowsPoisoned (rows : List TileRow) (segs : Nat) : Bool := rows.any fun t => t.poison.toNat &&& segs != 0

def accPoisoned (k : Coach) (a rows segs : Nat) : Bool :=
  (List.range rows).any fun i => (k.accRow a i).poison.toNat &&& segs != 0

-- the checksum stream (R189 to R191)

/-- R190: whether a block of a row is compared. -/
def comparable (sf wf : Fmt) (ss : Nat) (sb : List Nat) (ws : List Nat) (wbs : List (List Nat)) : Bool :=
  ss != 0xFF && ws.all (fun e => e != 0xFF) && sb.all (fun e => !nonFinite sf e) && wbs.all fun b => b.all fun e => !nonFinite wf e

/-- R181, R189: the segments of row m that an upset poisons: of a failed row all, of a failed column its own. -/
def upsetSegs (u : ArrayUpset) (m n : Nat) : Nat :=
  if u.badRows.any fun r => r.val = m then firstSegs (4 * n)
  else u.badCols.foldl (fun t c => if c.val < n then t ||| 2 ^ (c.val / 8) else t) 0

/-- R181: the value that row m, column n takes: the computed one unless the array failed there. -/
def flipped (u : ArrayUpset) (m n v : Nat) : Nat :=
  match u.flips.find? fun f => f.1.val = m && f.2.1.val = n with
  | some f => f.2.2.toNat
  | none => v

/-- What an upset adds to an exact block sum: row, column and block (R189). -/
def sumError (u : ArrayUpset) (m n j : Nat) : FVal :=
  u.sums.foldl (fun t f =>
    if f.row.val = m && f.col.val = n && f.block.val = j then fadd t (.fin f.neg f.mag f.exp) else t) (.fin false 0 0)

/-- R174, R189: the exact sum of the products of two lists of values. -/
def exactSum (a b : List FVal) : FVal := ((a.zip b).map fun p => fmul p.1 p.2).foldl fadd (.fin false 0 0)

/-- One column of the streamed operand: its codes and its scales by block. -/
structure StreamCol where
  codes  : List (List Nat)
  scales : List Nat

/-- A column's values in block j, and the factor of its scale there. -/
def StreamCol.vals (c : StreamCol) (wf : Fmt) (j : Nat) : List FVal := (c.codes.getD j []).map (fdecode wf)
def StreamCol.factor (c : StreamCol) (j : Nat) (v : FVal) : FVal := fscale v ((c.scales.getD j 0 : Int) - 127)

/-- R189: block j of the checksum column: for each k the exact sum over the columns. -/
def checkColumn (wf : Fmt) (cs : List StreamCol) (j : Nat) : List FVal :=
  (List.range 32).map fun k => (cs.map fun c => c.factor j ((c.vals wf j).getD k (.fin false 0 0))).foldl fadd (.fin false 0 0)

/-- R189, R190: whether row m's exact sums differ in a block that is compared; `sb` and `ss` are the row's codes and scales. -/
def rowMismatch (u : ArrayUpset) (sf wf : Fmt) (m : Nat) (sb : List (List Nat)) (ss : List Nat) (cs : List StreamCol) : Bool :=
  (List.range sb.length).any fun j =>
    let s := (sb.getD j []).map (fdecode sf)
    comparable sf wf (ss.getD j 0xFF) (sb.getD j []) (cs.map fun c => c.scales.getD j 0xFF) (cs.map fun c => c.codes.getD j []) &&
      !feq (fadd (exactSum s (checkColumn wf cs j)) (sumError u m 128 j))
        ((cs.zipIdx.map fun c => c.1.factor j (fadd (exactSum s (c.1.vals wf j)) (sumError u m c.2 j))).foldl fadd (.fin false 0 0))

/-- R174 with wrong block sums: one element of row m, column n; a block whose value is NaN or infinite is not touched. -/
def dotChainWith (u : ArrayUpset) (m n start : Nat) (sf wf : Fmt) (sb : List (List Nat)) (ss : List Nat) (c : StreamCol) : Nat :=
  (List.range sb.length).foldl (fun t j =>
    let a := (sb.getD j []).map (fdecode sf)
    let right := blockValue (ss.getD j 0xFF) (c.scales.getD j 0xFF) (a.zip (c.vals wf j))
    add32 t (if nonFinite fmtFP32 right then right
      else fround fmtFP32 false (fscale (fadd (exactSum a (c.vals wf j)) (sumError u m n j))
        ((ss.getD j 0 : Int) - 127 + ((c.scales.getD j 0 : Int) - 127))))) start

/-- R191: a mismatch counts, also towards substitution, and interrupts the issuing seat. -/
def arrayFault (r : SeatRef) (a : Nat) (s : State) : State :=
  ((s.updCoach r.coach fun k =>
    let l := recent s.time.ns k.aFaults ++ [s.time.ns]
    { k with aFaults := l, subDue := k.subDue || 3 ≤ l.length }).bump (.coach r.coach 1)).pendInt r 1 a

-- the agreement sampler (R239, R240)

/-- R239: a block-scaled element as BF16, when it is finite and exact there. -/
def toBf16 (f : Fmt) (scale e : Nat) : Option Nat :=
  let v := fscale (fdecode f e) ((scale : Int) - 127)
  let b := fround fmtBF16 false v
  if scale = 0xFF || !fisFinite v || nonFinite fmtBF16 b || !feq (fdecode fmtBF16 b) v then none else some b

/-- All elements of some rows as BF16, or none when one is not. -/
def rowsBf16 (f : Fmt) (kb so half : Nat) (rows sc : List (BitVec 1024)) : Option (List (List Nat)) :=
  (rows.zip sc).mapM fun q =>
    let bs := rowBlocks f kb q.1
    (((rowScales so half bs.length q.2).zip bs).flatMap fun p => p.2.map (toBf16 f p.1)).mapM fun x => x

/-- R239: one element of the shadow result: FP32 products added in ascending K, each add rounded. -/
def wideDot (start : Nat) (a b : List Nat) : Nat :=
  (a.zip b).foldl (fun t p => add32 t (mul32 (widen32 fmtBF16 p.1) (widen32 fmtBF16 p.2))) start

/-- R240: |n − w| ÷ max(|w|, 2⁻¹²⁶) in FP32. -/
def agreeError (n w : Nat) : Nat :=
  let d := sub32 n w % 2 ^ 31
  fdivRound fmtFP32 (fdecode fmtFP32 d) (fdecode fmtFP32 (max (w % 2 ^ 31) 0x00800000))

/-- The larger of two errors; a NaN counts for nothing. -/
def maxError (a b : Nat) : Nat := if flt32 a b then b else a

/-- R239, R240: the second pass of a sampled TMMA: the record counts it as compared or as skipped. -/
def samplePass (c : Nat) (s : State) : State :=
  match (s.coach c).sample with
  | none => s
  | some j =>
    let s := s.updCoach c fun k => { k with sample := none }
    let (sf, wf) := pairFmts j.fp
    let ref (b : Fin 3) : StatRef := .agreement (coachFin c) b
    match rowsBf16 sf j.k j.so 0 j.st j.sc, rowsBf16 wf j.k j.so 1 j.wt j.sc with
    | some a, some b =>
      if (j.pre ++ j.post).any nonFinite32 then s.bump (ref 1)
      else
        let wide := ((a.zipIdx).flatMap fun x => (b.zipIdx).map fun y =>
          wideDot (j.pre.getD (x.2 * j.n + y.2) 0) x.1 y.1)
        let err := ((j.post.zip wide).map fun q => agreeError q.1 q.2).foldl maxError 0
        let s := (s.updCoach c fun k => { k with shadow := wide.map (BitVec.ofNat 32) }).bump (ref 0)
        let s := s.updAgree c fun g => { g with curErr := maxError g.curErr err }
        if flt32 (agreeThr s) err then
          (s.bump (ref 2)).updWatch fun w => { w with due := w.due ++ [(0x0032, c + 2 ^ 7 * j.acc, err / 2 ^ 16)] }
        else s
    | _, _ => s.bump (ref 1)

/-- AGREEMENT_SAMPLE_PASS. -/
def execAgreementSamplePass (c : Fin 96) (s : State) : Result := .next (samplePass c s)

/-- R239: a narrow TMMA is counted, and one in 2^k is sampled; a sample that still waits has its pass first. -/
def sampleMma (c : Nat) (w : MmaWord) (job : SampleJob) (s : State) : State :=
  match samplerK s with
  | none => s
  | some k =>
    if w.fp = 5 then s
    else
      let s := s.updCoach c fun h => { h with tmmas := h.tmmas + 1 }
      if (s.coach c).tmmas.toNat % 2 ^ k = 0 then (samplePass c s).updCoach c fun h => { h with sample := some job } else s

-- TMMA (R170 to R181)

/-- The results of a TMMA, row by row. -/
def mmaRows (z : Bool) (fp so : Nat) (st wt sc : List (BitVec 1024)) (kb : Nat) (pre : List (List Nat)) : List (List Nat) :=
  let (sf, wf) := pairFmts fp
  let wb := (wt.zip sc).map fun q => let b := rowBlocks wf kb q.1; (b, rowScales so 1 b.length q.2)
  ((st.zip sc).zip pre).map fun q =>
    let sb := rowBlocks sf kb q.1.1
    let ss := rowScales so 0 sb.length q.1.2
    (wb.zip q.2).map fun y => dotChain (if z then minusZero32 else y.2) sf wf ss y.1.2 sb y.1.1

/-- The effect of a TMMA whose checks have passed. -/
def mmaRun (r : SeatRef) (z : Bool) (w : MmaWord) (u : ArrayUpset) (s : State) : State :=
  let k := s.coach r.coach
  let m := w.m.toNat + 1
  let n := w.n.toNat + 1
  let kb := w.kb.toNat + 1
  let a := w.acc.toNat
  let so := w.so.toNat
  let fp := w.fp.toNat
  let data (rows : List TileRow) : List (BitVec 1024) := rows.map (·.data)
  let st := data (operandRows k r.seat w.ts.toNat w.gs (32 * w.sf.toNat) m)
  let wt := data (operandRows k r.seat w.tw.toNat w.gw (32 * w.wf.toNat) n)
  let sc := data (operandRows k r.seat w.tsc.toNat false 0 128)
  let pre := (List.range m).map fun i => (List.range n).map fun j => elemAt (k.accRow a i).data.toNat 32 j
  let (sf, wf) := pairFmts fp
  let cols : List StreamCol := (wt.zip sc).map fun q => let b := rowBlocks wf kb q.1; ⟨b, rowScales so 1 b.length q.2⟩
  let rowOf (i : Nat) : List (List Nat) := rowBlocks sf kb (st.getD i 0)
  let scalesOf (i : Nat) : List Nat := rowScales so 0 (rowOf i).length (sc.getD i 0)
  let out := (mmaRows z fp so st wt sc kb pre).zipIdx.map fun q => q.1.zipIdx.map fun e =>
    flipped u q.2 e.2 (if u.sums.any fun f => f.row.val = q.2 && f.col.val = e.2 then
      dotChainWith u q.2 e.2 (if z then minusZero32 else (pre.getD q.2 []).getD e.2 0) sf wf (rowOf q.2) (scalesOf q.2)
        (cols.getD e.2 ⟨[], []⟩) else e.1)
  let wrong := (List.range m).filter fun i => w.chk && rowMismatch u sf wf i (rowOf i) (scalesOf i) cols
  let marks (i : Nat) : Nat := if wrong.contains i then firstSegs (4 * n) else upsetSegs u i n
  let s := s.updCoach r.coach fun k =>
    let k := (out.zipIdx).foldl (fun k q => k.putAcc a q.2 fun x => x.put 0 (4 * n) (packElems 32 q.1) (marks q.2)) k
    { k with
      latchS := some ⟨r.seat, w.ts, 32 * w.sf.toNat, m, kb, fp⟩
      latchW := some ⟨r.seat, w.tw, 32 * w.wf.toNat, n, kb, fp⟩ }
  let upsets := (u.badRows.filter fun i => i.val < m).length + (u.badCols.filter fun i => i.val < n).length
  let s := if upsets = 0 then s else s.bump (.coach r.coach 3) upsets
  let s := flagNonfinite (out.any fun row => row.any nonFinite32) s
  let s := wrong.foldl (fun s _ => arrayFault r a s) s
  let s := sampleMma r.coach w
    ⟨a, s.tender.step, m, n, kb, fp, so, st, wt, sc, if z then List.replicate (m * n) minusZero32 else pre.flatten, out.flatten⟩ s
  completeBy 8 r s

/-- TMMA and TMMA.Z (class 0x3E): the checks of R178 in their order, then the products. -/
def mma (r : SeatRef) (z : Bool) (w : MmaWord) (u : ArrayUpset) (s : State) : State :=
  let k := s.coach r.coach
  let m := w.m.toNat + 1
  let n := w.n.toNat + 1
  let segs := firstSegs (w.kb.toNat + 1)
  let tiles := [w.ts.toNat, w.tw.toNat, w.tsc.toNat]
  checked r [(6 ≤ w.fp.toNat || w.rsv != 0, 0, 0)]
    (shaped r (mmaChecks k w)
      (checked r [((emptyTile k r.seat tiles).isSome, 8, (emptyTile k r.seat tiles).getD 0),
          (rowsPoisoned (operandRows k r.seat w.ts.toNat w.gs (32 * w.sf.toNat) m) segs, 5, 2),
          (rowsPoisoned (operandRows k r.seat w.tw.toNat w.gw (32 * w.wf.toNat) n) segs, 5, 2),
          (rowsPoisoned (operandRows k r.seat w.tsc.toNat false 0 (max m n)) (2 ^ (w.so.toNat / 2)), 5, 2),
          (!z && accPoisoned k w.acc.toNat m (firstSegs (4 * n)), 5, 3)]
        (mmaRun r z w u))) s

def execTmma (sr : SeatRef) (w : MmaWord) (upset : ArrayUpset) (s : State) : Result :=
  .next (seatRun sr (.tmma sr w upset) (mma sr false w upset) s)

def execTmmaZ (sr : SeatRef) (w : MmaWord) (upset : ArrayUpset) (s : State) : Result :=
  .next (seatRun sr (.tmmaZ sr w upset) (mma sr true w upset) s)

-- TCVT (R182 to R185)

/-- R184: output rows and elements per row. -/
def cvtShape (w : CvtWord) : Nat × Nat :=
  let rows := w.rows.toNat + 1
  let cols := w.cols.toNat + 1
  if w.tr then (cols, rows) else (rows, cols)

/-- R179: the shape checks of TCVT. -/
def cvtChecks (k : Coach) (w : CvtWord) : List (Bool × Nat) :=
  let (r, l) := cvtShape w
  groupChecks k w.td.toNat w.g ++
    [(k.grouped w.tsc.toNat, 3), (l % 32 != 0 || decide (1024 < l * fmtBits w.fmt.toNat), 8),
     (decide (128 < w.c0.toNat + w.cols.toNat + 1), 9),
     (decide ((if w.g then 512 else 128) < w.first.toNat + r), 10)]

/-- The segments of an accumulator row that the columns of TCVT lie in. -/
def cvtSegs (w : CvtWord) : Nat := segsTouched 16 (4 * w.c0.toNat) (4 * (w.cols.toNat + 1))

/-- R184: the elements of output row i. -/
def cvtElems (k : Coach) (w : CvtWord) (i : Nat) : List Nat :=
  let (_, l) := cvtShape w
  (List.range l).map fun e =>
    let (row, col) := if w.tr then (e, w.c0.toNat + i) else (i, w.c0.toNat + e)
    elemAt (k.accRow w.acc.toNat row).data.toNat 32 col

/-- R184: writes one output row: scale j and then block j, in ascending j; R151 for the marks of what the row wrote. -/
def putCvtRow (r : SeatRef) (w : CvtWord) (f : Fmt) (i : Nat) (bs : List CvtBlock) (k : Coach) : Coach :=
  let scales := 16 * w.so.toNat + 8 * b2n w.sh
  let block := 4 * f.width
  let k := bs.zipIdx.foldl (fun k b =>
    let k := k.putTile r.seat w.tsc.toNat false i fun t => t.poke (scales + b.2) 1 b.1.scale
    k.putTile r.seat w.td.toNat w.g (w.first.toNat + i) fun t => t.poke (block * b.2) block (packElems f.width b.1.codes)) k
  let k := k.putTile r.seat w.tsc.toNat false i fun t => t.wrote scales bs.length
  k.putTile r.seat w.td.toNat w.g (w.first.toNat + i) fun t => t.wrote 0 (block * bs.length)

/-- R185: a tile that a conversion writes is marked full and keeps its other bytes; latches on it go. -/
def Coach.openTile (k : Coach) (seat t : Nat) (g : Bool) : Coach := (k.touchTile seat t g).setFull seat t true

/-- The effect of a TCVT whose checks have passed. -/
def cvtRun (r : SeatRef) (w : CvtWord) (f : Fmt) (s : State) : State :=
  let k := s.coach r.coach
  let x := (s.seat r).rx w.xs
  let p := if w.xs = 0 then 0x3F800000 else x.toNat % 2 ^ 32
  let rows := (List.range (cvtShape w).1).map fun i => cvtRow f p (blocksOf ((cvtElems k w i).map fun e => (e, false)))
  let s := s.updCoach r.coach fun k =>
    let k := (k.openTile r.seat w.tsc.toNat false).openTile r.seat w.td.toNat w.g
    rows.zipIdx.foldl (fun k q => putCvtRow r w f q.2 q.1 k) k
  let s := if w.wen then countBlocks s (bits x.toNat 32 10) rows.flatten else s
  completeBy 8 r (flagNonfinite (rows.any fun bs => bs.any fun b => b.nonf != 0) s)

/-- TCVT (class 0x3E, OP 0b100). -/
def tcvt (r : SeatRef) (w : CvtWord) (s : State) : State :=
  let k := s.coach r.coach
  let f : Option Fmt := if 1 ≤ w.fmt.toNat ∧ w.fmt.toNat ≤ 4 then fmtOfCode w.fmt.toNat else none
  match f with
  | none => illegal r s
  | some f =>
    checked r [(w.rsv != 0 || (w.wen && w.xs = 0), 0, 0)]
      (shaped r (cvtChecks k w)
        (checked r [((s.seat r).rxp w.xs, 5, 0), (accPoisoned k w.acc.toNat (w.rows.toNat + 1) (cvtSegs w), 5, 3)] (cvtRun r w f))) s

def execTcvt (sr : SeatRef) (w : CvtWord) (s : State) : Result := .next (seatRun sr (.tcvt sr w) (tcvt sr w) s)

end Sys2Proof.Machine
end

