-- ==== Sys2Proof/Machine/System.lean ====
section
/-! DEFINITION. System instructions: CRD, CWR and ERET (R60 to R66, R89 to R91, R98, R99, R157, R642), FENCE and TLBINV (R77, R80,
R81, R643), cache maintenance (R264 to R272, R292, R293), CORDSIG and CORDWAIT (R415 to R418), with the meanings of their
commands. -/

namespace Sys2Proof.Machine

-- control registers (R60, R63, R75, R87, R89, R90, R103, R105, R157)

/-- R89, R90: the saved fields of ESTAT and ESTAT2. -/
def estatBits (e : Estat) : Nat :=
  e.cause.toNat + 2 ^ 6 * b2n e.ex + 2 ^ 8 * b2n e.pmask + 2 ^ 9 * levelCode e.pl + 2 ^ 16 * e.prog.toNat + 2 ^ 32 * e.detail.toNat

/-- R89: ESTAT as it reads. -/
def estatWord (t : Seat) : Nat :=
  estatBits t.estat + 2 ^ 7 * b2n t.mask + 2 ^ 11 * levelCode t.level + 2 ^ 48 * t.pend.toNat

/-- R157, R160: TFULL as it reads. -/
def tfullWord (k : Coach) (seat : Nat) : Nat :=
  ((List.range 8).foldl (fun t i => t + b2n (k.full seat i) * 2 ^ i) 0) + 2 ^ 8 * k.grp.toNat

/-- R60: SEATCFG as it reads. -/
def seatcfgWord (r : SeatRef) (t : Seat) : Nat := b2n (!t.classC) + 2 ^ 4 * r.seat.val + 2 ^ 8 * r.coach.val

/-- R63, R64: the value of a control register, and whether every level may read it. -/
def crdValue (r : SeatRef) (num : Nat) (s : State) : Option (Nat × Bool) :=
  let t := s.seat r
  match num with
  | 0x010 => some (t.epc.toNat, false)
  | 0x011 => some (estatWord t, false)
  | 0x012 => some (t.epc2.toNat, false)
  | 0x013 => some (estatBits t.estat2, false)
  | 0x014 => some (t.vbase.toNat, false)
  | 0x020 => some (t.ssp.toNat, true)
  | 0x021 => some (t.ssh.toNat, true)
  | 0x030 => some (tfullWord (s.coach r.coach) r.seat, true)
  | 0x040 => some (seatcfgWord r t, true)
  | 0x041 => some (t.ptroot.toNat, false)
  | _ => none

/-- CRD (R64, R642). -/
def crd (r : SeatRef) (w : SysWord) (s : State) : State :=
  match crdValue r w.num.toNat s with
  | none => illegal r s
  | some (v, u) =>
    checked r [(w.rs1 != 0 || w.rsv != 0 || (!u && (s.seat r).level = .u), 0, 0)]
      (finish r fun t => t.wx w.rd (BitVec.ofNat 64 v)) s

def execCrd (sr : SeatRef) (w : SysWord) (s : State) : Result := .next (seatRun sr (.crd sr w) (crd sr w) s)

/-- R89, R90: the saved fields that a write of ESTAT or ESTAT2 stores. -/
def estatOf (v : Nat) : Estat :=
  ⟨BitVec.ofNat 6 (bits v 0 6), bit v 6, bit v 8, levelOf (bits v 9 2), BitVec.ofNat 16 (bits v 16 16), BitVec.ofNat 8 (bits v 32 8)⟩

/-- R89: a write of ESTAT: the saved fields and MASK are stored, and ones clear pending bits. -/
def writeEstat (v : Nat) (t : Seat) : Seat :=
  let gone : BitVec 16 := BitVec.ofNat 16 (bits v 48 16)
  { t with
    estat := estatOf v, mask := bit v 7, pend := t.pend &&& ~~~gone
    pendDet := t.pendDet.filter fun e => !gone.getLsbD e.1 }

/-- R157, R165: a write of TFULL by a class C seat: zeros release tiles, ones mark them full; latches on a tile written go. -/
def writeTfull (seat : Nat) (v : Nat) (k : Coach) : Coach :=
  if !(k.seat seat).classC then k
  else (List.range 8).foldl (fun k i =>
    if bit v i then (k.setFull seat i true).touchTile seat i (k.grouped i) else k.release seat i) k

/-- R64: the levels that may write a control register: none, M alone, or S and M. -/
def cwrLevel (num : Nat) : Option Level :=
  match num with
  | 0x010 => some .s
  | 0x011 => some .s
  | 0x012 => some .m
  | 0x013 => some .m
  | 0x014 => some .s
  | 0x020 => some .s
  | 0x021 => some .s
  | 0x030 => some .s
  | 0x040 => some .s
  | 0x041 => some .s
  | _ => none

/-- Stores a value in a control register; bits that the register reserves are ignored. -/
def cwrStore (r : SeatRef) (num v : Nat) (s : State) : State :=
  match num with
  | 0x010 => s.updSeat r fun t => { t with epc := BitVec.ofNat 64 v }
  | 0x011 => s.updSeat r (writeEstat v)
  | 0x012 => s.updSeat r fun t => { t with epc2 := BitVec.ofNat 64 v }
  | 0x013 => s.updSeat r fun t => { t with estat2 := estatOf v }
  | 0x014 => s.updSeat r fun t => { t with vbase := BitVec.ofNat 64 (v / 4096 * 4096) }
  | 0x020 => s.updSeat r fun t => { t with ssp := BitVec.ofNat 64 v }
  | 0x021 => s.updSeat r fun t => { t with ssh := BitVec.ofNat 64 (v / 16 * 16) }
  | 0x030 => s.updCoach r.coach (writeTfull r.seat v)
  | 0x040 => s.updSeat r fun t => { t with classC := !bit v 0 }
  | _ => s.updSeat r fun t => { t with ptroot := BitVec.ofNat 64 (v % 2 ^ 51) }

/-- R91: a value that a write of ESTAT or ESTAT2 may not carry. -/
def cwrBad (num v : Nat) : Bool := (num = 0x011 || num = 0x013) && bits v 9 2 = 2

/-- A CWR of a register number from X[rs1] (R64, R91, R642). -/
def cwrTo (r : SeatRef) (num : Nat) (rs1 : RegNo) (bad : Bool) (s : State) : State :=
  let t := s.seat r
  let allowed : Bool := match cwrLevel num with
    | none => false
    | some .m => t.level = .m
    | some _ => t.level != .u
  checked r [(bad || !allowed, 0, 0), (t.poisoned [rs1], 5, 0), (cwrBad num (t.rx rs1).toNat, 0, 0)]
    (fun s => complete r (cwrStore r num (t.rx rs1).toNat s)) s

def execCwr (sr : SeatRef) (w : SysWord) (s : State) : Result :=
  .next (seatRun sr (.cwr sr w) (cwrTo sr w.num.toNat w.rs1 (w.rd != 0 || w.rsv != 0)) s)

/-- CWR_SEATCFG (R60, R61): serialising; the seat has no queued entry when it issues. -/
def execCwrSeatcfg (sr : SeatRef) (rs1 : RegNo) (s : State) : Result := .next (seatRun sr (.cwrSeatcfg sr rs1) (cwrTo sr 0x040 rs1 false) s)

/-- CWR_TFULL (R157, R160). -/
def execCwrTfull (sr : SeatRef) (rs1 : RegNo) (s : State) : Result := .next (seatRun sr (.cwrTfull sr rs1) (cwrTo sr 0x030 rs1 false) s)

/-- CWR_PTROOT (R75, R76): translation caches keep their entries. -/
def execCwrPtroot (sr : SeatRef) (rs1 : RegNo) (s : State) : Result := .next (seatRun sr (.cwrPtroot sr rs1) (cwrTo sr 0x041 rs1 false) s)

/-- R98: what ERET restores from a pair. -/
def eretFrom (pc : Word) (e : Estat) (t : Seat) : Seat :=
  { t with pc := pc, level := e.pl, mask := e.pmask, resume := e.prog.toNat }

/-- ERET (R98, R99). -/
def eret (r : SeatRef) (w : SysWord) (s : State) : State :=
  let t := s.seat r
  let e := if t.estat2.ex then t.estat2 else t.estat
  checked r [(t.level = .u || w.rd != 0 || w.rs1 != 0 || w.num != 0 || w.rsv != 0, 0, 0),
      (levelCode t.level < levelCode e.pl, 0, 0)]
    (fun s => s.updSeat r fun t =>
      if t.estat2.ex then { eretFrom t.epc2 t.estat2 t with estat2 := { t.estat2 with ex := false } }
      else { eretFrom t.epc t.estat t with estat := { t.estat with ex := false } }) s

def execEret (sr : SeatRef) (w : SysWord) (s : State) : Result := .next (seatRun sr (.eret sr w) (eret sr w) s)

-- FENCE and TLBINV (R77, R80, R81, R643)

/-- R80, R81, R284: what a fence of module or system scope does: the seat's adds are applied and the coach's caches are emptied. -/
def fenceModule (r : SeatRef) (s : State) : State := flushCoach r.coach (waitAdds (fun a => a.sr = r) r.coach s)

/-- FENCE: a seat whose remote stores are not all acknowledged stalls at a module or system scope (R398). -/
def fence (r : SeatRef) (w : FenceWord) (s : State) : State :=
  checked r [(w.rd != 0 || w.rs1 != 0 || w.rs2 != 0 || w.rsv != 0 || w.kinds = 0 || w.scope = 3, 0, 0)]
    (fun s =>
      if w.scope != 0 && (s.seat r).remSt != 0 then s
      else
        let s := if w.scope = 0 then s else fenceModule r s
        let s := if w.kinds.getLsbD 2 then s.updCoach r.coach fun k => { k with l1i := [] } else s
        complete r s) s

def execFence (sr : SeatRef) (w : FenceWord) (s : State) : Result := .next (seatRun sr (.fence sr w) (fence sr w) s)

/-- TLBINV (R77, R643). -/
def tlbinv (r : SeatRef) (w : TlbWord) (s : State) : State :=
  let t := s.seat r
  let bad := t.level = .u || w.form = 3 || 1 < w.scope.toNat || w.rd != 0 || w.rsv != 0 ||
    (w.form != 0 && w.rs1 != 0) || (w.form = 2 && w.rs2 != 0)
  checked r [(bad, 0, 0), (t.poisoned [w.rs1, w.rs2], 5, 0)]
    (fun s =>
      let drop := tlbDrop w.form.toNat (t.rx w.rs1).toNat ((t.rx w.rs2).truncate 12)
      complete r (if w.scope = 0 then s.updCoach r.coach drop
        else (List.range 96).foldl (fun s c => s.updCoach c drop) s)) s

def execTlbinv (sr : SeatRef) (w : TlbWord) (s : State) : Result := .next (seatRun sr (.tlbinv sr w) (tlbinv sr w) s)

-- cache maintenance (R264 to R272, R292, R293)

/-- The maintenance operations. -/
inductive MaintOp where | clean | inval | clinv | dead
  deriving DecidableEq, Repr

/-- R265: a clean of a line in the coach: its entry drains, a dirty copy is written back, and the copy stays. -/
def cleanCopy (c tag : Nat) (host : Bool) (s : State) : State :=
  let s := drainLine c tag host (fillLine c tag host s)
  match (s.coach c).copyOf tag host with
  | some l => backLine (s.updCoach c fun k => k.mapCopy tag host fun l => { l with dirty := false }) l
  | none => s

/-- R265, R270: the line's entry and every copy are discarded. -/
def discardCopy (c tag : Nat) (host : Bool) (s : State) : State :=
  s.updCoach c fun k => { k.dropCopy tag host with
    mbuf := k.mbuf.filter fun e => !ofEntry tag host e
    fills := k.fills.filter fun e => !ofEntry tag host e }

/-- R265, R293: a dirty LLC line is written to memory and stays. -/
def llcClean (line : Nat) (s : State) : State :=
  match llcLine s line with
  | some l => if l.dirty then putLine (writeBack s line l) line (some { l with dirty := false }) else s
  | none => s

def llcDiscard (line : Nat) (s : State) : State := putLine s line none

/-- R272: the newest bytes of a line: of the buffer, a fill, a copy, the LLC, or memory. -/
def newestLine (c tag : Nat) (s : State) : BitVec 1024 × State :=
  let k := s.coach c
  let under (e : Option MEntry) (d : BitVec 1024) : BitVec 1024 :=
    match e with
    | some e => BitVec.ofNat 1024 (blend 128 e.mask.toNat d.toNat e.data.toNat)
    | none => d
  let (d, s) : BitVec 1024 × State := match k.copyOf tag false with
    | some l => (l.data, s)
    | none => let (v, t) := llcRead s tag false; (v.1, t)
  (under (k.mbuf.find? (ofEntry tag false)) (under (k.fills.find? (ofEntry tag false)) d), s)

/-- R292: maintenance of a line waits for the adds that its slice queue holds. -/
def settleQueue (line : Nat) (s : State) : State := waitPinned line (s.llc.adds.length + 1) s

/-- R272: the line is written to memory as dead-marked codewords. -/
def deadLine (tag : Nat) (d : BitVec 1024) (s : State) : State :=
  (List.range 4).foldl (fun t i => memWriteSeg t (4 * tag + i) ⟨BitVec.ofNat 256 (bits d.toNat (256 * i) 256), false, true⟩)
    (settle s tag)

/-- R265, R268 to R272, R292: a maintenance operation on a line of module memory or of host memory.  The seat's earlier adds to the
line come before it; one that reaches the LLC waits for the line's queued adds. -/
def maintLine (op : MaintOp) (r : SeatRef) (host poc : Bool) (tag : Nat) (s : State) : State :=
  let c := r.coach.val
  let s := if host then s else waitAdds (fun a => a.sr = r && a.pa / 128 = tag) c s
  let s := if host || !(poc || op = .dead) then s else settleQueue tag s
  let llc (f : State → State) (s : State) : State := if host || !poc then s else f s
  match op with
  | .clean => llc (llcClean tag) (cleanCopy c tag host s)
  | .inval => llc (llcDiscard tag) (discardCopy c tag host s)
  | .clinv => llc (fun s => llcDiscard tag (llcClean tag s)) (discardCopy c tag host (cleanCopy c tag host s))
  | .dead =>
    if host then discardCopy c tag host s
    else if s.expert 3 then
      let (d, s) := newestLine c tag s
      deadLine tag d (llcDiscard tag (discardCopy c tag host s))
    else llcDiscard tag (discardCopy c tag host s)

/-- R266: a by-address form needs load permission for CCLEAN and store permission otherwise; uncached pages are not acted on. -/
def maintAddr (op : MaintOp) (r : SeatRef) (poc : Bool) (va : Nat) (s : State) : State :=
  match translate r (if op = .clean then .load else .store) va s with
  | (.exc c d, t) => raiseSync r c d 0 t
  | (.ok p, t) => complete r (if p.cached then maintLine op r (p.space = .host) poc (p.pa / 128) t else t)

/-- R267: a .SW operation on a line of the coach's data caches. -/
def swCopy (op : MaintOp) (c way : Nat) (s : State) : State :=
  let k := s.coach c
  match (if way < 48 then k.l1.find? fun l => l.way = way else k.victim.find? fun l => l.way = way - 48) with
  | none => s
  | some l =>
    let s := if op = .inval then s else backLine s l
    s.updCoach c fun k =>
      if op = .clean then k.mapCopy l.tag l.host fun l => { l with dirty := false } else k.dropCopy l.tag l.host

/-- R267, R293: a .SW operation on a way of the LLC; a pinned way is waited for. -/
def swLlc (op : MaintOp) (slice set way : Nat) (s : State) : State :=
  let hit (s : State) : Option Nat := (s.llc.lines.find? fun e =>
    sliceOf e.1 = slice && setOfLine e.1 = set && (e.2.any fun l => l.way = way)).map (·.1)
  match hit s with
  | none => s
  | some line =>
    let s := settleQueue line s
    let s := if op = .inval then s else llcClean line s
    if op = .clean then s else llcDiscard line s

/-- R267: the operand of a .SW form is in range. -/
def swOk (v : Nat) : Bool :=
  let level := bits v 0 2
  let way := bits v 2 6
  let set := bits v 8 10
  v / 2 ^ 24 = 0 && level != 3 &&
  (if level = 0 then way < 56 && set = 0 && bits v 18 6 = 0
   else if level = 1 then way < 4 && set < 128 && bits v 18 6 = 0
   else way < 16)

/-- R267: a .SW form. -/
def maintSw (op : MaintOp) (r : SeatRef) (v : Nat) (s : State) : State :=
  let way := bits v 2 6
  let set := bits v 8 10
  complete r (match bits v 0 2 with
    | 0 => swCopy op r.coach way s
    | 1 => s.updCoach r.coach fun k => { k with l1i := k.l1i.filter fun l => !(l.tag % 128 = set && l.way = way) }
    | _ => swLlc op (bits v 18 6) set way s)

/-- CCLEAN, CINVAL, CCLINV and CDEAD (R264 to R267); POC has no meaning in a .SW form. -/
def maint (op : MaintOp) (r : SeatRef) (w : MaintWord) (s : State) : State :=
  let t := s.seat r
  let bad := w.rd != 0 || w.rs2 != 0 || w.rsv != 0 || (w.sw && (op = .dead || t.level = .u))
  checked r [(bad, 0, 0), (t.poisoned [w.rs1], 5, 0), (w.sw && !swOk (t.rx w.rs1).toNat, 0, 0)]
    (fun s => if w.sw then maintSw op r (t.rx w.rs1).toNat s else maintAddr op r w.poc (t.rx w.rs1).toNat s) s

def execCclean (sr : SeatRef) (w : MaintWord) (s : State) : Result := .next (seatRun sr (.cclean sr w) (maint .clean sr w) s)
def execCinval (sr : SeatRef) (w : MaintWord) (s : State) : Result := .next (seatRun sr (.cinval sr w) (maint .inval sr w) s)
def execCclinv (sr : SeatRef) (w : MaintWord) (s : State) : Result := .next (seatRun sr (.cclinv sr w) (maint .clinv sr w) s)
def execCdead (sr : SeatRef) (w : MaintWord) (s : State) : Result := .next (seatRun sr (.cdead sr w) (maint .dead sr w) s)

-- CORDSIG and CORDWAIT (R415 to R418)

/-- R418: a register operand that names no semaphore, or no channel that software may use. -/
def cordBad (s : State) (b : Bool) (v : Nat) : Bool :=
  if b then 64 ≤ v || 62 ≤ v || (s.chan v).locArr = 0 else 4096 ≤ v

/-- CORDSIG (R416, R417): a release, then the semaphore's addition or one arrival. -/
def cordsig (r : SeatRef) (w : CordWord) (s : State) : State :=
  let t := s.seat r
  let v := (t.rx w.rs1).toNat
  checked r [(w.rsv != 0 || w.nb || (w.b && w.rs2 != 0), 0, 0), (t.poisoned [w.rs1, w.rs2], 5, 0), (cordBad s w.b v, 0, 0)]
    (fun s =>
      if t.remSt != 0 then s
      else
        let s := fenceModule r s
        if w.b then
          let q := (s.chan v).localPhase
          finish r (fun t => t.wx w.rd (q.setWidth 64)) (arrive s v)
        else
          let u := s.semAdd v ((t.rx w.rs2).truncate 32)
          finish r (fun t => t.wx w.rd ((s.sem v).value + (t.rx w.rs2).truncate 32 |>.setWidth 64)) u) s

def execCordsig (sr : SeatRef) (w : CordWord) (s : State) : Result := .next (seatRun sr (.cordsig sr w) (cordsig sr w) s)

/-- R411, R416: whether a semaphore or channel has reached a target. -/
def cordReached (s : State) (b : Bool) (i : Nat) (t : BitVec 32) : Bool :=
  reached (if b then (s.chan i).phase else (s.sem i).value) t

/-- CORDWAIT (R416). -/
def cordwait (r : SeatRef) (w : CordWord) (s : State) : State :=
  let t := s.seat r
  let v := (t.rx w.rs1).toNat
  let target : BitVec 32 := (t.rx w.rs2).truncate 32
  checked r [(w.rsv != 0, 0, 0), (t.poisoned [w.rs1, w.rs2], 5, 0), (cordBad s w.b v, 0, 0)]
    (fun s =>
      let hit := cordReached s w.b v target
      if w.nb then finish r (fun t => t.wx w.rd (ofBool64 hit)) (if hit then acquireCoach r.coach s else s)
      else if hit then complete r (acquireCoach r.coach s)
      else s.updSeat r fun t => { t with wait := .cord w.b v target }) s

def execCordwait (sr : SeatRef) (w : CordWord) (s : State) : Result := .next (seatRun sr (.cordwait sr w) (cordwait sr w) s)

/-- CORDWAIT_SATISFIED: the target of a waiting CORDWAIT is reached: acquire, and the seat goes on (R416). -/
def cordSatisfied (r : SeatRef) (s : State) : State :=
  match (s.seat r).wait with
  | .cord b i t =>
    if coachRuns s r.coach && cordReached s b i t then
      complete r ((acquireCoach r.coach s).updSeat r fun t => { t with wait := .none })
    else s
  | _ => s

def execCordwaitSatisfied (sr : SeatRef) (s : State) : Result := .next (cordSatisfied sr s)

end Sys2Proof.Machine
end

