-- ==== Sys2Proof/Machine/Wake.lean ====
section
/-! DEFINITION. The vector queue runs (R59, R121, R159, R228), with the meaning of its command, and the meanings of the commands that end
a step, before which it runs. -/

namespace Sys2Proof.Machine

/-- Runs a queued vector instruction. -/
def vecRun (i : Instr) (s : State) : State :=
  match i with
  | .vecIntOp r op w => vecIntOp r op w s
  | .vecFpOp r op w => vecFpOp r op w s
  | .vecFma r w => vecFma r w s
  | .vecCompare r op w => vecCompare r op w s
  | .vcvt r a b w => vcvt r a b w s
  | .vecPermute r op w => vecPermute r op w s
  | .vbx r w => vbx r w s
  | .vecReduction r op w => vecReduction r op w s
  | .vmov r f w => vmov r f w s
  | .scalarFpOp r op w => scalarFpOp r op w s
  | .vld r w => vld r w s
  | .vldff r w => vldff r w s
  | .vst r w => vst r w s
  | .vgath r w l => gather r false w (l.map (·.val)) s
  | .vgathff r w l => gather r true w (l.map (·.val)) s
  | .vscat r w l => scatter r w (l.map (·.val)) s
  | .vlut r w => vlut r w s
  | .vransSingle r w => vransSingle r w s
  | .vransBlock r w l => vransBlock r w (l.map (·.toNat)) s
  | _ => s

/-- R59, R121: the queue of a coach is dispatched in its order: entries that wait for their fault point run, and then a TGRP that
waited for an entry goes on (R159). -/
def dispatchQueue (c : Fin 96) (s : State) : State :=
  let q := (s.coach c).vq
  let t := s.updCoach c fun k => { k with vq := [], waking := false, gated := false, idle := 0 }
  tgrpResume c (q.foldl (fun t e => if e.ran || (t.coach c).stopped != none then t else vecRun e.instr t) t)

/-- VECTOR_WAKE_COMPLETE (R121): dispatch begins. -/
def execVectorWakeComplete (c : Fin 96) (s : State) : Result := .next (if (s.coach c).waking then dispatchQueue c s else s)

/-- R228: a contribution belongs to the step in which its store issued: the queues are dispatched before a step ends (row 16 of the
log). -/
def dispatchQueues (s : State) : State :=
  s.coaches.foldl (fun t e => if (t.coach e.1).vq = [] then t else dispatchQueue (coachFin e.1) t) s

def execCommitResult (s : State) : Result := .next (if decided s false then stepEnd (dispatchQueues s) true else s)
def execSkipResult (s : State) : Result := .next (if decided s true then stepEnd (dispatchQueues s) false else s)

end Sys2Proof.Machine
end

