-- ==== Sys2Proof/Machine/Issue.lean ====
section
/-! DEFINITION. Instruction words (R67 to R69, R115, R116, R132, R143, R154, R158, R170, R182, R264, R281, R415, R639 to R643),
fetching through the L1 instruction cache (R250, R252), and the issue beat of a coach (R56 to R59, R51). -/

namespace Sys2Proof.Machine

-- words

/-- A field of a word as a bit vector. -/
def fld (w : Nat) (lo n : Nat) : BitVec n := BitVec.ofNat n (bits w lo n)

/-- The fields of a vector word (R115). -/
def vecWord (w : Nat) : VecWord := ⟨fld w 0 5, fld w 5 5, fld w 10 5, fld w 15 4, bit w 19, fld w 20 2⟩

/-- The class of a word (R68). -/
def wordClass (w : Nat) : Nat := bits w 26 6

/-- R640: the immediate forms. -/
def immOfClass (c : Nat) : Option ImmOp :=
  match c with
  | 0x01 => some .addi
  | 0x02 => some .andi
  | 0x03 => some .ori
  | 0x04 => some .xori
  | 0x05 => some .slli
  | 0x06 => some .srli
  | 0x07 => some .srai
  | 0x08 => some .slti
  | 0x09 => some .sltui
  | 0x0A => some .shiftin
  | 0x0B => some .addpc
  | _ => none

/-- R641: the register forms of a branch. -/
def decodeRegBranch (r : SeatRef) (w : Nat) : Option Instr :=
  let rd := fld w 0 5
  let rs1 := fld w 5 5
  let rs2 := fld w 10 5
  match bits w 15 11 with
  | 0 => some (.jr r rd rs1 rs2)
  | 1 => some (.callr r rd rs1 rs2)
  | 2 => some (.ret r rd rs1 rs2)
  | _ => none

/-- R642: class 0x1C. -/
def decodeSystem (r : SeatRef) (w : Nat) : Option Instr :=
  let x : SysWord := ⟨fld w 0 5, fld w 5 5, fld w 10 12, fld w 25 1⟩
  match bits w 22 3 with
  | 0 => some (.crd r x)
  | 1 => some (.cwr r x)
  | 2 => some (.eret r x)
  | 3 => some (.sspsetSwitch r x)
  | 4 => some (.sspsetUnwind r x)
  | _ => none

/-- R264: class 0x1D. -/
def decodeMaint (r : SeatRef) (w : Nat) : Instr :=
  let x : MaintWord := ⟨fld w 0 5, fld w 5 5, fld w 10 5, bit w 17, bit w 18, fld w 19 7⟩
  match bits w 15 2 with
  | 0 => .cclean r x
  | 1 => .cinval r x
  | 2 => .cclinv r x
  | _ => .cdead r x

/-- R643: class 0x1F. -/
def decodeFence (r : SeatRef) (w : Nat) : Instr :=
  if bit w 15 then .tlbinv r ⟨fld w 16 2, fld w 18 2, fld w 20 6, fld w 0 5, fld w 5 5, fld w 10 5⟩
  else .fence r ⟨fld w 16 4, fld w 20 2, fld w 22 4, fld w 0 5, fld w 5 5, fld w 10 5⟩

/-- R415: class 0x1E. -/
def decodeCord (r : SeatRef) (w : Nat) : Instr :=
  let x : CordWord := ⟨fld w 0 5, fld w 5 5, fld w 10 5, bit w 16, bit w 17, fld w 18 8⟩
  if bit w 15 then .cordwait r x else .cordsig r x

/-- R116: the vector classes whose op codes the spec assigns. -/
def decodeVecFixed (r : SeatRef) (w : Nat) : Option Instr :=
  let x := vecWord w
  match wordClass w, bits w 22 4 with
  | 0x26, 3 => some (.vbx r x)
  | 0x28, 0 => some (.vld r x)
  | 0x28, 1 => some (.vldff r x)
  | 0x29, 0 => some (.vgath r x none)
  | 0x29, 1 => some (.vgathff r x none)
  | 0x2A, 0 => some (.vst r x)
  | 0x2A, 1 => some (.vscat r x none)
  | 0x2B, 0 => some (.vlut r x)
  | 0x2B, 1 =>
    let y : RansWord := ⟨fld w 0 5, fld w 5 5, fld w 10 5, fld w 15 3, fld w 18 3⟩
    some (if bit w 21 then .vransBlock r y none else .vransSingle r y)
  | _, _ => none

/-- R116: the other vector classes: the op codes are the part's own (row 8), and a code selects an operation of its class. -/
def decodeVecOpen (r : SeatRef) (w : Nat) : Option Instr :=
  let x := vecWord w
  match wordClass w, Config.vecSel (BitVec.ofNat 32 w) with
  | 0x20, some (.int op) => if op = .mul then none else some (.vecIntOp r op x)
  | 0x21, some (.int op) => if op = .mul then some (.vecIntOp r op x) else none
  | 0x22, some (.fp op) => some (.vecFpOp r op x)
  | 0x23, some .fma => some (.vecFma r x)
  | 0x24, some (.cmp op) => some (.vecCompare r op x)
  | 0x25, some (.cvt a b) => some (.vcvt r a b x)
  | 0x26, some (.perm op) => some (.vecPermute r op x)
  | 0x27, some (.red op) => some (.vecReduction r op x)
  | 0x2C, some (.mov f) => some (.vmov r f x)
  | 0x2D, some (.sfp op) => some (.scalarFpOp r op x)
  | _, _ => none

/-- R143, R144, R170, R172, R182, R183: class 0x3E with its second word. -/
def decodeTile (r : SeatRef) (w v : Nat) : Option Instr :=
  let tile : TileWord := ⟨fld w 0 3, bit w 3, bit w 4, fld w 5 5, fld w 10 5, fld w 18 3, bit w 21, fld v 0 9, fld v 9 9, fld v 18 3,
    fld v 21 10, BitVec.ofNat 5 (bits w 22 4 + 16 * bits v 31 1)⟩
  let mma : MmaWord := ⟨fld w 0 3, bit w 3, fld w 4 3, bit w 7, fld w 8 2, fld w 10 3, fld w 18 3, bit w 21, fld w 23 3, fld v 0 7,
    fld v 7 9, fld v 16 7, fld v 23 4, fld v 27 4, BitVec.ofNat 4 (bits w 13 2 + 4 * bits w 22 1 + 8 * bits v 31 1)⟩
  let cvt : CvtWord := ⟨fld w 0 3, bit w 3, bit w 4, fld w 5 5, fld w 10 2, fld w 12 3, fld w 18 3, bit w 21, bit w 22, fld w 23 3,
    fld v 0 7, fld v 7 7, fld v 14 7, fld v 21 9, fld v 30 2⟩
  match bits w 15 3 with
  | 0 => some (.tld r tile none)
  | 1 => some (.tst r tile none)
  | 2 => some (.tmma r mma ⟨[], [], [], []⟩)
  | 3 => some (.tmmaZ r mma ⟨[], [], [], []⟩)
  | 4 => some (.tcvt r cvt)
  | _ => none

/-- R69: the instruction that a word spells, with its second word; none is an illegal instruction. -/
def decodeWord (r : SeatRef) (w v : Nat) : Option Instr :=
  let c := wordClass w
  let rd := fld w 0 5
  let rs1 := fld w 5 5
  let rs2 := fld w 10 5
  if c = 0x00 then some (.scalarIntRegOp r (fld w 15 11) rd rs1 rs2)
  else if c < 0x10 then (immOfClass c).map fun op => .scalarIntImmOp r op rd rs1 (fld w 10 16)
  else if c = 0x10 || c = 0x11 then some (.scalarLoad r (c = 0x10) (fld w 10 2) (fld w 12 14) rd rs1)
  else if c = 0x12 then some (.scalarStore r (fld w 10 2) (fld w 12 14) rd rs1)
  else if c = 0x13 then some (.fpLoad r (fld w 10 2) (fld w 12 14) rd rs1)
  else if c = 0x14 then some (.fpStore r (fld w 10 2) (fld w 12 14) rd rs1)
  else if c = 0x17 then some (.ladd r rd rs1 rs2 (fld w 15 3) (fld w 18 8))
  else if c = 0x18 then some (.branchCond r rd rs1 (fld w 10 16))
  else if c = 0x19 then some (.jump r (fld w 0 26))
  else if c = 0x1A then some (.call r (fld w 0 26))
  else if c = 0x1B then decodeRegBranch r w
  else if c = 0x1C then decodeSystem r w
  else if c = 0x1D then some (decodeMaint r w)
  else if c = 0x1E then some (decodeCord r w)
  else if c = 0x1F then some (decodeFence r w)
  else if 0x20 ≤ c && c < 0x30 then
    match decodeVecFixed r w with
    | some i => some i
    | none => decodeVecOpen r w
  else if c = 0x30 then some (.trel r (fld w 0 3) (bit w 3) (fld w 4 22))
  else if c = 0x31 then some (.tgrp r (fld w 0 3) (bit w 3) (fld w 4 22))
  else if c = 0x3E then decodeTile r w v
  else none

-- running one instruction of a seat

/-- R58, R121: a vector instruction enters the queue of gated pipes, and runs at once otherwise. -/
def vecEnter (r : SeatRef) (i : Instr) (s : State) : State := vecBegin r i (vecRun i) s

/-- The effect of a seat's instruction. -/
def instrRun (i : Instr) (s : State) : State :=
  match i with
  | .scalarIntRegOp r fn rd rs1 rs2 => intReg r fn rd rs1 rs2 s
  | .scalarIntImmOp r op rd rs1 imm => intImm r op rd rs1 imm s
  | .scalarLoad r sg sz off rd rs1 => scalarLoad r sg sz off rd rs1 s
  | .scalarStore r sz off rd rs1 => scalarStore r sz off rd rs1 s
  | .fpLoad r sz off rd rs1 => fpLoad r sz off rd rs1 s
  | .fpStore r sz off rd rs1 => fpStore r sz off rd rs1 s
  | .ladd r rd rs1 rs2 ty rsv => ladd r rd rs1 rs2 ty rsv s
  | .branchCond r c rs1 off => branchCond r c rs1 off s
  | .jump r off => jump r off s
  | .jr r rd rs1 rs2 => jr r rd rs1 rs2 s
  | .call r off => call r off s
  | .callr r rd rs1 rs2 => callr r rd rs1 rs2 s
  | .ret r rd rs1 rs2 => ret r rd rs1 rs2 s
  | .crd r w => crd r w s
  | .cwr r w => cwrTo r w.num.toNat w.rs1 (w.rd != 0 || w.rsv != 0) s
  | .eret r w => eret r w s
  | .sspsetSwitch r w => sspSwitch r w s
  | .sspsetUnwind r w => sspUnwind r w s
  | .fence r w => fence r w s
  | .tlbinv r w => tlbinv r w s
  | .cclean r w => maint .clean r w s
  | .cinval r w => maint .inval r w s
  | .cclinv r w => maint .clinv r w s
  | .cdead r w => maint .dead r w s
  | .cordsig r w => cordsig r w s
  | .cordwait r w => cordwait r w s
  | .tld r w _ => tileMove r w true none s
  | .tst r w _ => tileMove r w false none s
  | .trel r t g rsv => trel r t g rsv s
  | .tgrp r t on rsv => tgrp r t on rsv s
  | .tmma r w u => mma r false w u s
  | .tmmaZ r w u => mma r true w u s
  | .tcvt r w => tcvt r w s
  | .vecIntOp r _ _ => vecEnter r i s
  | .vecFpOp r _ _ => vecEnter r i s
  | .vecFma r _ => vecEnter r i s
  | .vecCompare r _ _ => vecEnter r i s
  | .vcvt r _ _ _ => vecEnter r i s
  | .vecPermute r _ _ => vecEnter r i s
  | .vbx r _ => vecEnter r i s
  | .vecReduction r _ _ => vecEnter r i s
  | .vmov r _ _ => vecEnter r i s
  | .scalarFpOp r _ _ => vecEnter r i s
  | .vld r _ => vecEnter r i s
  | .vldff r _ => vecEnter r i s
  | .vst r _ => vecEnter r i s
  | .vgath r _ _ => vecEnter r i s
  | .vgathff r _ _ => vecEnter r i s
  | .vscat r _ _ => vecEnter r i s
  | .vlut r _ => vecEnter r i s
  | .vransSingle r _ => vecEnter r i s
  | .vransBlock r _ _ => vecEnter r i s
  | _ => s

-- fetching (R65, R70, R250, R252)

/-- What a fetch brings: a word, or the exception that it raises: cause and DETAIL. -/
inductive Fetched where
  | word (w : Nat)
  | exc (cause detail : Nat)
  deriving DecidableEq, Repr

def ofILine (tag : Nat) (host : Bool) (l : ILine) : Bool := l.tag = tag && l.host = host

/-- R250: a line enters its set of four ways; the least recently used of the set makes room. -/
def insertI (l : ILine) (ls : List ILine) : List ILine :=
  let inSet := ls.filter fun x => x.tag % 128 = l.tag % 128
  let left := if 4 ≤ inSet.length then (match inSet.getLast? with
    | some o => ls.erase o
    | none => ls) else ls
  let way := ((List.range 4).find? fun w => !(left.any fun x => x.tag % 128 = l.tag % 128 && x.way = w)).getD 0
  { l with way := way } :: left

/-- R252: a line of the L1 instruction cache, filled through the LLC on a miss; an instruction fetch allocates no LLC line (R277). -/
def fetchILine (c tag : Nat) (host : Bool) (s : State) : ILine × State :=
  match (s.coach c).l1i.find? (ofILine tag host) with
  | some l => (l, s.updCoach c fun k => { k with l1i := l :: k.l1i.erase l })
  | none =>
    let (v, t) := fetchLine s tag host false
    let l : ILine := ⟨tag, host, 0, v.1, v.2.1⟩
    (l, t.updCoach c fun k => { k with l1i := insertI l k.l1i })

/-- A word at a virtual address.  A page fault of the second word sets bit 0 of DETAIL (R88), but at M, where DETAIL is 4 (R638); an
address that is not a multiple of 4 is a misaligned access (row 27 of the log). -/
def fetchWord (r : SeatRef) (va : Nat) (second : Bool) (s : State) : Fetched × State :=
  if va % 4 != 0 then (.exc 4 0, s)
  else
    match translate r .fetch va s with
    | (.exc c d, t) => (.exc c (if c = 1 && d != 4 then d + b2n second else d), t)
    | (.ok p, t) =>
      let tag := p.pa / 128
      let off := p.pa % 128
      let (d, q, t) :=
        if p.cached then
          let (l, u) := fetchILine r.coach tag (decide (p.space = .host)) t
          (l.data, l.poison, u)
        else
          let (v, u) := llcRead t tag false
          (v.1, v.2.1, u)
      if q.getLsbD (off / 32) then (.exc 6 0, t) else (.word (bits d.toNat (8 * off) 32), t)

/-- The instruction at a seat's pc: its word and second word (R67, R70). -/
def fetchInstr (r : SeatRef) (s : State) : (Fetched × Nat) × State :=
  let pc := (s.seat r).pc
  match fetchWord r pc.toNat false s with
  | (.exc c d, t) => ((.exc c d, 0), t)
  | (.word w, t) =>
    if wordClass w != 0x3E then ((.word w, 0), t)
    else
      match fetchWord r (pc + 4).toNat true t with
      | (.exc c d, u) => ((.exc c d, 0), u)
      | (.word v, u) => ((.word w, v), u)

-- the beat (R51, R56, R57)

/-- The kinds of instruction that R57 tells apart. -/
inductive IssueKind where | int | mem | branch | queued | other
  deriving DecidableEq, Repr

def issueKind (w : Nat) : IssueKind :=
  let c := wordClass w
  if c < 0x10 then .int
  else if c < 0x18 then .mem
  else if c < 0x1C then .branch
  else if c < 0x20 then .other
  else .queued

/-- R57: whether a second instruction pairs with a first. -/
def mayPair (a b : IssueKind) : Bool :=
  match a, b with
  | .branch, _ => false
  | _, .branch => true
  | .queued, .queued => false
  | .queued, _ => true
  | _, .queued => true
  | .int, .int => true
  | .int, .mem => true
  | .mem, .int => true
  | _, _ => false

/-- R120: the vector queue holds an entry, or a vector instruction of a seat is under way: a VLD that waits for its partner. -/
def vecBusy (k : Coach) : Bool :=
  k.vq != [] || (List.range 4).any fun i => match (k.seat i).wait with
    | .remote (.vec _ _ _ _ _) => true
    | _ => false

/-- R51, R120: a beat is counted. -/
def countBeat (c : Nat) (s : State) : State :=
  let us := s.time.ns / 1000
  (s.updCoach c fun k => { k with
    now := k.now + 1
    idle := if vecBusy k then 0 else if k.gated || k.waking then k.idle else k.idle + 1
    rate := if us = k.us then k.rate else if us = k.us + 1 then min k.usBeats 0xFFFF else 0
    usBeats := if us = k.us then k.usBeats + 1 else 1
    us := us }).bump (.paceMeter (coachFin c))

/-- The instruction at a seat's pc, when a fetch brings one. -/
def nextInstr (r : SeatRef) (s : State) : Option Instr :=
  match (fetchInstr r s).1 with
  | (.word w, v) => decodeWord r w v
  | _ => none

/-- R56: an instruction that would stall now, and leave its seat as it is (R81, R285, R398). -/
def stalls (r : SeatRef) (i : Instr) (s : State) : Bool :=
  let stays : Bool := let t := instrRun i s; t.seat r = s.seat r && undisturbed r s t
  match i with
  | .fence _ _ => stays
  | .cordsig _ _ => stays
  | .ladd _ _ _ _ _ _ => stays
  | _ => false

/-- R56: a seat is ready: it may issue, and nothing holds or stalls the instruction at its pc. -/
def ready (s : State) (r : SeatRef) : Bool :=
  canIssue s r && match nextInstr r s with
    | some i => !held s r i && !stalls r i s
    | none => true

/-- R56: the seat of a beat: the first ready one after the seat that issued last. -/
def pickSeat (s : State) (c : Fin 96) : Option (Fin 4) :=
  ((List.range 4).map fun i => seatFin ((s.coach c).rr.val + 1 + i)).find? fun t => ready s ⟨c, t⟩

/-- Runs a fetched instruction of a seat.  A fetch exception keeps the count of a resumed instruction (R96). -/
def runFetched (r : SeatRef) (f : Fetched × Nat) (s : State) : State :=
  match f.1 with
  | .exc c d => raiseSync r c d (s.seat r).resume s
  | .word w =>
    match decodeWord r w f.2 with
    | some i => instrRun i s
    | none => illegal r s

/-- R57: the second instruction of a beat: it follows the first without a break, pairs with it, and its word is there. -/
def runSecond (r : SeatRef) (w : Nat) (next : Word) (s : State) : State :=
  if (s.seat r).pc != next || !ready s r then s
  else
    match fetchInstr r s with
    | ((.word v, x), t) => if mayPair (issueKind w) (issueKind v) then runFetched r (.word v, x) t else s
    | _ => s

/-- R84, R93: the seats of a coach for which an interrupt is due take it. -/
def takeAll (c : Fin 96) (s : State) : State := (List.range 4).foldl (fun s i => takeInterrupt ⟨c, seatFin i⟩ s) s

/-- ISSUE_BEAT: one beat of a coach (R56, R57); interrupts that are due come first (row 28 of the log). -/
def issueBeat (c : Fin 96) (s : State) : State :=
  if !coachRuns s c then s
  else
    let s := takeAll c (countBeat c s)
    match pickSeat s c with
    | none => s
    | some t =>
      let r : SeatRef := ⟨c, t⟩
      let s := s.updCoach c fun k => { k with rr := t }
      let pc := (s.seat r).pc
      let (f, u) := fetchInstr r s
      let v := runFetched r f u
      match f.1 with
      | .word w =>
        if undisturbed r u v then runSecond r w (pc + if wordClass w = 0x3E then 8 else 4) v else v
      | .exc _ _ => v

def execIssueBeat (c : Fin 96) (s : State) : Result := .next (issueBeat c s)

end Sys2Proof.Machine
end

