-- ==== Sys2Proof/Machine/PowerUp.lean ====
section
/-! DEFINITION. Supply and reset: power-on and the rail sequence (R21, R23, R553, R632, R633), HOST_RST_N (R9, R630, R631), the host
link (R515 to R517, R604), the function-level reset (R519, R615), and seating (R620, R623), with the meanings of their commands. -/

namespace Sys2Proof.Machine

-- what a reset leaves (R9)

/-- Checkpoints and Waybill entries outside module memory: flash, partner and store (R483, R493). -/
def keptWay (w : Waybill) : Waybill :=
  { flashRing := w.flashRing, slots := w.slots, unreleased := w.unreleased, withdrawn := w.withdrawn, suspect := w.suspect }

/-- R314: rows that are served from spare rows stay so; every field of the status record takes its Reset value (R317, row 63 of the
log). -/
def keptMem (m : Mem) : Mem := { spares := m.spares, moved := m.moved }

/-- R573, R583, R589, R590, R595: what Thonar keeps without power. -/
def keptMgmt (m : Mgmt) : Mgmt :=
  { creds := m.creds, opKey := m.opKey, cur := m.cur, prev := m.prev, maxNum := m.maxNum, probEnd := m.probEnd
    fw := m.fw.foldl (fun h e => mupd {} h e.1 fun _ => { e.2 with staged := [], stageLen := 0 }) []
    flashBad := m.flashBad, flashRo := m.flashRo }

/-- R54, R552, R554, R597: the rails, their trims, and what sensors sense, through HOST_RST_N. -/
def keptPower (p : Power) : Power :=
  { coreW := p.coreW, coreE := p.coreE, sramW := p.sramW, sramE := p.sramE
    tCoreW := p.tCoreW, tCoreE := p.tCoreE, tSramW := p.tSramW, tSramE := p.tSramE
    changing := p.changing, trimW := p.trimW, trimE := p.trimE, tripAt := p.tripAt, leakLow := p.leakLow }

/-- R361: the bays of an engine stay seated; its units and its ports are brought up again (R377, R378; row 63 of the log). -/
def keptEngine (k : Engine) : Engine := { inA := k.inA, inB := k.inB }

/-- The Reset values of everything but what each reset keeps; `ucode` says which image each coach loads (R584). -/
def resetTo (s : State) (ucode : Nat → Bool) (sys : Sys) (time : Time) (power : Power) (mgmt : Mgmt) : State :=
  let t : State := { State.reset with
    pending := s.pending, fresh := s.fresh, outbox := s.outbox, hostMem := s.hostMem, flash := s.flash
    sys := sys, time := time, power := power, mgmt := mgmt
    engines := s.engines.foldl (fun h e => mupd {} h e.1 fun _ => keptEngine e.2) []
    way := keptWay s.way, mem := keptMem s.mem }
  { t with coaches := (List.range 96).foldl (fun m c => mset {} m c { ucodeB := ucode c }) [] }

/-- R300, R590, R592: the current consist comes into force, with its memory key; one in probation gives way to the previous one. -/
def consistUp (s : State) : State :=
  let t := if s.mgmt.probEnd.isSome then probRevert s 6 else s
  let t := t.updTender fun k => { k with presets := t.consist.presets }
  let t := t.updWay fun w => { w with mtbf := t.consist.mtbf }
  let t := bindFlows (retarget t)
  (t.updMem fun m => { m with key := t.consist.key }).updSys fun y => { y with keyPend := false }

-- images and rails (R21, R553, R632)

/-- R21, R553, R632: the rails that the verified images allow: stacks, then SRAM and core, then engines. -/
def railsUp (s : State) : State :=
  s.updSys fun y =>
    if !y.input || y.tripped || !y.thonar then y
    else
      let mem := if y.imgUcode && y.imgTender && y.imgMem = 0xFF && y.imgDsp = 0xF then 0xFF else y.railMem
      let core := y.railCore || mem = 0xFF
      { y with railMem := mem, railCore := core, railEng := if core then y.railEng ||| y.imgDsp else y.railEng }

/-- No image is verified, and no rail that waits for one is on. -/
def unverified (y : Sys) : Sys :=
  { y with imgUcode := false, imgTender := false, imgMem := 0, imgDsp := 0, railMem := 0, railCore := false, railEng := 0 }

/-- The flag of a verified image is set. -/
def verifyImage (comp : FwComp) (y : Sys) : Sys :=
  match comp with
  | .thonar => { y with thonar := true }
  | .microcode => { y with imgUcode := true }
  | .tender => { y with imgTender := true }
  | .memCtl k => { y with imgMem := y.imgMem ||| ((1 : BitVec 8) <<< k.val) }
  | .dsp e => { y with imgDsp := y.imgDsp ||| ((1 : BitVec 4) <<< e.val) }

/-- IMAGE_VERIFY_COMPLETE: Thonar's ROM verifies Thonar's image, and Thonar the others; the rails follow (R21, R632). -/
def imageVerified (s : State) (comp : FwComp) : State :=
  if !s.sys.input || (comp != .thonar && !s.sys.thonar) then s else railsUp (s.updSys (verifyImage comp))

def execImageVerifyComplete (comp : FwComp) (s : State) : Result := .next (imageVerified s comp)

/-- POWER_ON: the input first reaches 40 V: every field takes its Reset value, and the sequence starts (R9, R23, R540, R632). -/
def powerOn (s : State) : State :=
  if s.sys.input || !s.sys.seated then s
  else
    let y := unverified { State.reset.sys with
      hostRstN := s.sys.hostRstN, haltN := s.sys.haltN, thonar := false
      posMap := s.sys.posMap, mapGen := s.sys.mapGen, active := s.sys.active }
    let t := resetTo s (fun _ => (s.fwOf 2).slotB) y {} { leakLow := s.power.leakLow } (keptMgmt s.mgmt)
    [0, 1, 2, 3].foldl engineOff (consistUp t)

def execPowerOn (s : State) : Result := .next (powerOn s)

-- HOST_RST_N (R9, R576, R615, R630, R631, R633)

/-- HOST_RST_ASSERT: the compute die and the CXL controller are held in reset; sessions close and the mailbox is cleared. -/
def hostAssert (s : State) : State :=
  (boxReset s).updMgmt (fun m => { m with sessions := [] })
    |>.updSys fun y => { y with hostRstN := false, ready := false, cxlUp := false, ideCm := false, ideIo := false }

def execHostRstAssert (s : State) : Result := .next (hostAssert s)

/-- R554, R633: a trip's power-up sequence starts again, unless it was for a leak (R566) or the input is gone. -/
def restartRails (y : Sys) : Sys :=
  if y.tripped && !y.leakTrip && y.input then { unverified y with tripped := false } else y

/-- HOST_RST_DEASSERT: every field takes its Reset value but those of the time window, Thonar's and the rails' (R9, R542, R631). -/
def hostDeassert (s : State) : State :=
  if s.sys.hostRstN then s
  else
    let y := restartRails { s.sys with
      hostRstN := true, ready := false, keyPend := false, rate := 0, width := 0, geomWr := {}, linkDown := false }
    let time := { s.time with tods := s.time.tods.filter fun d => d.ring.isNone }
    let t := resetTo s (fun c => (s.coach c).ucodeB) y time (keptPower s.power) { s.mgmt with ien := false, vec := 0 }
    consistUp t

def execHostRstDeassert (s : State) : Result := .next (hostDeassert s)

/-- R324: every channel has been trained now, at the temperature of its base die. -/
def allTrained (s : State) : State :=
  s.updMem fun m => { m with trained := (List.range 256).foldl (fun h c => mset (0, 0) h c ((s.stack (c / 32)).temp, s.time.ns)) [] }

/-- MEMORY_TRAINED_READY: READY becomes 1; with HALT_N low the module enters Halted with SOURCE 1 (R603, R633). -/
def trainedReady (s : State) : State :=
  let y := s.sys
  if y.ready || !y.hostRstN || !y.thonar || y.railMem != 0xFF || !y.railCore then s
  else
    let t := (allTrained s).updSys fun y => { y with ready := true, readyAt := s.time.ns }
    if y.haltN then t else t.stopModule 1

def execMemoryTrainedReady (s : State) : Result := .next (trainedReady s)

-- the host link (R515 to R517, R604)

/-- CXL_LINK_UP: the link trains at the best rate of the partner, at 16 or at 8 lanes; below that it is reported down (R516). -/
def linkUp (s : State) (rate lanes : Nat) : State :=
  if !s.sys.hostRstN || !s.sys.railCore then s
  else if rate = 0 || lanes < 8 then s.updSys fun y => { y with cxlUp := false, linkDown := true, ideCm := false, ideIo := false }
  else s.updSys fun y => { y with cxlUp := true, linkDown := false, rate := rate, width := if lanes < 16 then 8 else 16 }

def execCxlLinkUp (maxRate : Fin 4) (lanes : Fin 17) (s : State) : Result := .next (linkUp s maxRate.val lanes.val)

/-- CXL_LINK_DOWN: the link goes down, and its IDE streams with it (R516). -/
def linkLost (s : State) : State :=
  s.updSys fun y => { y with cxlUp := false, linkDown := true, ideCm := false, ideIo := false }

def execCxlLinkDown (s : State) : Result := .next (linkLost s)

/-- IDE_INTEGRITY_FAILURE: a protected stream takes the link down; the ring commands in flight complete at the next resume (R517). -/
def ideFailure (s : State) (io : Bool) : State :=
  if !(if io then s.sys.ideIo else s.sys.ideCm) then s
  else
    linkLost (s.updRings fun h => { h with pairs := mupdEach {} h.pairs fun p => { p with
      cmds := p.cmds.map fun c => if c.done = none then { c with stale := true } else c } })

def execIdeIntegrityFailure (io : Bool) (s : State) : Result := .next (ideFailure s io)

/-- SPDM_IDE_KEY_EXCHANGE: the host establishes the keys of a stream (R517, R604). -/
def execSpdmIdeKeyExchange (io : Bool) (s : State) : Result :=
  .next (if !s.sys.cxlUp then s
    else s.updSys fun y => if io then { y with ideIo := true } else { y with ideCm := true })

-- the function-level reset (R519, R615)

/-- A pair that is Off, with no command left. -/
def pairOff (p : Pair) : Pair :=
  { p with state := 0, err := 0, cmds := [], toSignal := 0, hold := none }

/-- FUNCTION_LEVEL_RESET: a module-scope stop; every pair goes off and its commands never complete; accepted boundary commands still
take effect; the mailbox is reset, and sessions stay. -/
def functionReset (s : State) : State :=
  let kept := s.rings.boundary
  let t := s.stopModule 4
  let t := t.updTime fun m => { m with tods := m.tods.filter fun d => d.ring.isNone }
  let t := { t with flows := mupdEach {} t.flows fun f => { f with closing := none } }
  boxReset (boundaryRun (t.updRings fun h => { h with pairs := mupdEach {} h.pairs pairOff, boundary := kept }))

def execFunctionLevelReset (s : State) : Result := .next (if s.sys.cxlUp then functionReset s else s)

-- seating and the power-on command (R554, R566, R572, R620, R623)

/-- PRESENT_CHANGE: a module that leaves its seat loses the input, and with it every rail, Thonar's own among them. -/
def presentChange (s : State) (seated : Bool) : State :=
  if seated then s.updSys fun y => { y with seated := true }
  else (powerDown s).updSys fun y => { unverified y with seated := false, input := false, thonar := false, tripped := false, leakTrip := false }

def execPresentChange (seated : Bool) (s : State) : Result := .next (presentChange s seated)

/-- POWER_ON over a management path: after a trip the sequence starts again, after a leak once it has been cleared. -/
def cmdPowerOn (ask : Ticket) (_ : List Byte) (s : State) : State :=
  if !s.sys.tripped || s.power.leakLow || !s.sys.input then deny ask 5 s
  else respond (s.updSys fun y => { unverified y with tripped := false, leakTrip := false }) ask 0 []

def execPowerOnCmd (path : Path) (s : State) : Result := .next (serve path 0x56 cmdPowerOn s)

end Sys2Proof.Machine
end

