-- ==== Sys2Proof/Machine/Dispatch.lean ====
section
/-! DEFINITION. The meaning of each command, one arm per constructor of Instr, in the order of spec/opcode_table.json. -/

namespace Sys2Proof.Machine

def exec (i : Instr) (s : State) : Host.Outcome State Fault Refusal :=
  match i with
  | .powerOn => Sys2Proof.Machine.execPowerOn s
  | .imageVerifyComplete comp => Sys2Proof.Machine.execImageVerifyComplete comp s
  | .hostRstAssert => Sys2Proof.Machine.execHostRstAssert s
  | .hostRstDeassert => Sys2Proof.Machine.execHostRstDeassert s
  | .memoryTrainedReady => Sys2Proof.Machine.execMemoryTrainedReady s
  | .cxlLinkUp maxRate lanes => Sys2Proof.Machine.execCxlLinkUp maxRate lanes s
  | .cxlLinkDown => Sys2Proof.Machine.execCxlLinkDown s
  | .ideIntegrityFailure io => Sys2Proof.Machine.execIdeIntegrityFailure io s
  | .functionLevelReset => Sys2Proof.Machine.execFunctionLevelReset s
  | .presentChange seated => Sys2Proof.Machine.execPresentChange seated s
  | .issueBeat c => Sys2Proof.Machine.execIssueBeat c s
  | .scalarIntRegOp sr fn rd rs1 rs2 => Sys2Proof.Machine.execScalarIntRegOp sr fn rd rs1 rs2 s
  | .scalarIntImmOp sr op rd rs1 imm => Sys2Proof.Machine.execScalarIntImmOp sr op rd rs1 imm s
  | .scalarLoad sr signed size off rd rs1 => Sys2Proof.Machine.execScalarLoad sr signed size off rd rs1 s
  | .scalarStore sr size off rd rs1 => Sys2Proof.Machine.execScalarStore sr size off rd rs1 s
  | .fpLoad sr size off rd rs1 => Sys2Proof.Machine.execFpLoad sr size off rd rs1 s
  | .fpStore sr size off rd rs1 => Sys2Proof.Machine.execFpStore sr size off rd rs1 s
  | .ladd sr rd rs1 rs2 ty rsv => Sys2Proof.Machine.execLadd sr rd rs1 rs2 ty rsv s
  | .laddApply slice => Sys2Proof.Machine.execLaddApply slice s
  | .nearMemoryAdd stack => Sys2Proof.Machine.execNearMemoryAdd stack s
  | .branchCond sr cond rs1 off => Sys2Proof.Machine.execBranchCond sr cond rs1 off s
  | .jump sr off => Sys2Proof.Machine.execJump sr off s
  | .jr sr rd rs1 rs2 => Sys2Proof.Machine.execJr sr rd rs1 rs2 s
  | .call sr off => Sys2Proof.Machine.execCall sr off s
  | .callr sr rd rs1 rs2 => Sys2Proof.Machine.execCallr sr rd rs1 rs2 s
  | .ret sr rd rs1 rs2 => Sys2Proof.Machine.execRet sr rd rs1 rs2 s
  | .crd sr w => Sys2Proof.Machine.execCrd sr w s
  | .cwr sr w => Sys2Proof.Machine.execCwr sr w s
  | .cwrSeatcfg sr rs1 => Sys2Proof.Machine.execCwrSeatcfg sr rs1 s
  | .cwrTfull sr rs1 => Sys2Proof.Machine.execCwrTfull sr rs1 s
  | .cwrPtroot sr rs1 => Sys2Proof.Machine.execCwrPtroot sr rs1 s
  | .eret sr w => Sys2Proof.Machine.execEret sr w s
  | .sspsetSwitch sr w => Sys2Proof.Machine.execSspsetSwitch sr w s
  | .sspsetUnwind sr w => Sys2Proof.Machine.execSspsetUnwind sr w s
  | .fence sr w => Sys2Proof.Machine.execFence sr w s
  | .tlbinv sr w => Sys2Proof.Machine.execTlbinv sr w s
  | .cclean sr w => Sys2Proof.Machine.execCclean sr w s
  | .cinval sr w => Sys2Proof.Machine.execCinval sr w s
  | .cclinv sr w => Sys2Proof.Machine.execCclinv sr w s
  | .cdead sr w => Sys2Proof.Machine.execCdead sr w s
  | .cordsig sr w => Sys2Proof.Machine.execCordsig sr w s
  | .cordwait sr w => Sys2Proof.Machine.execCordwait sr w s
  | .cordwaitSatisfied sr => Sys2Proof.Machine.execCordwaitSatisfied sr s
  | .vecIntOp sr op w => Sys2Proof.Machine.execVecIntOp sr op w s
  | .vecFpOp sr op w => Sys2Proof.Machine.execVecFpOp sr op w s
  | .vecFma sr w => Sys2Proof.Machine.execVecFma sr w s
  | .vecCompare sr op w => Sys2Proof.Machine.execVecCompare sr op w s
  | .vcvt sr src dst w => Sys2Proof.Machine.execVcvt sr src dst w s
  | .vecPermute sr op w => Sys2Proof.Machine.execVecPermute sr op w s
  | .vbx sr w => Sys2Proof.Machine.execVbx sr w s
  | .vecReduction sr op w => Sys2Proof.Machine.execVecReduction sr op w s
  | .vmov sr form w => Sys2Proof.Machine.execVmov sr form w s
  | .scalarFpOp sr op w => Sys2Proof.Machine.execScalarFpOp sr op w s
  | .vld sr w => Sys2Proof.Machine.execVld sr w s
  | .vldff sr w => Sys2Proof.Machine.execVldff sr w s
  | .vst sr w => Sys2Proof.Machine.execVst sr w s
  | .vgath sr w lim => Sys2Proof.Machine.execVgath sr w lim s
  | .vgathff sr w lim => Sys2Proof.Machine.execVgathff sr w lim s
  | .vscat sr w lim => Sys2Proof.Machine.execVscat sr w lim s
  | .vlut sr w => Sys2Proof.Machine.execVlut sr w s
  | .vransSingle sr w => Sys2Proof.Machine.execVransSingle sr w s
  | .vransBlock sr w lim => Sys2Proof.Machine.execVransBlock sr w lim s
  | .vectorPipeGate c => Sys2Proof.Machine.execVectorPipeGate c s
  | .vectorPipeWake c => Sys2Proof.Machine.execVectorPipeWake c s
  | .vectorWakeComplete c => Sys2Proof.Machine.execVectorWakeComplete c s
  | .tld sr w lim => Sys2Proof.Machine.execTld sr w lim s
  | .tst sr w lim => Sys2Proof.Machine.execTst sr w lim s
  | .trel sr t g rsv => Sys2Proof.Machine.execTrel sr t g rsv s
  | .tgrp sr t on rsv => Sys2Proof.Machine.execTgrp sr t on rsv s
  | .tmma sr w upset => Sys2Proof.Machine.execTmma sr w upset s
  | .tmmaZ sr w upset => Sys2Proof.Machine.execTmmaZ sr w upset s
  | .tcvt sr w => Sys2Proof.Machine.execTcvt sr w s
  | .agreementSamplePass c => Sys2Proof.Machine.execAgreementSamplePass c s
  | .interruptTaken sr => Sys2Proof.Machine.execInterruptTaken sr s
  | .interruptPendingSet sr k detail => Sys2Proof.Machine.execInterruptPendingSet sr k detail s
  | .coachResetReload c => Sys2Proof.Machine.execCoachResetReload c s
  | .drainRequest sr microcode => Sys2Proof.Machine.execDrainRequest sr microcode s
  | .drainTimeout sr => Sys2Proof.Machine.execDrainTimeout sr s
  | .coachSubstitution c => Sys2Proof.Machine.execCoachSubstitution c s
  | .coachSelfTest failed => Sys2Proof.Machine.execCoachSelfTest failed s
  | .l1FillComplete c upset => Sys2Proof.Machine.execL1FillComplete c upset s
  | .writeBufferDrain c => Sys2Proof.Machine.execWriteBufferDrain c s
  | .writeBufferTimeout c => Sys2Proof.Machine.execWriteBufferTimeout c s
  | .prefetchIssue c stream => Sys2Proof.Machine.execPrefetchIssue c stream s
  | .llcAccess req upset => Sys2Proof.Machine.execLlcAccess req upset s
  | .llcMissFill line => Sys2Proof.Machine.execLlcMissFill line s
  | .memoryRead cw upset => Sys2Proof.Machine.execMemoryRead cw upset s
  | .memoryWrite cw data poison dead => Sys2Proof.Machine.execMemoryWrite cw data poison dead s
  | .correctedWriteback stack => Sys2Proof.Machine.execCorrectedWriteback stack s
  | .narrowRequestIssue stack n => Sys2Proof.Machine.execNarrowRequestIssue stack n s
  | .writeQueueBatchDrain pc => Sys2Proof.Machine.execWriteQueueBatchDrain pc s
  | .scrubRead pc upset => Sys2Proof.Machine.execScrubRead pc upset s
  | .rowRetire pc row => Sys2Proof.Machine.execRowRetire pc row s
  | .rowRetireComplete pc => Sys2Proof.Machine.execRowRetireComplete pc s
  | .pseudoChannelRetire pc => Sys2Proof.Machine.execPseudoChannelRetire pc s
  | .refreshRateChange stack temp => Sys2Proof.Machine.execRefreshRateChange stack temp s
  | .channelRetrainStart stack channel => Sys2Proof.Machine.execChannelRetrainStart stack channel s
  | .retrainWindow passed => Sys2Proof.Machine.execRetrainWindow passed s
  | .moverTailWrite m v => Sys2Proof.Machine.execMoverTailWrite m v s
  | .moverQueueConfigWrite m size v => Sys2Proof.Machine.execMoverQueueConfigWrite m size v s
  | .moverStoppedClear m => Sys2Proof.Machine.execMoverStoppedClear m s
  | .moverDescriptorStart m => Sys2Proof.Machine.execMoverDescriptorStart m s
  | .moverCopy m fail => Sys2Proof.Machine.execMoverCopy m fail s
  | .moverGather m fail => Sys2Proof.Machine.execMoverGather m fail s
  | .moverScatter m => Sys2Proof.Machine.execMoverScatter m s
  | .moverTranspose m => Sys2Proof.Machine.execMoverTranspose m s
  | .moverConvert m => Sys2Proof.Machine.execMoverConvert m s
  | .moverTconvert m => Sys2Proof.Machine.execMoverTconvert m s
  | .tmap m => Sys2Proof.Machine.execTmap m s
  | .texch m => Sys2Proof.Machine.execTexch m s
  | .moverDescriptorComplete m => Sys2Proof.Machine.execMoverDescriptorComplete m s
  | .moverTransferChunk m => Sys2Proof.Machine.execMoverTransferChunk m s
  | .laserFailure e u => Sys2Proof.Machine.execLaserFailure e u s
  | .laserTakeoverComplete e => Sys2Proof.Machine.execLaserTakeoverComplete e s
  | .laserSeated e u => Sys2Proof.Machine.execLaserSeated e u s
  | .laserQualified e u passed => Sys2Proof.Machine.execLaserQualified e u passed s
  | .laserUnseated e u => Sys2Proof.Machine.execLaserUnseated e u s
  | .laneFailure p lane => Sys2Proof.Machine.execLaneFailure p lane s
  | .laneSubstitution p => Sys2Proof.Machine.execLaneSubstitution p s
  | .laneRetest p lane passed => Sys2Proof.Machine.execLaneRetest p lane passed s
  | .scaleoutPortDown p => Sys2Proof.Machine.execScaleoutPortDown p s
  | .scaleoutRetrain p => Sys2Proof.Machine.execScaleoutRetrain p s
  | .portBringUp e stage => Sys2Proof.Machine.execPortBringUp e stage s
  | .linkRetrain p => Sys2Proof.Machine.execLinkRetrain p s
  | .identityFrameReceive p f => Sys2Proof.Machine.execIdentityFrameReceive p f s
  | .couplingHeldTimeout p => Sys2Proof.Machine.execCouplingHeldTimeout p s
  | .missingPartnerTimeout p => Sys2Proof.Machine.execMissingPartnerTimeout p s
  | .darkPortLight p => Sys2Proof.Machine.execDarkPortLight p s
  | .lldpReceive p chassis portId => Sys2Proof.Machine.execLldpReceive p chassis portId s
  | .lldpTimeout p => Sys2Proof.Machine.execLldpTimeout p s
  | .lldpSend p => Sys2Proof.Machine.execLldpSend p s
  | .carriageFrameReceive p f symErrs rx => Sys2Proof.Machine.execCarriageFrameReceive p f symErrs rx s
  | .ackTimer flow => Sys2Proof.Machine.execAckTimer flow s
  | .ackReceive flow ack ece => Sys2Proof.Machine.execAckReceive flow ack ece s
  | .nackReceive flow seq => Sys2Proof.Machine.execNackReceive flow seq s
  | .retransmissionTimeout flow seq => Sys2Proof.Machine.execRetransmissionTimeout flow seq s
  | .frameSend p => Sys2Proof.Machine.execFrameSend p s
  | .rateControlInterval flow => Sys2Proof.Machine.execRateControlInterval flow s
  | .scaleoutFlowMove => Sys2Proof.Machine.execScaleoutFlowMove s
  | .udpDatagramReceive p srcAddr dstPort f => Sys2Proof.Machine.execUdpDatagramReceive p srcAddr dstPort f s
  | .remoteReadRequest p f => Sys2Proof.Machine.execRemoteReadRequest p f s
  | .remoteReadResponse sr data poison => Sys2Proof.Machine.execRemoteReadResponse sr data poison s
  | .remoteWrite p f => Sys2Proof.Machine.execRemoteWrite p f s
  | .remoteAccessUnreachable sr => Sys2Proof.Machine.execRemoteAccessUnreachable sr s
  | .couplingRelay dest => Sys2Proof.Machine.execCouplingRelay dest s
  | .collectiveTailWrite q v => Sys2Proof.Machine.execCollectiveTailWrite q v s
  | .allReduce q => Sys2Proof.Machine.execAllReduce q s
  | .reduceScatter q => Sys2Proof.Machine.execReduceScatter q s
  | .allGather q => Sys2Proof.Machine.execAllGather q s
  | .allToAll q => Sys2Proof.Machine.execAllToAll q s
  | .reductionNode q chunk level k => Sys2Proof.Machine.execReductionNode q chunk level k s
  | .collectiveComplete q => Sys2Proof.Machine.execCollectiveComplete q s
  | .barrierConfigWrite ch v => Sys2Proof.Machine.execBarrierConfigWrite ch v s
  | .semaphoreValueWrite n v => Sys2Proof.Machine.execSemaphoreValueWrite n v s
  | .semaphoreArmWrite n arm value => Sys2Proof.Machine.execSemaphoreArmWrite n arm value s
  | .microFlitReceive p flit rx => Sys2Proof.Machine.execMicroFlitReceive p flit rx s
  | .microFlitRepeat p => Sys2Proof.Machine.execMicroFlitRepeat p s
  | .phaseComplete ch => Sys2Proof.Machine.execPhaseComplete ch s
  | .stepContribution commit => Sys2Proof.Machine.execStepContribution commit s
  | .endOfStepResult nonfinite spike stopReq => Sys2Proof.Machine.execEndOfStepResult nonfinite spike stopReq s
  | .commitBarrierComplete => Sys2Proof.Machine.execCommitBarrierComplete s
  | .commitResult => Sys2Proof.Machine.execCommitResult s
  | .skipResult => Sys2Proof.Machine.execSkipResult s
  | .haltedResult => Sys2Proof.Machine.execHaltedResult s
  | .immediateStop source scope => Sys2Proof.Machine.execImmediateStop source scope s
  | .haltNAssert => Sys2Proof.Machine.execHaltNAssert s
  | .haltStopNow v => Sys2Proof.Machine.execHaltStopNow v s
  | .haltSchedule v => Sys2Proof.Machine.execHaltSchedule v s
  | .haltStore v => Sys2Proof.Machine.execHaltStore v s
  | .scheduledStopTime => Sys2Proof.Machine.execScheduledStopTime s
  | .tenderBlockArrival entry block gen n vals => Sys2Proof.Machine.execTenderBlockArrival entry block gen n vals s
  | .tenderBlockApply => Sys2Proof.Machine.execTenderBlockApply s
  | .drainStallResume => Sys2Proof.Machine.execDrainStallResume s
  | .compatPass1 => Sys2Proof.Machine.execCompatPass1 s
  | .compatPartialReceive layer leaf qm qw => Sys2Proof.Machine.execCompatPartialReceive layer leaf qm qw s
  | .compatPass2 layer => Sys2Proof.Machine.execCompatPass2 layer s
  | .tenderDone => Sys2Proof.Machine.execTenderDone s
  | .tenderInstallApply => Sys2Proof.Machine.execTenderInstallApply s
  | .waybillEntryBuild => Sys2Proof.Machine.execWaybillEntryBuild s
  | .waybillMirrorReceive entry => Sys2Proof.Machine.execWaybillMirrorReceive entry s
  | .waybillMirrorAck => Sys2Proof.Machine.execWaybillMirrorAck s
  | .mirrorTimeout => Sys2Proof.Machine.execMirrorTimeout s
  | .flashMirrorWriteComplete => Sys2Proof.Machine.execFlashMirrorWriteComplete s
  | .waybillVoid => Sys2Proof.Machine.execWaybillVoid s
  | .readyWrite v => Sys2Proof.Machine.execReadyWrite v s
  | .checkpointSaveComplete tier => Sys2Proof.Machine.execCheckpointSaveComplete tier s
  | .tier3Staged => Sys2Proof.Machine.execTier3Staged s
  | .replayStepCheck => Sys2Proof.Machine.execReplayStepCheck s
  | .peerLost position => Sys2Proof.Machine.execPeerLost position s
  | .ledgerConfigWrite v => Sys2Proof.Machine.execLedgerConfigWrite v s
  | .ledgerOpen v => Sys2Proof.Machine.execLedgerOpen v s
  | .ledgerFolded v => Sys2Proof.Machine.execLedgerFolded v s
  | .watchContributionStore off size v => Sys2Proof.Machine.execWatchContributionStore off size v s
  | .stickyOvfClear ref => Sys2Proof.Machine.execStickyOvfClear ref s
  | .doorbellSqTail r v => Sys2Proof.Machine.execDoorbellSqTail r v s
  | .doorbellCqHead r v => Sys2Proof.Machine.execDoorbellCqHead r v s
  | .shadowLineReread r => Sys2Proof.Machine.execShadowLineReread r s
  | .ringEntryFetch r => Sys2Proof.Machine.execRingEntryFetch r s
  | .ringEnableWrite r v => Sys2Proof.Machine.execRingEnableWrite r v s
  | .ringDisableWrite r v => Sys2Proof.Machine.execRingDisableWrite r v s
  | .ringDrained r => Sys2Proof.Machine.execRingDrained r s
  | .completionWrite r => Sys2Proof.Machine.execCompletionWrite r s
  | .eventPost => Sys2Proof.Machine.execEventPost s
  | .msixSignal r => Sys2Proof.Machine.execMsixSignal r s
  | .msixUnmask vec => Sys2Proof.Machine.execMsixUnmask vec s
  | .cmdNop r idx => Sys2Proof.Machine.execCmdNop r idx s
  | .cmdMover r idx => Sys2Proof.Machine.execCmdMover r idx s
  | .cmdCollective r idx => Sys2Proof.Machine.execCmdCollective r idx s
  | .cmdRunStart r idx => Sys2Proof.Machine.execCmdRunStart r idx s
  | .cmdStep r idx => Sys2Proof.Machine.execCmdStep r idx s
  | .cmdStopRequest r idx => Sys2Proof.Machine.execCmdStopRequest r idx s
  | .cmdResume r idx => Sys2Proof.Machine.execCmdResume r idx s
  | .cmdRestore r idx => Sys2Proof.Machine.execCmdRestore r idx s
  | .cmdMtbf r idx => Sys2Proof.Machine.execCmdMtbf r idx s
  | .cmdTier3Release r idx => Sys2Proof.Machine.execCmdTier3Release r idx s
  | .cmdTenderInstall r idx => Sys2Proof.Machine.execCmdTenderInstall r idx s
  | .cmdTenderRate r idx => Sys2Proof.Machine.execCmdTenderRate r idx s
  | .cmdPace r idx => Sys2Proof.Machine.execCmdPace r idx s
  | .cmdPageClass r idx => Sys2Proof.Machine.execCmdPageClass r idx s
  | .cmdMemStatus r idx => Sys2Proof.Machine.execCmdMemStatus r idx s
  | .cmdPortStatus r idx => Sys2Proof.Machine.execCmdPortStatus r idx s
  | .cmdOpenFlow r idx => Sys2Proof.Machine.execCmdOpenFlow r idx s
  | .cmdCloseFlow r idx => Sys2Proof.Machine.execCmdCloseFlow r idx s
  | .cmdSeatInt r idx => Sys2Proof.Machine.execCmdSeatInt r idx s
  | .cmdTimeOfDay r idx => Sys2Proof.Machine.execCmdTimeOfDay r idx s
  | .ppsEdge => Sys2Proof.Machine.execPpsEdge s
  | .ppsLossHoldover => Sys2Proof.Machine.execPpsLossHoldover s
  | .holdoverAlarm => Sys2Proof.Machine.execHoldoverAlarm s
  | .timeOfDayTimeout => Sys2Proof.Machine.execTimeOfDayTimeout s
  | .ppsOutPulse => Sys2Proof.Machine.execPpsOutPulse s
  | .ppsSourceMissing => Sys2Proof.Machine.execPpsSourceMissing s
  | .epochAlarmWrite a v => Sys2Proof.Machine.execEpochAlarmWrite a v s
  | .epochAlarmFire a => Sys2Proof.Machine.execEpochAlarmFire a s
  | .governorTick draw => Sys2Proof.Machine.execGovernorTick draw s
  | .tdpLimit draw tjW tjE => Sys2Proof.Machine.execTdpLimit draw tjW tjE s
  | .paceChange => Sys2Proof.Machine.execPaceChange s
  | .paceChangeComplete => Sys2Proof.Machine.execPaceChangeComplete s
  | .paceMeterSample => Sys2Proof.Machine.execPaceMeterSample s
  | .pwrRampWrite v => Sys2Proof.Machine.execPwrRampWrite v s
  | .rampTimeReached => Sys2Proof.Machine.execRampTimeReached s
  | .coolantSample inlet outlet => Sys2Proof.Machine.execCoolantSample inlet outlet s
  | .coolDemUpdate => Sys2Proof.Machine.execCoolDemUpdate s
  | .supplyTrip v => Sys2Proof.Machine.execSupplyTrip v s
  | .thermalTrip half tj => Sys2Proof.Machine.execThermalTrip half tj s
  | .leakDetect => Sys2Proof.Machine.execLeakDetect s
  | .environmentFault q measured => Sys2Proof.Machine.execEnvironmentFault q measured s
  | .environmentFaultClear q => Sys2Proof.Machine.execEnvironmentFaultClear q s
  | .mgmtGo v => Sys2Proof.Machine.execMgmtGo v s
  | .mgmtResponseReady => Sys2Proof.Machine.execMgmtResponseReady s
  | .mgmtDoneClear => Sys2Proof.Machine.execMgmtDoneClear s
  | .mgmtMessageReceive path bytes => Sys2Proof.Machine.execMgmtMessageReceive path bytes s
  | .getIdentity path => Sys2Proof.Machine.execGetIdentity path s
  | .attest path => Sys2Proof.Machine.execAttest path s
  | .mgmtStatusCmd path => Sys2Proof.Machine.execMgmtStatusCmd path s
  | .paceReport path => Sys2Proof.Machine.execPaceReport path s
  | .mgmtMemStatus path => Sys2Proof.Machine.execMgmtMemStatus path s
  | .mgmtPortStatus path => Sys2Proof.Machine.execMgmtPortStatus path s
  | .llcCounters path => Sys2Proof.Machine.execLlcCounters path s
  | .sessionOpen path => Sys2Proof.Machine.execSessionOpen path s
  | .sessionProve path => Sys2Proof.Machine.execSessionProve path s
  | .sessionClose path => Sys2Proof.Machine.execSessionClose path s
  | .sessionIdleTimeout sid => Sys2Proof.Machine.execSessionIdleTimeout sid s
  | .pathLockoutExpiry path => Sys2Proof.Machine.execPathLockoutExpiry path s
  | .credSet path => Sys2Proof.Machine.execCredSet path s
  | .consistKeySet path => Sys2Proof.Machine.execConsistKeySet path s
  | .consistLoad path => Sys2Proof.Machine.execConsistLoad path s
  | .consistApply path => Sys2Proof.Machine.execConsistApply path s
  | .consistTakeEffect => Sys2Proof.Machine.execConsistTakeEffect s
  | .consistConfirm path => Sys2Proof.Machine.execConsistConfirm path s
  | .probationExpiry => Sys2Proof.Machine.execProbationExpiry s
  | .probationFailure cond => Sys2Proof.Machine.execProbationFailure cond s
  | .noCommitTimeout => Sys2Proof.Machine.execNoCommitTimeout s
  | .consistRevert path => Sys2Proof.Machine.execConsistRevert path s
  | .consistFactory path => Sys2Proof.Machine.execConsistFactory path s
  | .fwLoad path => Sys2Proof.Machine.execFwLoad path s
  | .fwActivate path => Sys2Proof.Machine.execFwActivate path s
  | .microcodeCoachMove c => Sys2Proof.Machine.execMicrocodeCoachMove c s
  | .fwSelfTestRevert comp => Sys2Proof.Machine.execFwSelfTestRevert comp s
  | .fwRevert path => Sys2Proof.Machine.execFwRevert path s
  | .fwCommit path => Sys2Proof.Machine.execFwCommit path s
  | .laserRetire path => Sys2Proof.Machine.execLaserRetire path s
  | .retrain path => Sys2Proof.Machine.execRetrain path s
  | .recalibrate path => Sys2Proof.Machine.execRecalibrate path s
  | .sensorRecalTimer => Sys2Proof.Machine.execSensorRecalTimer s
  | .retrim path => Sys2Proof.Machine.execRetrim path s
  | .retrimTimer => Sys2Proof.Machine.execRetrimTimer s
  | .substitute path => Sys2Proof.Machine.execSubstitute path s
  | .mgmtTimeOfDay path => Sys2Proof.Machine.execMgmtTimeOfDay path s
  | .powerOnCmd path => Sys2Proof.Machine.execPowerOnCmd path s
  | .flashBlockRetire block => Sys2Proof.Machine.execFlashBlockRetire block s
  | .registerWrite space off size v => Sys2Proof.Machine.execRegisterWrite space off size v s
  | .leakClear => Sys2Proof.Machine.execLeakClear s
  | .ppsOutPulseEnd => Sys2Proof.Machine.execPpsOutPulseEnd s
  | .halfReadLatch requester reg high => Sys2Proof.Machine.execHalfReadLatch requester reg high s
  | .spdmIdeKeyExchange io => Sys2Proof.Machine.execSpdmIdeKeyExchange io s
  | .pausePfcFrameReceive p => Sys2Proof.Machine.execPausePfcFrameReceive p s
  | .pseudoChannelMoveComplete pc => Sys2Proof.Machine.execPseudoChannelMoveComplete pc s
  | .fwActivationComplete comp => Sys2Proof.Machine.execFwActivationComplete comp s
  | .sensorCalibrationComplete => Sys2Proof.Machine.execSensorCalibrationComplete s

end Sys2Proof.Machine
end

