-- ==== Sys2Proof/Machine/Tick.lean ====
section
/-! DEFINITION. One tick of the TCXO (R540, R541): the epoch counter advances by 10 ns at the corrected rate. -/

namespace Sys2Proof.Machine

/-- R540, R541: the sum, in units of 2⁻³² ns, that one tick adds: 10 × (1 + c) ns, with c in units of 10⁻⁹. -/
def tickStep (t : Time) : Nat :=
  let den := max t.c.den 1 * 1000000000
  ((10 * (den : Int) + 10 * t.c.num) * 2 ^ 32 / (den : Int)).toNat

/-- R550: with no time source, the ticks for which the counter still slews. -/
def slewTick (t : Time) : Time :=
  if t.slew = 0 then t
  else
    let left := if 0 < t.slew then t.slew - 1 else t.slew + 1
    { t with slew := left, c := if left = 0 then ⟨0, 1⟩ else t.c }

/-- One tick. -/
def tick (s : State) : State :=
  s.updTime fun t =>
    let add := tickStep t + t.frac
    slewTick { t with ns := (t.ns + add / 2 ^ 32) % 2 ^ 64, frac := add % 2 ^ 32, ticks := t.ticks + 1 }

end Sys2Proof.Machine
end

