-- ==== Sys2Proof/Safety.lean ====
section
/-! DEFINITION. What a safe run is, and the words in which claims speak of one command: what it answers, what a management request
gets, and what an instruction needs to run. -/

namespace Sys2Proof.Machine

/-- A result that goes on. -/
def Completes (r : Host.Outcome State Fault Refusal) : Prop := ∃ t, r = .next t

/-- The next state, when the result is one: a form that tests can compare. -/
def nextState : Host.Outcome State Fault Refusal → Option State
  | .next t => some t
  | _ => none

/-- A step from a state goes on. -/
def SafeStep (s : State) : Prop := Completes (step s)

/-- A command goes on to a next state of which Q holds. -/
def Answers (c : Instr) (s : State) (Q : State → Prop) : Prop := ∃ t, exec c s = .next t ∧ Q t

/-- The oldest request of a command that waits on a path (R569): its ticket and its payload. -/
def Oldest (s : State) (p : Path) (cmd : Nat) (ask : Ticket) (pl : List Byte) : Prop :=
  (s.mgmt.inbox.find? fun e => e.1.path = p && e.1.cmd = cmd) = some (ask, pl)

/-- The state once that request has been taken off the queue. -/
def taken (s : State) (ask : Ticket) (pl : List Byte) : State :=
  s.updMgmt fun m => { m with inbox := m.inbox.erase (ask, pl) }

/-- A management request is answered with a status and a payload, and a MAC where R570 asks for one: on its path, or in the mailbox
unless that was reset meanwhile (R614, R615). -/
def Answered (s t : State) (ask : Ticket) (status : Nat) (pl : List Byte) : Prop :=
  ∃ mac : List Byte, (ask.sid = 0 → mac = []) ∧ (ask.sid ≠ 0 → ask.ks ≠ [] → mac = hmac384 ask.ks (responseBody ask status pl)) ∧
    if ask.path = .mailbox then
      t.outbox = s.outbox ∧
        t.mgmt.resp = if ask.gen = s.mgmt.boxGen then some (responseBody ask status pl ++ mac) else s.mgmt.resp
    else t.outbox = s.outbox ++ [.response ask.path (responseBody ask status pl ++ mac)]

/-- A management request is answered, and nothing else happens (the MAC outside any session is a free value). -/
def Replies (s t : State) (ask : Ticket) (status : Nat) (pl : List Byte) : Prop :=
  Answered s t ask status pl ∧
    t = { s with outbox := t.outbox, fresh := t.fresh, mgmt := { s.mgmt with resp := t.mgmt.resp } }

/-- What a management command does on each path: nothing without a request of its code that waits there, and else what `Q` says of the
oldest one. -/
def Serves (c : Path → Instr) (cmd : Nat) (Q : State → Ticket → List Byte → State → Prop) : Prop :=
  ∀ s p, ((∀ e ∈ s.mgmt.inbox, ¬(e.1.path = p ∧ e.1.cmd = cmd)) → exec (c p) s = .next s) ∧
    ∀ ask pl, Oldest s p cmd ask pl → Answers (c p) s (Q s ask pl)

/-- Nothing of a state differs from an earlier one but the firmware slots of one component, which are now `k`. -/
def OnlyFw (s t : State) (c : Nat) (k : Fw) : Prop :=
  t = { s with mgmt := { s.mgmt with fw := t.mgmt.fw } } ∧ t.fwOf c = k ∧ ∀ d, d ≠ c → t.fwOf d = s.fwOf d

/-- R529: between two states an event has been raised, unless 256 wait already. -/
def Raised (s t : State) (code arg extra : Nat) : Prop :=
  (s.rings.events.filter fun e => e.code != 1).length < 256 →
    ∃ e ∈ t.rings.events, e.code = code ∧ e.arg = arg % 2 ^ 32 ∧ e.extra = extra % 2 ^ 16

/-- R597: between two states the basic pace points have been re-trimmed, each half by one step, or its limit reported. -/
def Trimmed (s u : State) : Prop :=
  let w := trimStep s.power.trimW (Config.trimError ((halfRates s true).getD 1 0) s.power.coreW)
  let e := trimStep s.power.trimE (Config.trimError ((halfRates s false).getD 1 0) s.power.coreE)
  (s.expert 0 = true → u = s) ∧
  (s.expert 0 = false → u = { s with power := u.power, rings := u.rings } ∧ u.power.trimW = w.1 ∧ u.power.trimE = e.1 ∧
    u.power.coreW = s.power.coreW ∧ u.power.coreE = s.power.coreE ∧
    (s.quiescent = false → u.power.tCoreW = s.power.tCoreW ∧ u.power.tCoreE = s.power.tCoreE) ∧
    (w.2 = false → e.2 = false → u.rings = s.rings) ∧ (w.2 = true → e.2 = false → Raised s u 0x0073 0 (intBits 16 w.1)) ∧
    (w.2 = false → e.2 = true → Raised s u 0x0073 1 (intBits 16 e.1)))

/-- R529: an event waits to be posted, unless 256 others do. -/
def Reported (t : State) (code arg extra : Nat) : Prop :=
  (∃ e ∈ t.rings.events, e.code = code ∧ e.arg = arg % 2 ^ 32 ∧ e.extra = extra % 2 ^ 16) ∨
    256 ≤ (t.rings.events.filter fun e => e.code != 1).length

/-- R15, R28: between two states a logical coach has moved to the spare of its half, or been retired for want of one: it starts afresh, its
former position reads `left`, and the map generation has moved on by 2. -/
def Moved (s t : State) (c : Nat) (left : BitVec 8) : Prop :=
  let old := posOf s c
  (t.coach c).stopped = none ∧ (t.coach c).stops = [] ∧ (t.coach c).aFaults = [] ∧ (t.coach c).l1 = [] ∧
  (∀ i, (t.coach c).seat i = { remSt := ((t.coach c).seat i).remSt }) ∧ t.sys.mapGen = (s.sys.mapGen + 2) % 2 ^ 32 ∧
  (∀ new, spareFor s old = some new → t.sys.active = s.sys.active ∧
    t.sys.posMap = lset (lset s.sys.posMap old fun _ => left) new (fun _ => BitVec.ofNat 8 c) ∧
    Reported t 0x0011 (c + 2 ^ 7 * old + 2 ^ 14 * new) s.sys.active) ∧
  (spareFor s old = none → t.sys.active = s.sys.active - 1 ∧ t.sys.posMap = lset s.sys.posMap old (fun _ => 0xFF) ∧
    Reported t 0x0012 (c + 2 ^ 7 * old) (s.sys.active - 1))

/-- The state after n steps that all go on. -/
def runs : Nat → State → Option State
  | 0, s => some s
  | n + 1, s => (nextState (step s)).bind (runs n)

/-- Every byte memory of the state has its canonical form. -/
def Canonical (s : State) : Prop := Memory.wf s.hostMem ∧ Memory.wf s.flash ∧ Memory.wf s.mem.cells

/-- R570: the bytes of a request before its MAC. -/
def request (cmd sid seq : Nat) (pl : List Byte) : List Byte :=
  leBytes 2 cmd ++ leBytes 2 0 ++ leBytes 4 sid ++ leBytes 4 seq ++ leBytes 4 pl.length ++ pl

/-- Two states of a coach that differ in nothing but their seats. -/
def SameCoach (k l : Coach) : Prop := l = { k with seats := l.seats }

/-- Nothing of a state differs from an earlier one but one seat, which is now `q`. -/
def OnlySeat (s t : State) (r : SeatRef) (q : Seat) : Prop :=
  t = { s with coaches := t.coaches } ∧ (∀ c, SameCoach (s.coach c) (t.coach c)) ∧ t.seat r = q ∧
    ∀ r' : SeatRef, r' ≠ r → t.seat r' = s.seat r'

/-- Nothing of a state differs from an earlier one but one coach, which is now `k`. -/
def OnlyCoach (s t : State) (c : Nat) (k : Coach) : Prop :=
  t = { s with coaches := t.coaches } ∧ t.coach c = k ∧ ∀ d, d ≠ c → t.coach d = s.coach d

/-- Nothing of a state differs from an earlier one but one mover, which is now `k`. -/
def OnlyMover (s t : State) (m : Nat) (k : Mover) : Prop :=
  t = { s with movers := t.movers } ∧ t.mover m = k ∧ ∀ n, n ≠ m → t.mover n = s.mover n

/-- Nothing of a state differs from an earlier one but one optical engine, which is now `k`. -/
def OnlyEngine (s t : State) (e : Nat) (k : Engine) : Prop :=
  t = { s with engines := t.engines } ∧ t.engine e = k ∧ ∀ n, n ≠ e → t.engine n = s.engine n

/-- Nothing of a state differs from an earlier one but one port, which is now `k`. -/
def OnlyPort (s t : State) (p : Nat) (k : PortState) : Prop :=
  t = { s with ports := t.ports } ∧ t.port p = k ∧ ∀ n, n ≠ p → t.port n = s.port n

/-- Nothing of a state differs from an earlier one but one flow, which is now `k`. -/
def OnlyFlow (s t : State) (f : Nat) (k : Flow) : Prop :=
  t = { s with flows := t.flows } ∧ t.flow f = k ∧ ∀ n, n ≠ f → t.flow n = s.flow n

/-- Nothing of a state differs from an earlier one but one ring pair, which is now `k`. -/
def OnlyPair (s t : State) (r : Nat) (k : Pair) : Prop :=
  t = { s with rings := { s.rings with pairs := t.rings.pairs } } ∧ t.pair r = k ∧ ∀ n, n ≠ r → t.pair n = s.pair n

/-- R391, R392: between two states a frame has left on a port: as a coupler frame, or on a scale-out port in an Ethernet frame to its
flow's peer, whose Ethernet addresses are a free value. -/
def Wired (s t : State) (p : Nat) (f : Frame) : Prop :=
  if p < 7 then t.outbox = s.outbox ++ [.frame p f] ∧ t.fresh = s.fresh
  else t.outbox = s.outbox ++ [.packet p f (etherBytes s (Config.freeValue s.fresh) (s.flow (frameFlow f)).peer f)] ∧
    t.fresh = s.fresh + 1

/-- A ring command of an opcode at an index that may start (R525, R526, R531), and whose reserved fields are 0. -/
def Startable (s : State) (r : RingNo) (idx : Word32) (op : Nat) (c : RingCmd) : Prop :=
  ((s.pair r).cmds.find? fun c => c.idx = idx && c.op = op) = some c ∧ mayStart s r c = true ∧ c.rsvOk = true

/-- The state once that command has started. -/
def cmdBegun (s : State) (r : RingNo) (idx : Word32) : State :=
  s.updPair r fun p => { p with cmds := p.cmds.map fun e => if e.idx = idx then { e with started := true } else e }

/-- R526: the command of a ring pair at an index has executed with a status and a RESULT. -/
def CmdDone (t : State) (r : RingNo) (idx : Word32) (status result : Nat) : Prop :=
  ∃ c ∈ (t.pair r).cmds, c.idx = idx ∧ c.done = some (status, result % 2 ^ 64)

/-- Between two states a ring command has started and executed, and nothing else has happened. -/
def OnlyDone (s t : State) (r : RingNo) (idx : Word32) (status result : Nat) : Prop :=
  OnlyPair (cmdBegun s r idx) t r { (cmdBegun s r idx).pair r with cmds := ((cmdBegun s r idx).pair r).cmds.map fun c =>
    if c.idx = idx && c.done = none then { c with done := some (status, result % 2 ^ 64) } else c }

/-- A seat whose instruction of n bytes has completed (R67). -/
def Seat.past (t : Seat) (n : Nat) : Seat := { t with pc := t.pc + BitVec.ofNat 64 n, resume := 0 }

/-- R83, R85, R100, R101: between two states one seat has taken a synchronous exception, and nothing else has changed but where the
second pair is in use: the coach stops there, after its caches have emptied. -/
def Traps (s t : State) (r : SeatRef) (cause detail : Nat) : Prop :=
  ((s.seat r).estat2.ex = false → (s.seat r).estat.ex = false → OnlySeat s t r (enterFirst (s.seat r) cause 0 detail)) ∧
  ((s.seat r).estat2.ex = false → (s.seat r).estat.ex = true → OnlySeat s t r (enterSecond (s.seat r) cause 0 detail)) ∧
  ((s.seat r).estat2.ex = true → (t.coach r.coach).stopped = some (r.seat, BitVec.ofNat 6 cause, 0))

/-- R56, R58, R120: a seat that may issue, on a coach whose vector pipes are awake. -/
def vecReady (s : State) (r : SeatRef) : Prop :=
  canIssue s r = true ∧ (s.coach r.coach).gated = false ∧ (s.coach r.coach).waking = false

/-- R120: a vector instruction runs: the pipes of the coach are not idle. -/
def awake (s : State) (c : Nat) : State := s.updCoach c fun k => { k with idle := 0 }

/-- R111: element i of a word's elements is active. -/
abbrev activeElem (q : Seat) (w : VecWord) (i : Nat) : Prop :=
  bits (q.rp w.pg).toNat (2 ^ w.ew.toNat * i) (2 ^ w.ew.toNat) = 2 ^ (2 ^ w.ew.toNat) - 1

/-- R114: no active element of a source register lies in a poisoned segment. -/
def cleanSource (q : Seat) (w : VecWord) (n : RegNo) : Prop :=
  ∀ i < 256 / 2 ^ w.ew.toNat, activeElem q w i → (q.rvp n).getLsbD (2 ^ w.ew.toNat * i / 32) = false

/-- R111, R117: between two states a vector instruction of one seat has completed whose result has the elements `f`: active elements
of Vd take them, inactive ones are 0 or stay, and no other register changes, nor anything outside the seat. -/
def VecResult (s t : State) (r : SeatRef) (w : VecWord) (f : Nat → Nat) : Prop :=
  let q := s.seat r
  let n := 2 ^ w.ew.toNat
  ∃ q' : Seat, OnlySeat (awake s r.coach) t r (q'.past 4) ∧ q' = { q with v := q'.v, vp := q'.vp } ∧
    (∀ m, m ≠ w.vd → q'.rv m = q.rv m ∧ q'.rvp m = q.rvp m) ∧
    ∀ i < 256 / n,
      (activeElem q w i → velem n (q'.rv w.vd) i = f i % 2 ^ (8 * n)) ∧
      (¬activeElem q w i → velem n (q'.rv w.vd) i = if w.zm then 0 else velem n (q.rv w.vd) i)

/-- R635: a statistics counter of w bits after k more. -/
def counted (w k : Nat) (c : Stat) : Stat := ⟨min (c.val + k) (2 ^ w - 1), c.ovf || 2 ^ w - 1 ≤ c.val + k⟩

end Sys2Proof.Machine
end

