-- ==== Sys2Proof/Certificates/Slice0/Obligations.lean ====
section
/-! DEFINITION. The statements about the model that the provers prove. -/

open Sys2Proof Sys2Proof.Machine

/-- R9, R21, R632: the input comes up; every register takes its Reset value, no image is verified, and no rail that waits for one is on. What
stands outside module memory stays. R21, R553, R632: Thonar's image is verified first, by its ROM; each other image once Thonar runs; the
stack rails come with the last image, the SRAM and core rails behind them, and an engine's rail with its own image. R603, R324, R633: memory
is trained, every channel at the temperature and time of now, and READY becomes 1; with HALT_N low the module enters Halted with SOURCE 1.
Choices of the model, not rules: rows 2, 3, 63 and 64 of the assumption log. -/
def Obligations.PowerUpSequence : Prop :=
  -- power on
  ((∀ s : State, s.sys.input = false → s.sys.seated = true → Answers .powerOn s fun t =>
    t.sys.input = true ∧ t.sys.thonar = false ∧ t.sys.imgUcode = false ∧ t.sys.imgTender = false ∧ t.sys.imgMem = 0 ∧
    t.sys.imgDsp = 0 ∧ t.sys.railMem = 0 ∧ t.sys.railCore = false ∧ t.sys.railEng = 0 ∧ t.sys.ready = false ∧
    t.sys.cxlUp = false ∧ t.sys.hostRstN = s.sys.hostRstN ∧ t.sys.haltN = s.sys.haltN ∧ t.sys.posMap = s.sys.posMap ∧
    (∀ r : SeatRef, t.seat r = {}) ∧ t.time = {} ∧ t.mem.cells = [] ∧ t.mem.key = t.consist.key ∧ t.mgmt.sessions = [] ∧
    t.mgmt.creds = s.mgmt.creds ∧ t.sems = [] ∧ t.ledger = {} ∧ t.movers = [] ∧
    t.hostMem = s.hostMem ∧ t.flash = s.flash ∧ t.pending = s.pending) ∧
  ∀ s : State, (s.sys.input = true ∨ s.sys.seated = false) → exec .powerOn s = .next s) ∧
  -- images verified
  ((∀ s comp, (s.sys.input = false ∨ (comp ≠ .thonar ∧ s.sys.thonar = false)) → exec (.imageVerifyComplete comp) s = .next s) ∧
  ∀ s comp, s.sys.input = true → s.sys.tripped = false → (comp = .thonar ∨ s.sys.thonar = true) →
    Answers (.imageVerifyComplete comp) s fun t =>
      t.sys.thonar = true ∧
      (t.sys.imgUcode = (s.sys.imgUcode || comp = .microcode)) ∧ (t.sys.imgTender = (s.sys.imgTender || comp = .tender)) ∧
      (∀ k : Fin 8, t.sys.imgMem.getLsbD k = (s.sys.imgMem.getLsbD k || comp = .memCtl k)) ∧
      (∀ e : Fin 4, t.sys.imgDsp.getLsbD e = (s.sys.imgDsp.getLsbD e || comp = .dsp e)) ∧
      (t.sys.railMem = if t.sys.imgUcode ∧ t.sys.imgTender ∧ t.sys.imgMem = 0xFF ∧ t.sys.imgDsp = 0xF then 0xFF else s.sys.railMem) ∧
      (t.sys.railCore = (s.sys.railCore || t.sys.railMem = 0xFF)) ∧
      (t.sys.railEng = if t.sys.railCore then s.sys.railEng ||| t.sys.imgDsp else s.sys.railEng) ∧
      t = { s with sys := { s.sys with
        thonar := t.sys.thonar, imgUcode := t.sys.imgUcode, imgTender := t.sys.imgTender, imgMem := t.sys.imgMem,
        imgDsp := t.sys.imgDsp, railMem := t.sys.railMem, railCore := t.sys.railCore, railEng := t.sys.railEng } }) ∧
  -- ready after training
  (∀ s : State, s.sys.ready = false → s.sys.hostRstN = true → s.sys.thonar = true → s.sys.railMem = 0xFF → s.sys.railCore = true →
    Answers .memoryTrainedReady s fun t =>
      t.sys = { s.sys with ready := true, readyAt := s.time.ns } ∧
      t.mem = { s.mem with trained := t.mem.trained } ∧
      (∀ c < 256, mget (0, 0) t.mem.trained c = ((s.stack (c / 32)).temp, s.time.ns)) ∧
      (s.sys.haltN = true → t = { s with sys := t.sys, mem := t.mem }) ∧
      (s.sys.haltN = false → t.halt.state = 2 ∧ t.halt.source = 1 ∧ t.mgmt = s.mgmt ∧ t.time = s.time ∧ t.coaches = s.coaches))

/-- R9, R542, R576, R615, R630, R631: HOST_RST_N low holds the compute die in reset, closes sessions and clears the mailbox; its deassertion
gives every register its Reset value but those of the time window, loads the memory key and empties module memory (row 3 of the log: memory
reads as 0 there). R519, R615: the function-level reset stops the module with SOURCE 4; every pair goes Off and none of its commands is
left; the mailbox is cleared; sessions and the current consist stay, and no module memory is lost. R516, R517, R604: the link comes up at
the best rate and at 16 or 8 lanes, goes down with its IDE streams, takes the keys of a stream, and goes down when a protected stream fails
its integrity check: the commands in flight then complete at the next resume. R554, R566, R572, R620, R623: a module that leaves its seat
loses its input and every rail; POWER_ON over a management path starts the sequence again after a trip, is turned away while a leak is
sensed, and wants a trip. Choices of the model, not rules: rows 2, 3, 63, 64 and 65 of the assumption log. -/
def Obligations.ResetsAndLink : Prop :=
  -- host reset
  ((∀ s : State, Answers .hostRstAssert s fun t =>
    t.sys.hostRstN = false ∧ t.sys.ready = false ∧ t.sys.cxlUp = false ∧ t.mgmt.sessions = [] ∧ t.mgmt.state = 0 ∧
    t.mgmt.done = false ∧ t.mgmt.reject = false ∧ t.mgmt.len = 0 ∧ t.mgmt.buf = [] ∧ t.mgmt.resp = none ∧
    t.time = s.time ∧ t = { s with sys := t.sys, mgmt := t.mgmt } ∧ (∀ c, coachRuns t c = false)) ∧
  (∀ s : State, s.sys.hostRstN = true → exec .hostRstDeassert s = .next s) ∧
  ∀ s : State, s.sys.hostRstN = false → Answers .hostRstDeassert s fun t =>
    t.sys.hostRstN = true ∧ t.sys.ready = false ∧ t.sys.rate = 0 ∧ t.sys.width = 0 ∧ t.sys.posMap = s.sys.posMap ∧
    (∀ r : SeatRef, t.seat r = {}) ∧ (∀ c a r, (t.coach c).accRow a r = {}) ∧
    t.time = { s.time with tods := t.time.tods } ∧ t.mem.cells = [] ∧ t.mem.key = t.consist.key ∧
    t.sems = [] ∧ t.ledger = {} ∧ t.movers = [] ∧ t.colls = [] ∧ t.mgmt.ien = false ∧ t.mgmt.creds = s.mgmt.creds ∧
    t.hostMem = s.hostMem ∧ t.flash = s.flash ∧ t.pending = s.pending) ∧
  -- function level reset
  ((∀ s : State, s.sys.cxlUp = false → exec .functionLevelReset s = .next s) ∧
  ∀ s : State, s.sys.cxlUp = true → Answers .functionLevelReset s fun t =>
    t.halt.state = 2 ∧ ((∀ b ∈ s.rings.boundary, b.op ≠ 0x10) → t.halt.source = 4) ∧ (∀ e ∈ s.rings.pairs, (t.pair e.1).state = 0 ∧ (t.pair e.1).cmds = []) ∧
    t.mgmt.state = 0 ∧ t.mgmt.resp = none ∧ t.mgmt.buf = [] ∧ t.mgmt.sessions = s.mgmt.sessions ∧ t.mgmt.cur = s.mgmt.cur ∧
    (s.rings.boundary = [] → t.mem = s.mem ∧ t.coaches = s.coaches ∧ t.sys = s.sys ∧ t.hostMem = s.hostMem ∧ t.flash = s.flash ∧
      t.power = s.power ∧ t.llc = s.llc)) ∧
  -- host link
  ((∀ s (rate : Fin 4) (lanes : Fin 17), s.sys.hostRstN = true → s.sys.railCore = true →
    exec (.cxlLinkUp rate lanes) s = .next { s with sys :=
      if rate = 0 ∨ lanes.val < 8 then { s.sys with cxlUp := false, linkDown := true, ideCm := false, ideIo := false }
      else { s.sys with cxlUp := true, linkDown := false, rate := rate, width := if lanes.val < 16 then 8 else 16 } }) ∧
  (∀ s : State, exec .cxlLinkDown s = .next { s with sys :=
    { s.sys with cxlUp := false, linkDown := true, ideCm := false, ideIo := false } }) ∧
  (∀ s io, s.sys.cxlUp = true → exec (.spdmIdeKeyExchange io) s = .next { s with sys :=
    if io then { s.sys with ideIo := true } else { s.sys with ideCm := true } }) ∧
  (∀ s io, (if io then s.sys.ideIo else s.sys.ideCm) = false → exec (.ideIntegrityFailure io) s = .next s) ∧
  ∀ s io, (if io then s.sys.ideIo else s.sys.ideCm) = true → Answers (.ideIntegrityFailure io) s fun t =>
    t.sys = { s.sys with cxlUp := false, linkDown := true, ideCm := false, ideIo := false } ∧
    (∀ e ∈ s.rings.pairs, ∀ c ∈ (t.pair e.1).cmds, c.done = none → c.stale = true) ∧
    t = { s with sys := t.sys, rings := { s.rings with pairs := t.rings.pairs } }) ∧
  -- seating
  ((∀ s : State, exec (.presentChange true) s = .next { s with sys := { s.sys with seated := true } }) ∧
  (∀ s : State, Answers (.presentChange false) s fun t =>
    t.sys.seated = false ∧ t.sys.input = false ∧ t.sys.thonar = false ∧ t.sys.railMem = 0 ∧ t.sys.railCore = false ∧
    t.sys.railEng = 0 ∧ t.sys.cxlUp = false ∧ t.sys.ready = false ∧ t.coaches = s.coaches ∧ t.mgmt = s.mgmt ∧
    t.flash = s.flash ∧ t.hostMem = s.hostMem) ∧
  ∀ s p ask pl, Oldest s p 0x56 ask pl → Answers (.powerOnCmd p) s fun t =>
    if s.sys.tripped = true ∧ s.power.leakLow = false ∧ s.sys.input = true then
      Answered s t ask 0 [] ∧ t.sys.tripped = false ∧ t.sys.leakTrip = false ∧ t.sys.railMem = 0 ∧ t.sys.railCore = false ∧
        t.sys.imgUcode = false
    else Answered s t ask 5 [] ∧ t.sys = s.sys)

/-- R640, R644: every register form: its result goes to X[rd], the seat goes on behind the instruction, and nothing else of the module changes;
a function outside the table is an illegal instruction; a poisoned source raises cause 5. R640: every immediate form, with its extension of
the immediate; shift counts of 64 and more, and an ADDPC with rs1 not 0, are illegal instructions. R62, R63: X0 reads as 0 and as clean, a
write of it is discarded, and a write of another register changes that register alone. -/
def Obligations.ScalarArithmetic : Prop :=
  -- scalar register forms
  (let forms : List (BitVec 11 × (Word → Word → Word)) :=
    [(0x000, fun a b => a + b), (0x001, fun a b => a - b), (0x002, fun a b => a &&& b), (0x003, fun a b => a ||| b),
     (0x004, fun a b => a ^^^ b), (0x005, fun a b => a &&& ~~~b),
     (0x008, fun a b => if 64 ≤ b.toNat then 0 else a <<< b.toNat), (0x009, fun a b => if 64 ≤ b.toNat then 0 else a >>> b.toNat),
     (0x00A, fun a b => a.sshiftRight (min b.toNat 63)),
     (0x010, fun a b => if a.toInt < b.toInt then 1 else 0), (0x011, fun a b => if a.toNat < b.toNat then 1 else 0),
     (0x012, fun a b => if a = b then 1 else 0),
     (0x014, fun a b => if a.toInt ≤ b.toInt then a else b), (0x015, fun a b => if a.toInt ≤ b.toInt then b else a),
     (0x016, fun a b => if a.toNat ≤ b.toNat then a else b), (0x017, fun a b => if a.toNat ≤ b.toNat then b else a),
     (0x020, fun a b => a * b), (0x021, fun a b => BitVec.ofInt 64 (a.toInt * b.toInt / 2 ^ 64)),
     (0x022, fun a b => BitVec.ofNat 64 (a.toNat * b.toNat / 2 ^ 64)),
     (0x028, fun a b => if b = 0 then BitVec.allOnes 64 else BitVec.ofInt 64 (a.toInt.tdiv b.toInt)),
     (0x029, fun a b => if b = 0 then BitVec.allOnes 64 else BitVec.ofNat 64 (a.toNat / b.toNat)),
     (0x02A, fun a b => if b = 0 then a else BitVec.ofInt 64 (a.toInt.tmod b.toInt)),
     (0x02B, fun a b => if b = 0 then a else BitVec.ofNat 64 (a.toNat % b.toNat))]
  ∀ s sr fn rd rs1 rs2, mayIssue s sr (.scalarIntRegOp sr fn rd rs1 rs2) = true →
    (∀ f, (fn, f) ∈ forms → (s.seat sr).rxp rs1 = false → (s.seat sr).rxp rs2 = false →
      Answers (.scalarIntRegOp sr fn rd rs1 rs2) s fun t =>
        OnlySeat s t sr (((s.seat sr).wx rd (f ((s.seat sr).rx rs1) ((s.seat sr).rx rs2))).past 4)) ∧
    (fn ∉ forms.map (·.1) → Answers (.scalarIntRegOp sr fn rd rs1 rs2) s fun t => Traps s t sr 0 0) ∧
    (fn ∈ forms.map (·.1) → ((s.seat sr).rxp rs1 = true ∨ (s.seat sr).rxp rs2 = true) →
      Answers (.scalarIntRegOp sr fn rd rs1 rs2) s fun t => Traps s t sr 5 0)) ∧
  -- scalar immediate forms
  (∀ s sr op rd rs1 (imm : Half), mayIssue s sr (.scalarIntImmOp sr op rd rs1 imm) = true →
    let a := (s.seat sr).rx rs1
    let se : Word := imm.signExtend 64
    let ze : Word := imm.setWidth 64
    let result : Word := match op with
      | .addi => a + se
      | .andi => a &&& ze
      | .ori => a ||| ze
      | .xori => a ^^^ ze
      | .slli => a <<< imm.toNat
      | .srli => a >>> imm.toNat
      | .srai => a.sshiftRight imm.toNat
      | .slti => if a.toInt < se.toInt then 1 else 0
      | .sltui => if a.toNat < se.toNat then 1 else 0
      | .shiftin => a <<< 16 ||| ze
      | .addpc => (s.seat sr).pc + se <<< 16
    let bad : Prop := ((op = .slli ∨ op = .srli ∨ op = .srai) ∧ 64 ≤ imm.toNat) ∨ (op = .addpc ∧ rs1 ≠ 0)
    (¬bad → (s.seat sr).rxp rs1 = false → Answers (.scalarIntImmOp sr op rd rs1 imm) s fun t =>
      OnlySeat s t sr (((s.seat sr).wx rd result).past 4)) ∧
    (bad → Answers (.scalarIntImmOp sr op rd rs1 imm) s fun t => Traps s t sr 0 0) ∧
    (¬bad → (s.seat sr).rxp rs1 = true → Answers (.scalarIntImmOp sr op rd rs1 imm) s fun t => Traps s t sr 5 0)) ∧
  -- register zero
  (∀ (t : Seat) (n m : RegNo) v p,
    t.rx 0 = 0 ∧ t.rxp 0 = false ∧ t.wx 0 v p = t ∧
    (n ≠ 0 → (t.wx n v p).rx n = v ∧ (t.wx n v p).rxp n = p) ∧
    (m ≠ n → (t.wx n v p).rx m = t.rx m ∧ (t.wx n v p).rxp m = t.rxp m) ∧
    t.wx n v p = { t with x := (t.wx n v p).x, xp := (t.wx n v p).xp })

/-- R85: what entry to the first pair does, step by step. R86: it reads no scalar register and not SSP, and no register, memory or other state
changes. R100: while ESTAT.EX is 1 the second pair takes the same values, the first stays, ESTAT whole, MASK with it (row 75 of the log),
the seat goes to VBASE + 0x400, and no interrupt is taken. Choices of the model, not rules: row 75 of the assumption log. -/
def Obligations.ExceptionEntry : Prop :=
  (∀ s (r : SeatRef) cause detail prog, cause < 64 → prog < 65536 → detail < 256 →
    let q := s.seat r
    let t := raiseSync r cause detail prog s
    let e := t.seat r
    (q.estat2.ex = false → t = { s with coaches := t.coaches } ∧ (∀ c, SameCoach (s.coach c) (t.coach c)) ∧
      (∀ r', r' ≠ r → t.seat r' = s.seat r') ∧ e.level = (if q.level = .m then .m else .s) ∧
      e = { q with epc := e.epc, estat := e.estat, epc2 := e.epc2, estat2 := e.estat2, mask := e.mask, level := e.level, pc := e.pc
                   resume := 0, wait := .none }) ∧
    (q.estat2.ex = false → q.estat.ex = false →
      e.mask = true ∧ e.epc = q.pc ∧ e.estat.cause.toNat = cause ∧ e.estat.pl = q.level ∧ e.estat.pmask = q.mask ∧ e.estat.prog.toNat = prog ∧
      e.estat.detail.toNat = detail ∧ e.estat.ex = true ∧ e.pc = q.vbase + BitVec.ofNat 64 (16 * cause) ∧
      e.epc2 = q.epc2 ∧ e.estat2 = q.estat2) ∧
    (q.estat2.ex = false → q.estat.ex = true →
      e.mask = q.mask ∧ e.epc2 = q.pc ∧ e.estat2.cause.toNat = cause ∧ e.estat2.pl = q.level ∧ e.estat2.pmask = q.mask ∧ e.estat2.prog.toNat = prog ∧
      e.estat2.detail.toNat = detail ∧ e.estat2.ex = true ∧ e.pc = q.vbase + BitVec.ofNat 64 0x400 ∧
      e.epc = q.epc ∧ e.estat = q.estat)) ∧
  (∀ (q : Seat) x xp ssp cause prog detail, ∀ enter ∈ [enterFirst, enterSecond],
    enter { q with x := x, xp := xp, ssp := ssp } cause prog detail = { enter q cause prog detail with x := x, xp := xp, ssp := ssp }) ∧
  ∀ s (r : SeatRef), (s.seat r).estat.ex = true → takeable s r = false

/-- R98: ERET at S or M restores pc, level and MASK from the second pair when ESTAT2.EX is 1, else from the first, clears EX there, and gives
the resume count; nothing else changes. R99, R642: a saved level above the current one, a seat at U, and a set unused field are illegal
instructions. -/
def Obligations.ExceptionReturn : Prop :=
  ∀ s sr (w : SysWord), mayIssue s sr (.eret sr w) = true →
    let q := s.seat sr
    let e := if q.estat2.ex then q.estat2 else q.estat
    let bad : Prop := q.level = .u ∨ w.rd ≠ 0 ∨ w.rs1 ≠ 0 ∨ w.num ≠ 0 ∨ w.rsv ≠ 0 ∨ levelCode q.level < levelCode e.pl
    (¬bad → Answers (.eret sr w) s fun t => OnlySeat s t sr
      { q with
        pc := if q.estat2.ex then q.epc2 else q.epc
        level := e.pl, mask := e.pmask, resume := e.prog.toNat
        estat := if q.estat2.ex then q.estat else { q.estat with ex := false }
        estat2 := if q.estat2.ex then { q.estat2 with ex := false } else q.estat2 }) ∧
    (bad → Answers (.eret sr w) s fun t => Traps s t sr 0 0)

/-- R641: a taken branch goes to the branch's own address plus four times its offset; another goes on; JUMP and JR go to their target. R62,
R103, R107: CALL and CALLR at M write the return address to X1. R103 to R106: at S and U CALL stores the return address in the slot below
SSP, whose page must be a shadow-stack page, and RET pops it; a popped value that differs from X1 raises cause 9. SSPSET's unwind form moves
SSP up by 8 i, its switch form to the stack whose head X[rs1] names, and both raise cause 0xA, DETAIL 2, outside shadow-stack pages. R106:
SSPSET's switch form: both heads lie in shadow-stack pages of the seat's level and hold their own addresses, the new head holds a parked
pointer to a valid slot and the old one none: then the old head parks SSP, the new one's is cleared, and SSP and SSH take the new stack.
Choices of the model, not rules: row 30 of the assumption log. -/
def Obligations.ControlFlow : Prop :=
  -- branches
  (∀ s sr,
    let ok (i : Instr) : Prop := mayIssue s sr i = true
    let q := s.seat sr
    let go (pc : Word) (q : Seat) : Seat := { q with pc := pc, resume := 0 }
    (∀ (cond rs1 : RegNo) off, ok (.branchCond sr cond rs1 off) → q.rxp rs1 = false → cond.toNat ≤ 5 → Answers (.branchCond sr cond rs1 off) s fun t =>
      let v := (q.rx rs1).toInt
      let taken := (cond = 0 ∧ v = 0) ∨ (cond = 1 ∧ v ≠ 0) ∨ (cond = 2 ∧ v < 0) ∨ (cond = 3 ∧ 0 ≤ v) ∨ (cond = 4 ∧ 0 < v) ∨ (cond = 5 ∧ v ≤ 0)
      OnlySeat s t sr (go (if taken then q.pc + 4 * off.signExtend 64 else q.pc + 4) q)) ∧
    (∀ (cond rs1 : RegNo) off, ok (.branchCond sr cond rs1 off) → 5 < cond.toNat → Answers (.branchCond sr cond rs1 off) s fun t => Traps s t sr 0 0) ∧
    (∀ off, ok (.jump sr off) → Answers (.jump sr off) s fun t => OnlySeat s t sr (go (q.pc + 4 * off.signExtend 64) q)) ∧
    (∀ rs1 : RegNo, q.rxp rs1 = false → (q.rx rs1).toNat % 4 = 0 →
      (ok (.jr sr 0 rs1 0) → Answers (.jr sr 0 rs1 0) s (fun t => OnlySeat s t sr (go (q.rx rs1) q))) ∧
      (ok (.callr sr 0 rs1 0) → q.level = .m → Answers (.callr sr 0 rs1 0) s fun t => OnlySeat s t sr (go (q.rx rs1) (q.wx 1 (q.pc + 4))))) ∧
    (∀ rs1 : RegNo, ok (.jr sr 0 rs1 0) → q.rxp rs1 = false → (q.rx rs1).toNat % 4 ≠ 0 → Answers (.jr sr 0 rs1 0) s fun t => Traps s t sr 4 0) ∧
    (∀ off, ok (.call sr off) → q.level = .m → Answers (.call sr off) s fun t =>
      OnlySeat s t sr (go (q.pc + 4 * off.signExtend 64) (q.wx 1 (q.pc + 4)))) ∧
    (ok (.ret sr 0 0 0) → q.level = .m → q.rxp 1 = false → (q.rx 1).toNat % 4 = 0 → Answers (.ret sr 0 0 0) s fun t => OnlySeat s t sr (go (q.rx 1) q))) ∧
  -- shadow stack
  ((∀ s sr off p u, mayIssue s sr (.call sr off) = true → (s.seat sr).level ≠ .m → ((s.seat sr).ssp - 8).toNat % 8 = 0 →
    translate sr .shadow ((s.seat sr).ssp - 8).toNat s = (.ok p, u) → Answers (.call sr off) s fun t =>
      let q := s.seat sr
      let st := storePhys sr p 8 (q.pc + 4).toNat 0 u
      OnlySeat st t sr { (st.seat sr).wx 1 (q.pc + 4) with ssp := q.ssp - 8, pc := q.pc + 4 * off.signExtend 64, resume := 0 }) ∧
  (∀ s sr p u, mayIssue s sr (.ret sr 0 0 0) = true → (s.seat sr).level ≠ .m → (s.seat sr).rxp 1 = false → (s.seat sr).ssp.toNat % 8 = 0 →
    translate sr .shadow (s.seat sr).ssp.toNat s = (.ok p, u) →
    let q := s.seat sr
    let v := (loadPhys sr p 8 u).1
    let l := deadRead sr v (loadPhys sr p 8 u).2
    v.poison = 0 →
      (v.data ≠ (q.rx 1).toNat → Answers (.ret sr 0 0 0) s fun t => Traps l t sr 9 0) ∧
      (v.data = (q.rx 1).toNat → (q.rx 1).toNat % 4 = 0 → Answers (.ret sr 0 0 0) s fun t =>
        OnlySeat l t sr { l.seat sr with ssp := (l.seat sr).ssp + 8, pc := q.rx 1, resume := 0 })) ∧
  (∀ s sr (w : SysWord) p u, mayIssue s sr (.sspsetUnwind sr w) = true → (s.seat sr).level ≠ .m → w.rd = 0 → w.rs1 = 0 → w.rsv = 0 →
    1 ≤ w.num.toNat → w.num.toNat ≤ 255 →
    let top := (s.seat sr).ssp + BitVec.ofNat 64 (8 * w.num.toNat)
    (top - 8).toNat % 8 = 0 → translate sr .shadow (top - 8).toNat s = (.ok p, u) → Answers (.sspsetUnwind sr w) s fun t =>
      OnlySeat u t sr ({ u.seat sr with ssp := top }.past 4)) ∧
  (∀ s sr (w : SysWord) p u, mayIssue s sr (.sspsetUnwind sr w) = true → (s.seat sr).level ≠ .m → w.rd = 0 → w.rs1 = 0 → w.rsv = 0 →
    1 ≤ w.num.toNat → w.num.toNat ≤ 255 →
    let top := (s.seat sr).ssp + BitVec.ofNat 64 (8 * w.num.toNat)
    (top - 8).toNat % 8 ≠ 0 → translate sr .shadow (top - 8).toNat s = (.ok p, u) →
    Answers (.sspsetUnwind sr w) s fun t => Traps u t sr 0xA 2)) ∧
  -- shadow stack switch
  (∀ s sr (w : SysWord) po pn pp u1 u2 u3 u4 u5 u6 u7 p, mayIssue s sr (.sspsetSwitch sr w) = true → (s.seat sr).level ≠ .m → w.rd = 0 → w.num = 0 → w.rsv = 0 →
    (s.seat sr).rxp w.rs1 = false →
    let old := (s.seat sr).ssh
    let new := (s.seat sr).rx w.rs1
    old.toNat % 16 = 0 → new.toNat % 16 = 0 → p % 8 = 0 → p ≠ 0 →
    translate sr .shadow old.toNat s = (.ok po, u1) → translate sr .shadow new.toNat u1 = (.ok pn, u2) →
    headWord sr po 8 u2 = ((old.toNat, false), u3) → headWord sr pn 8 u3 = ((new.toNat, false), u4) →
    headWord sr po 0 u4 = ((0, false), u5) → headWord sr pn 0 u5 = ((p, false), u6) →
    translate sr .shadow p u6 = (.ok pp, u7) →
    Answers (.sspsetSwitch sr w) s fun t =>
      let v := storePhys sr pn 8 0 0 (storePhys sr po 8 (u7.seat sr).ssp.toNat 0 u7)
      OnlySeat v t sr ({ v.seat sr with ssh := new, ssp := BitVec.ofNat 64 p }.past 4))

/-- R639, R82, R63: a scalar load of 2^SIZE bytes puts the extended value in X[rd], with the poison of the bytes it read; a floating-point load
puts it in F[rd] with every other bit of V[rd] 0; an address that is not a multiple of the size is a misaligned access. R639, R82, R114: a
store puts the low 2^SIZE bytes of X[rd], or of F[rd], at the address, and the seat goes on; nothing changes but what the store of those
bytes changes. R250, R255, R258: while a coach holds a line in its L1 data cache, and no LADD of the coach and no buffered bytes stand
before the access, a store to a write-back page and a load are served there: a load of any bytes of the line that follows a store returns
the stored bytes where they were stored and the earlier ones elsewhere, and neither the last-level cache, nor module memory, nor host memory
has changed. R281 to R285, R292: a LADD of an aligned address in cached module memory leaves the seat with its addend, behind the coach's
earlier adds to the line and its own copy of it, and the seat goes on; the 33rd add in flight of a coach waits; an FP32 add needs UOK; a
misaligned one traps. Choices of the model, not rules: rows 26, 32, 76 and 77 of the assumption log. -/
def Obligations.LoadsAndStores : Prop :=
  -- loads
  (∀ s sr (size : BitVec 2) (off : BitVec 14) (rd rs1 : RegNo), (s.seat sr).rxp rs1 = false →
    let n := 2 ^ size.toNat
    let va := ((s.seat sr).rx rs1 + off.signExtend 64 * BitVec.ofNat 64 n).toNat
    (∀ sg, mayIssue s sr (.scalarLoad sr sg size off rd rs1) = true → va % n ≠ 0 → Answers (.scalarLoad sr sg size off rd rs1) s fun t => Traps s t sr 4 0) ∧
    ∀ p u, va % n = 0 → translate sr .load va s = (.ok p, u) → p.space ≠ .remote →
      let v := (loadPhys sr p n u).1
      let l := deadRead sr v (loadPhys sr p n u).2
      (∀ sg, mayIssue s sr (.scalarLoad sr sg size off rd rs1) = true → Answers (.scalarLoad sr sg size off rd rs1) s fun t => OnlySeat l t sr
        (((l.seat sr).wx rd (if sg then BitVec.ofInt 64 (sInt (8 * n) v.data) else BitVec.ofNat 64 (v.data % 2 ^ (8 * n)))
          (v.poison ≠ 0)).past 4)) ∧
      (mayIssue s sr (.fpLoad sr size off rd rs1) = true → size ≠ 0 → Answers (.fpLoad sr size off rd rs1) s fun t => OnlySeat l t sr
        (((l.seat sr).wv rd (BitVec.ofNat 2048 (v.data % 2 ^ (8 * n))) (if v.poison ≠ 0 then 1 else 0)).past 4))) ∧
  -- stores
  (∀ s sr (size : BitVec 2) (off : BitVec 14) (rd rs1 : RegNo), (s.seat sr).rxp rs1 = false →
    let n := 2 ^ size.toNat
    let va := ((s.seat sr).rx rs1 + off.signExtend 64 * BitVec.ofNat 64 n).toNat
    let ok (i : Instr) : Prop := mayIssue s sr i = true
    (∀ p u, va % n = 0 → translate sr .store va s = (.ok p, u) → p.space ≠ .remote →
      (ok (.scalarStore sr size off rd rs1) → (s.seat sr).rxp rd = false → Answers (.scalarStore sr size off rd rs1) s fun t =>
        let st := storePhys sr p n ((s.seat sr).rx rd).toNat 0 u
        OnlySeat st t sr ((st.seat sr).past 4)) ∧
      (ok (.fpStore sr size off rd rs1) → size ≠ 0 → ((s.seat sr).rvp rd).getLsbD 0 = false → Answers (.fpStore sr size off rd rs1) s fun t =>
        let st := storePhys sr p n ((s.seat sr).rf rd) 0 u
        OnlySeat st t sr ((st.seat sr).past 4))) ∧
    (ok (.fpStore sr size off rd rs1) → size = 0 → Answers (.fpStore sr size off rd rs1) s fun t => Traps s t sr 0 0) ∧
    (ok (.fpLoad sr size off rd rs1) → size = 0 → Answers (.fpLoad sr size off rd rs1) s fun t => Traps s t sr 0 0) ∧
    (ok (.scalarStore sr size off rd rs1) → va % n ≠ 0 → (s.seat sr).rxp rd = false → Answers (.scalarStore sr size off rd rs1) s fun t => Traps s t sr 4 0)) ∧
  -- store then load
  (∀ (s : State) (r : SeatRef) (p : Phys) n d (l : CLine), p.space = .mem → p.cached = true → p.wt = false →
    p.pa % 128 + n ≤ 128 → (s.coach r.coach).l1.find? (ofLine (p.pa / 128) false) = some l →
    (s.coach r.coach).mbuf = [] → (s.coach r.coach).fills = [] → s.llc.adds = [] → s.llc.fwd = [] → (∀ c, (s.coach c).ladds = []) →
    (∀ k, (s.stack k).requests = []) →
    let t := storePhys r p n d 0 s
    let was (a : Nat) : Nat := (loadPhys r { p with pa := a } 1 s).1.data
    let now (a : Nat) : Nat := (loadPhys r { p with pa := a } 1 t).1.data
    (∀ i < n, now (p.pa + i) = d / 2 ^ (8 * i) % 256) ∧
    (∀ a, a / 128 = p.pa / 128 → (a < p.pa ∨ p.pa + n ≤ a) → now a = was a) ∧
    t.llc = s.llc ∧ t.mem = s.mem ∧ t.hostMem = s.hostMem) ∧
  -- ladd issue
  (∀ s sr (rs1 rs2 : RegNo) (ty : BitVec 3), mayIssue s sr (.ladd sr 0 rs1 rs2 ty 0) = true → ty.toNat ≤ 4 → (s.seat sr).rxp rs1 = false → (s.seat sr).rxp rs2 = false →
    let n := if ty = 4 then 4 else 2 ^ ty.toNat
    let va := ((s.seat sr).rx rs1).toNat
    (va % n ≠ 0 → Answers (.ladd sr 0 rs1 rs2 ty 0) s fun t => Traps s t sr 4 0) ∧
    ∀ p u, va % n = 0 → translate sr .store va s = (.ok p, u) → p.space = .mem → p.cached = true →
      (ty = 4 → p.uok = false → Answers (.ladd sr 0 rs1 rs2 ty 0) s fun t => Traps u t sr 0xB 0) ∧
      ((ty = 4 → p.uok = true) → 32 ≤ inFlight u sr.coach → exec (.ladd sr 0 rs1 rs2 ty 0) s = .next u) ∧
      ((ty = 4 → p.uok = true) → inFlight u sr.coach < 32 → Answers (.ladd sr 0 rs1 rs2 ty 0) s fun t =>
        let a : LaddReq := ⟨sr, p.pa, ty.toNat, (s.seat sr).rx rs2, .here⟩
        let e := evictCopy sr.coach (p.pa / 128) false (waitOwn sr.coach (p.pa / 128) u)
        let v := if sliceFull e (sliceOf (p.pa / 128)) then
            e.updCoach sr.coach fun k => { k with ladds := k.ladds ++ [a] } else laddArrive e a
        OnlySeat v t sr ((v.seat sr).past 4)))

/-- R60 to R64, R642: CRD reads each control register of the table, at the levels that the table gives; a number outside it, a set unused field,
and a protected register at U are illegal instructions. R60 to R64, R75, R87, R89 to R91, R105, R642: CWR writes each control register that
may be written at the seat's level; bits that a register reserves read 0, ones written to PEND clear it, and the saved level 0b10 is
illegal. The rows of SEATCFG and PTROOT are the same instruction with its number fixed. R154, R157: a write of TFULL by a class C seat
releases the ungrouped tiles whose bits are 0, whose rows then read as 0, and marks full those whose bits are 1; on a class S seat it
changes nothing. It waits for the queued instructions of its seat. Choices of the model, not rules: row 66 of the assumption log. -/
def Obligations.ControlRegisters : Prop :=
  -- control register reads
  (∀ s sr (w : SysWord), mayIssue s sr (.crd sr w) = true →
    let q := s.seat sr
    let saved (e : Estat) : Nat := e.cause.toNat + 2 ^ 6 * b2n e.ex + 2 ^ 8 * b2n e.pmask + 2 ^ 9 * levelCode e.pl +
      2 ^ 16 * e.prog.toNat + 2 ^ 32 * e.detail.toNat
    let table : List (BitVec 12 × Word × Bool) :=
      [(0x010, q.epc, false),
       (0x011, BitVec.ofNat 64 (saved q.estat + 2 ^ 7 * b2n q.mask + 2 ^ 11 * levelCode q.level + 2 ^ 48 * q.pend.toNat), false),
       (0x012, q.epc2, false), (0x013, BitVec.ofNat 64 (saved q.estat2), false), (0x014, q.vbase, false), (0x020, q.ssp, true),
       (0x021, q.ssh, true), (0x030, BitVec.ofNat 64 (tfullWord (s.coach sr.coach) sr.seat), true),
       (0x040, BitVec.ofNat 64 (b2n (!q.classC) + 2 ^ 4 * sr.seat.val + 2 ^ 8 * sr.coach.val), true), (0x041, q.ptroot, false)]
    (∀ v u, (w.num, v, u) ∈ table → w.rs1 = 0 → w.rsv = 0 → (u = true ∨ q.level ≠ .u) → Answers (.crd sr w) s fun t =>
      OnlySeat s t sr ((q.wx w.rd v).past 4)) ∧
    (∀ v, (w.num, v, false) ∈ table → q.level = .u → Answers (.crd sr w) s fun t => Traps s t sr 0 0) ∧
    (w.num ∉ table.map (·.1) → Answers (.crd sr w) s fun t => Traps s t sr 0 0)) ∧
  -- control register writes
  (∀ s sr (w : SysWord), w.rd = 0 → w.rsv = 0 → (s.seat sr).rxp w.rs1 = false →
    let q := s.seat sr
    let v := q.rx w.rs1
    let saved : Estat := { cause := v.extractLsb' 0 6, ex := v.getLsbD 6, pmask := v.getLsbD 8, pl := levelOf (v.extractLsb' 9 2).toNat,
                           prog := v.extractLsb' 16 16, detail := v.extractLsb' 32 8 }
    let done (q' : Seat) (c : Instr) : Prop := mayIssue s sr c = true → Answers c s fun t => OnlySeat s t sr (q'.past 4)
    let traps (c : Instr) : Prop := mayIssue s sr c = true → Answers c s fun t => Traps s t sr 0 0
    (q.level ≠ .u →
      (w.num = 0x010 → done { q with epc := v } (.cwr sr w)) ∧
      (w.num = 0x014 → done { q with vbase := v >>> 12 <<< 12 } (.cwr sr w)) ∧
      (w.num = 0x020 → done { q with ssp := v } (.cwr sr w)) ∧
      (w.num = 0x021 → done { q with ssh := v >>> 4 <<< 4 } (.cwr sr w)) ∧
      (done { q with classC := !v.getLsbD 0 } (.cwrSeatcfg sr w.rs1)) ∧
      (done { q with ptroot := v <<< 13 >>> 13 } (.cwrPtroot sr w.rs1)) ∧
      (w.num = 0x011 → v.extractLsb' 9 2 ≠ 2 → mayIssue s sr (.cwr sr w) = true → Answers (.cwr sr w) s fun t => ∃ det, OnlySeat s t sr
        ({ q with estat := saved, mask := v.getLsbD 7, pend := q.pend &&& ~~~v.extractLsb' 48 16, pendDet := det }.past 4)) ∧
      (w.num = 0x011 → v.extractLsb' 9 2 = 2 → traps (.cwr sr w))) ∧
    (q.level = .m → w.num = 0x012 → done { q with epc2 := v } (.cwr sr w)) ∧
    (q.level = .m → w.num = 0x013 → v.extractLsb' 9 2 ≠ 2 → done { q with estat2 := saved } (.cwr sr w)) ∧
    (q.level ≠ .m → (w.num = 0x012 ∨ w.num = 0x013) → traps (.cwr sr w)) ∧
    (q.level = .u → traps (.cwr sr w) ∧ traps (.cwrSeatcfg sr w.rs1) ∧ traps (.cwrPtroot sr w.rs1))) ∧
  -- tile fullness write
  (∀ s sr (rs1 : RegNo), mayIssue s sr (.cwrTfull sr rs1) = true → (s.seat sr).rxp rs1 = false → (s.seat sr).level ≠ .u →
    let v := (s.seat sr).rx rs1
    ((s.seat sr).classC = false → Answers (.cwrTfull sr rs1) s fun t => OnlySeat s t sr ((s.seat sr).past 4)) ∧
    ((s.seat sr).classC = true → Answers (.cwrTfull sr rs1) s fun t =>
      t = { s with coaches := t.coaches } ∧ (t.seat sr).pc = (s.seat sr).pc + 4 ∧ (t.coach sr.coach).grp = (s.coach sr.coach).grp ∧
      (t.seat sr).x = (s.seat sr).x ∧ (∀ c, c ≠ sr.coach.val → t.coach c = s.coach c) ∧
      ∀ i < 8, (s.coach sr.coach).grouped i = false →
        ((t.coach sr.coach).full sr.seat i = v.getLsbD i) ∧ (v.getLsbD i = false → ∀ r < 128, (t.seat sr).tileRow i r = {})))

/-- R77, R80, R81, R284, R398, R643: a fence of coach scope lets the seat go on; one of module or system scope waits for the partners'
acknowledgements, and then leaves the coach without a line, a buffered byte or a fill, and no add of the seat waits at a slice; the fetch
kind empties the instruction cache; a fence with no kind, a reserved scope, or a set unused field is illegal. R77, R643: TLBINV drops, from
the coach or from every coach, the entries of an address and ASID, of an ASID but global ones, or all, and every non-leaf entry; no other
entry goes, and nothing but the caches of translations and the seat's pc changes. R264 to R270: cache maintenance of an address in a cached
page: after CCLEAN the coach holds no dirty copy of the line, and after CINVAL, CCLINV and CDEAD it holds no copy, no buffered byte and no
fill of it; with POC, and always for CDEAD without the dead-memory flag, the last-level cache does not hold it either (CCLEAN leaves it
there clean); a page that is not cached is not acted on. Choices of the model, not rules: rows 29, 33 and 66 of the assumption log. -/
def Obligations.FencesAndCaches : Prop :=
  -- fences
  (∀ s sr (w : FenceWord), mayIssue s sr (.fence sr w) = true →
    let bad : Prop := w.rd ≠ 0 ∨ w.rs1 ≠ 0 ∨ w.rs2 ≠ 0 ∨ w.rsv ≠ 0 ∨ w.kinds = 0 ∨ w.scope = 3
    (bad → Answers (.fence sr w) s fun t => Traps s t sr 0 0) ∧
    (¬bad → w.scope ≠ 0 → (s.seat sr).remSt ≠ 0 → exec (.fence sr w) s = .next s) ∧
    (¬bad → w.scope = 0 → w.kinds.getLsbD 2 = false → Answers (.fence sr w) s fun t => OnlySeat s t sr ((s.seat sr).past 4)) ∧
    (¬bad → (w.scope = 0 ∨ (s.seat sr).remSt = 0) → Answers (.fence sr w) s fun t =>
      (t.seat sr).pc = (s.seat sr).pc + 4 ∧ (t.seat sr).x = (s.seat sr).x ∧
      (w.kinds.getLsbD 2 = true → (t.coach sr.coach).l1i = []) ∧
      (w.scope ≠ 0 → (t.coach sr.coach).l1 = [] ∧ (t.coach sr.coach).victim = [] ∧ (t.coach sr.coach).mbuf = [] ∧
        (t.coach sr.coach).fills = [] ∧
        ((∀ c, (s.coach c).ladds = []) → s.llc.fwd = [] → (∀ k, (s.stack k).requests = []) → (∀ a ∈ s.llc.adds, a.way = .here) →
          ∀ a ∈ t.llc.adds, a.sr ≠ sr)))) ∧
  -- translation cache invalidate
  (∀ s sr (w : TlbWord), mayIssue s sr (.tlbinv sr w) = true →
    let q := s.seat sr
    let bad : Prop := q.level = .u ∨ w.form = 3 ∨ 1 < w.scope.toNat ∨ w.rd ≠ 0 ∨ w.rsv ≠ 0 ∨ (w.form ≠ 0 ∧ w.rs1 ≠ 0) ∨
      (w.form = 2 ∧ w.rs2 ≠ 0)
    let asid : BitVec 12 := (q.rx w.rs2).setWidth 12
    let stays (e : TlbEntry) : Bool := match w.form.toNat with
      | 0 => !tlbHit asid (q.rx w.rs1).toNat e
      | 1 => e.pte.getLsbD 6 || e.asid != asid
      | _ => false
    (bad → Answers (.tlbinv sr w) s fun t => Traps s t sr 0 0) ∧
    (¬bad → q.rxp w.rs1 = false → q.rxp w.rs2 = false → Answers (.tlbinv sr w) s fun t =>
      t = { s with coaches := t.coaches } ∧ t.seat sr = q.past 4 ∧ (∀ r, r ≠ sr → t.seat r = s.seat r) ∧
      ∀ c < 96, if c = sr.coach.val ∨ w.scope = 1 then
          (t.coach c).tlb = (s.coach c).tlb.filter stays ∧ (t.coach c).nonleaf = []
        else (t.coach c).tlb = (s.coach c).tlb ∧ (t.coach c).nonleaf = (s.coach c).nonleaf)) ∧
  -- cache maintenance
  (∀ s sr (w : MaintWord), w.rd = 0 → w.rs2 = 0 → w.rsv = 0 → w.sw = false → (s.seat sr).rxp w.rs1 = false →
    let va := ((s.seat sr).rx w.rs1).toNat
    let gone (t : State) (p : Phys) : Prop :=
      let k := t.coach sr.coach
      let tag := p.pa / 128
      let host := decide (p.space = .host)
      k.copyOf tag host = none ∧ k.mbuf.all (fun e => !ofEntry tag host e) = true ∧ k.fills.all (fun e => !ofEntry tag host e) = true
    let ok (i : Instr) : Prop := mayIssue s sr i = true
    let on (t : State) : Prop := (t.seat sr).pc = (s.seat sr).pc + 4 ∧ (t.seat sr).x = (s.seat sr).x
    (∀ p u, ok (.cclean sr w) → translate sr .load va s = (.ok p, u) → Answers (.cclean sr w) s fun t =>
      if p.cached then
        on t ∧ ((t.coach sr.coach).l1 ++ (t.coach sr.coach).victim).all
          (fun l => !(ofLine (p.pa / 128) (decide (p.space = .host)) l && l.dirty)) = true ∧
        (w.poc = true → p.space = .mem → ∀ l, llcLine t (p.pa / 128) = some l → l.dirty = false)
      else OnlySeat u t sr ((u.seat sr).past 4)) ∧
    ∀ p u, translate sr .store va s = (.ok p, u) →
      (ok (.cinval sr w) → Answers (.cinval sr w) s fun t =>
        if p.cached then on t ∧ gone t p ∧ (w.poc = true → p.space = .mem → llcLine t (p.pa / 128) = none)
        else OnlySeat u t sr ((u.seat sr).past 4)) ∧
      (ok (.cclinv sr w) → Answers (.cclinv sr w) s fun t =>
        if p.cached then on t ∧ gone t p ∧ (w.poc = true → p.space = .mem → llcLine t (p.pa / 128) = none)
        else OnlySeat u t sr ((u.seat sr).past 4)) ∧
      (ok (.cdead sr w) → s.expert 3 = false → Answers (.cdead sr w) s fun t =>
        if p.cached then on t ∧ gone t p ∧ (p.space = .mem → llcLine t (p.pa / 128) = none)
        else OnlySeat u t sr ((u.seat sr).past 4)))

/-- R84, R92, R93, R96, R97: an interrupt becomes pending once, with the DETAIL of its first occurrence; a takeable seat takes the lowest
pending cause, which leaves PEND; a masked seat holds it. An instruction that comes to a seat for which an interrupt may be taken finds the
interrupt taken first, unless it is to run into it. R102: a drain request is cause 0x23, with the time from which its 10 ms count; one that
has waited so long stops the coach. R51, R56, R57, R84, R93: a beat of a coach is counted, and seats for which an interrupt is due take it
first. Then the next ready seat in turn fetches its word and runs the instruction that it spells, and a second one may follow that pairs
with it; without a ready seat nothing else happens. A fetch that meets an exception raises it with the seat's resume count (R96). A coach
that does not run has no beat. Each instruction command has the effect that the issue of its word has. R59, R120 to R122, R159: a coach
whose vector queue has been empty for the threshold gates its pipes; an instruction that finds them gated stands in the queue, one that
accesses memory before it acts and any other with its result owed, and wakes them, and the wake is counted; when the wake completes, the
queue runs in its order and is empty, and a TGRP that waited for it switches group mode. Choices of the model, not rules: rows 16, 27 and 28
of the assumption log. -/
def Obligations.SeatIssueAndInterrupts : Prop :=
  -- interrupts
  ((∀ s sr (k : Fin 8) (d : Byte), Answers (.interruptPendingSet sr k d) s fun t =>
    t = { s with coaches := t.coaches } ∧ (∀ r, r ≠ sr → t.seat r = s.seat r) ∧
    (∀ c, c ≠ sr.coach.val → t.coach c = s.coach c) ∧
    t.seat sr = (if (s.seat sr).pend.getLsbD k then s.seat sr
      else { s.seat sr with pend := (s.seat sr).pend ||| (1 : BitVec 16) <<< k.val, pendDet := mset 0 (s.seat sr).pendDet k d }) ∧
    t.coach sr.coach = { s.coach sr.coach with
      seats := (t.coach sr.coach).seats
      drainAt := if k = 3 ∧ (s.seat sr).pend.getLsbD 3 = false then mset none (s.coach sr.coach).drainAt sr.seat (some s.time.ns)
        else (s.coach sr.coach).drainAt }) ∧
  (∀ s sr, takeable s sr = false → exec (.interruptTaken sr) s = .next s) ∧
  (∀ s sr (k : Nat), takeable s sr = true → k < 16 → (s.seat sr).pend.getLsbD k = true → (∀ j < k, (s.seat sr).pend.getLsbD j = false) →
    Answers (.interruptTaken sr) s fun t =>
      (t.seat sr).epc = (s.seat sr).pc ∧ (t.seat sr).estat.cause.toNat = 0x20 + k ∧
      (t.seat sr).estat.prog = BitVec.ofNat 16 (s.seat sr).resume ∧ (t.seat sr).estat.detail = mget 0 (s.seat sr).pendDet k ∧
      (t.seat sr).pc = (s.seat sr).vbase + BitVec.ofNat 64 (16 * (0x20 + k)) ∧ (t.seat sr).pend.getLsbD k = false ∧
      (∀ j, j ≠ k → (t.seat sr).pend.getLsbD j = (s.seat sr).pend.getLsbD j) ∧ (t.seat sr).wait = .none ∧
      (t.seat sr).x = (s.seat sr).x ∧ (∀ r, r ≠ sr → t.seat r = s.seat r) ∧ t = { s with coaches := t.coaches }) ∧
  (∀ s sr rd rs1 imm op, takeable s sr = true → Answers (.scalarIntImmOp sr op rd rs1 imm) s fun t =>
    exec (.interruptTaken sr) s = .next t) ∧
  (∀ s sr mc, (s.seat sr).pend.getLsbD 3 = false → Answers (.drainRequest sr mc) s fun t =>
    (t.seat sr).pend.getLsbD 3 = true ∧ (mget 0 (t.seat sr).pendDet 3).toNat = b2n mc ∧
    mget none (t.coach sr.coach).drainAt sr.seat = some s.time.ns ∧ (∀ r, r ≠ sr → t.seat r = s.seat r) ∧
    t = { s with coaches := t.coaches }) ∧
  (∀ s sr a, mget none (s.coach sr.coach).drainAt sr.seat = some a → (s.seat sr).pend.getLsbD 3 = true → (s.coach sr.coach).stopped = none →
    (a + 10000000 ≤ s.time.ns → Answers (.drainTimeout sr) s fun t => (t.coach sr.coach).stopped = some (sr.seat, 0x23, 1)) ∧
    (s.time.ns < a + 10000000 → exec (.drainTimeout sr) s = .next s))) ∧
  -- issue beat
  ((∀ s (c : Fin 96), coachRuns s c = false → exec (.issueBeat c) s = .next s) ∧
  (∀ s (c : Fin 96), coachRuns s c = true → (∀ t : Fin 4, canIssue s ⟨c, t⟩ = false) → (∀ t : Fin 4, takeable s ⟨c, t⟩ = false) →
    Answers (.issueBeat c) s fun t =>
      (t.coach c).beats = counted 64 1 (s.coach c).beats ∧ (t.coach c).now = (s.coach c).now + 1 ∧
      (∀ r, t.seat r = s.seat r) ∧ t.mem = s.mem ∧ t.llc = s.llc) ∧
  (∀ s (c : Fin 96) (d : Fin 4), coachRuns s c = true →
    let b := takeAll c (countBeat c s)
    let turn (e : Nat) : SeatRef := ⟨c, seatFin ((b.coach c).rr.val + 1 + e)⟩
    let r := turn d
    let g := b.updCoach c fun k => { k with rr := r.seat }
    ready b r = true → (∀ e < d.val, ready b (turn e) = false) →
    (∀ w x u i, fetchInstr r g = ((.word w, x), u) → decodeWord r w x = some i →
      let v := instrRun i u
      let next := (g.seat r).pc + (if wordClass w = 0x3E then 8 else 4)
      exec (.issueBeat c) s = .next (if undisturbed r u v then runSecond r w next v else v) ∧
      ((v.seat r).pc ≠ next → exec (.issueBeat c) s = .next v)) ∧
    (∀ w x u, fetchInstr r g = ((.word w, x), u) → decodeWord r w x = none → Answers (.issueBeat c) s fun t => Traps u t r 0 0) ∧
    (∀ k e x u, fetchInstr r g = ((.exc k e, x), u) → exec (.issueBeat c) s = .next (raiseSync r k e (u.seat r).resume u))) ∧
  ∀ (s : State) (sr : SeatRef),
    let runs (i : Instr) : Prop := mayIssue s sr i = true → exec i s = .next (instrRun i s)
    (∀ fn rd rs1 rs2, runs (.scalarIntRegOp sr fn rd rs1 rs2)) ∧ (∀ off, runs (.jump sr off)) ∧ (∀ w, runs (.crd sr w)) ∧
    (∀ op w, runs (.vecIntOp sr op w)) ∧ (∀ t g rsv, runs (.trel sr t g rsv))) ∧
  -- vector power
  ((∀ s (c : Fin 96), (s.coach c).gated = false → (s.coach c).waking = false → (s.coach c).vq = [] →
    let n := if s.expert 4 then s.consist.gating else 4096
    (n ≠ 0 → n ≤ (s.coach c).idle → Answers (.vectorPipeGate c) s fun t => OnlyCoach s t c { s.coach c with gated := true }) ∧
    ((n = 0 ∨ (s.coach c).idle < n) → exec (.vectorPipeGate c) s = .next s)) ∧
  (∀ s sr (w : VecWord), (s.coach sr.coach).gated = true →
    (mayIssue s sr (.vld sr w) = true → Answers (.vld sr w) s fun t =>
      OnlyCoach s t sr.coach { s.coach sr.coach with vq := (s.coach sr.coach).vq ++ [⟨sr.seat, .vld sr w, false⟩] }) ∧
    ∀ op, mayIssue s sr (.vecIntOp sr op w) = true → cleanSource (s.seat sr) w w.vs1 → cleanSource (s.seat sr) w w.vs2 →
      Answers (.vecIntOp sr op w) s fun t =>
        (t.coach sr.coach).vq = (s.coach sr.coach).vq ++ [⟨sr.seat, .vecIntOp sr op w, true⟩] ∧
        t.seat sr = (vecIntOp sr op w s).seat sr ∧ (t.seat sr).pc = (s.seat sr).pc + 4 ∧ (∀ r, r ≠ sr → t.seat r = s.seat r) ∧
        (t.coach sr.coach).gated = true ∧ t = { s with coaches := t.coaches }) ∧
  (∀ s (c : Fin 96), (s.coach c).gated = true → (s.coach c).waking = false → (s.coach c).vq ≠ [] →
    (s.coach c).wakes.val + 1 < 2 ^ 64 - 1 → Answers (.vectorPipeWake c) s fun t =>
      OnlyCoach s t c { s.coach c with waking := true, wakes := counted 64 1 (s.coach c).wakes }) ∧
  (∀ s (c : Fin 96), (s.coach c).waking = false → exec (.vectorWakeComplete c) s = .next s) ∧
  ∀ s (c : Fin 96), (s.coach c).waking = true →
    let u := s.updCoach c fun k => { k with vq := [], waking := false, gated := false, idle := 0 }
    (∀ n i, (s.coach c).stopped = none → (s.coach c).vq = [⟨n, i, false⟩] →
      exec (.vectorWakeComplete c) s = .next (tgrpResume c (vecRun i u))) ∧
    ((∀ e ∈ (s.coach c).vq, e.ran = true) → exec (.vectorWakeComplete c) s = .next (tgrpResume c u) ∧
      (u.coach c).vq = [] ∧ (u.coach c).gated = false ∧
      ∀ (q : Fin 4) t on, ((s.coach c).seat q).wait = .tgrp t on → (∀ p : Fin 4, p ≠ q → ((s.coach c).seat p).wait = .none) →
        let v := tgrpResume c u
        (v.coach c).grouped t.toNat = on ∧ ((v.coach c).seat q).wait = .none ∧
          ((v.coach c).seat q).pc = ((s.coach c).seat q).pc + 4 ∧ ∀ p : Fin 4, p ≠ q → ((v.coach c).seat p).pc = ((s.coach c).seat p).pc))

/-- R111, R113, R116, R117, R199, R644: integer element operations: every active element of Vd takes the result at the element width, the others
stay or are 0, and nothing else changes; a source with an active element in a poisoned segment raises cause 5, DETAIL 1. R36, R116, R117,
R119, R202, R203, R636, R637: floating-point operations, fused multiply-adds (Vd is the addend) and conversions, element by element; an
active non-finite result sets the module's flag; 8-bit elements of VEC_FP_OP and VEC_FMA, and a pair of formats that VCVT does not list or a
width that is not that of the wider one, are illegal instructions. Choices of the model, not rules: rows 7, 8 and 16 of the assumption log. -/
def Obligations.VectorArithmetic : Prop :=
  -- vector integer
  (∀ s sr op (w : VecWord), vecReady s sr →
    let q := s.seat sr
    let n := 2 ^ w.ew.toNat
    let b := 8 * n
    let x (i : Nat) : Nat := velem n (q.rv w.vs1) i
    let y (i : Nat) : Nat := velem n (q.rv w.vs2) i
    let signed (v : Nat) : Int := if v < 2 ^ (b - 1) then (v : Int) else (v : Int) - 2 ^ b
    let f (i : Nat) : Nat := match op with
      | .add => (x i + y i) % 2 ^ b
      | .sub => (x i + 2 ^ b - y i) % 2 ^ b
      | .and => x i &&& y i
      | .or => x i ||| y i
      | .xor => x i ^^^ y i
      | .andn => x i &&& (2 ^ b - 1 - y i)
      | .sll => if b ≤ y i then 0 else x i <<< y i
      | .srl => if b ≤ y i then 0 else x i >>> y i
      | .sra => (signed (x i) / 2 ^ min (y i) b % (2 ^ b : Nat)).toNat
      | .min => if signed (x i) ≤ signed (y i) then x i else y i
      | .max => if signed (x i) ≤ signed (y i) then y i else x i
      | .minu => min (x i) (y i)
      | .maxu => max (x i) (y i)
      | .mul => x i * y i % 2 ^ b
    (cleanSource q w w.vs1 → cleanSource q w w.vs2 → Answers (.vecIntOp sr op w) s fun t => VecResult s t sr w f) ∧
    ((¬cleanSource q w w.vs1 ∨ ¬cleanSource q w w.vs2) → Answers (.vecIntOp sr op w) s fun t =>
      Traps (awake s sr.coach) t sr 5 1)) ∧
  -- vector float
  (∀ s sr (w : VecWord), vecReady s sr →
    let q := s.seat sr
    let n := 2 ^ w.ew.toNat
    let e (r : RegNo) (i : Nat) : Nat := velem n (q.rv r) i
    let flagged (c : Instr) (fmt : Fmt) (f : Nat → Nat) : Prop := Answers c s fun t =>
      ∃ hot : Bool, (hot = true ↔ ∃ i < 256 / n, activeElem q w i ∧ nonFinite fmt (f i % 2 ^ (8 * n)) = true) ∧
        VecResult (flagNonfinite hot s) t sr w f
    (∀ op fmt, fmtOfEw w.ew = some fmt → cleanSource q w w.vs1 → cleanSource q w w.vs2 →
      flagged (.vecFpOp sr op w) fmt fun i => vfp op fmt (e w.vs1 i) (e w.vs2 i)) ∧
    (∀ fmt, fmtOfEw w.ew = some fmt → cleanSource q w w.vs1 → cleanSource q w w.vs2 → cleanSource q w w.vd →
      flagged (.vecFma sr w) fmt fun i => ffma fmt (e w.vs1 i) (e w.vs2 i) (e w.vd i)) ∧
    (∀ src dst fmt, cvtKind dst = .fl fmt → cvtListed src dst = true → w.ew = cvtEw src dst → cleanSource q w w.vs1 →
      flagged (.vcvt sr src dst w) fmt fun i => vcvtElem src dst (e w.vs1 i)) ∧
    (∀ src dst k, cvtKind dst = .int k → cvtListed src dst = true → w.ew = cvtEw src dst → cleanSource q w w.vs1 →
      Answers (.vcvt sr src dst w) s fun t => VecResult s t sr w fun i => vcvtElem src dst (e w.vs1 i)) ∧
    (w.ew = 0 → (∀ op, Answers (.vecFpOp sr op w) s fun t => Traps (awake s sr.coach) t sr 0 0) ∧
      Answers (.vecFma sr w) s fun t => Traps (awake s sr.coach) t sr 0 0) ∧
    (∀ src dst, (cvtListed src dst = false ∨ w.ew ≠ cvtEw src dst) →
      Answers (.vcvt sr src dst w) s fun t => Traps (awake s sr.coach) t sr 0 0))

/-- R110, R114, R116, R131, R636: VBX takes the described bit field of Vs1 for each element; a permute takes for each element one of the
elements of its sources; a scalar operation writes F[vd], with every other bit of V[vd] 0. R111, R636: a compare writes all lanes of an
active element alike; the predicate operations act lane by lane under their governing predicate; VMOV between predicates and FFR copies all
256 bits, and its other forms move vectors with their poison, or between a vector and a scalar register. R137: a reduction writes the whole
of Vd; inactive elements take the identity, so an integer sum is the sum of the active elements at the element width. Choices of the model,
not rules: rows 7, 8, 16 and 74 of the assumption log. -/
def Obligations.VectorMovesAndReductions : Prop :=
  -- vector permute and scalar
  (∀ s sr (w : VecWord), vecReady s sr →
    let q := s.seat sr
    let n := 2 ^ w.ew.toNat
    (cleanSource q w w.vs1 → cleanSource q w w.vs2 →
      ((w.ew = 1 ∨ w.ew = 2) → Answers (.vbx sr w) s fun t => VecResult s t sr w fun i =>
        let d := velem n (q.rv w.vs2) i
        (q.rv w.vs1).toNat / 2 ^ (d % 2 ^ 11) % 2 ^ (d / 2 ^ 11 % 2 ^ 5 + 1)) ∧
      (∀ op : BitVec 4, op ≠ 3 → Answers (.vecPermute sr op w) s fun t => ∃ pick : Nat → Nat,
        (∀ i, pick i < 2 * (256 / n)) ∧ VecResult s t sr w fun i =>
          if pick i < 256 / n then velem n (q.rv w.vs1) (pick i) else velem n (q.rv w.vs2) (pick i - 256 / n))) ∧
    ((w.ew = 0 ∨ w.ew = 3) → Answers (.vbx sr w) s fun t => Traps (awake s sr.coach) t sr 0 0) ∧
    (∀ op fmt, fmtOfEw w.ew = some fmt → (q.rvp w.vs1).getLsbD 0 = false → (q.rvp w.vs2).getLsbD 0 = false →
      (op = .fma → (q.rvp w.vd).getLsbD 0 = false) → Answers (.scalarFpOp sr op w) s fun t =>
        let x (r : RegNo) : Nat := (q.rv r).toNat % 2 ^ fmt.width
        let v := match op with
          | .add => vfp .add fmt (x w.vs1) (x w.vs2)
          | .sub => vfp .sub fmt (x w.vs1) (x w.vs2)
          | .mul => vfp .mul fmt (x w.vs1) (x w.vs2)
          | .min => vfp .min fmt (x w.vs1) (x w.vs2)
          | .max => vfp .max fmt (x w.vs1) (x w.vs2)
          | .fma => ffma fmt (x w.vs1) (x w.vs2) (x w.vd)
        OnlySeat (awake s sr.coach) t sr ((q.wv w.vd (BitVec.ofNat 2048 (v % 2 ^ 64)) 0).past 4)) ∧
    ∀ op fmt, fmtOfEw w.ew = some fmt → (q.rvp w.vs1).getLsbD 0 = true →
      Answers (.scalarFpOp sr op w) s fun t => Traps (awake s sr.coach) t sr 5 1) ∧
  -- predicates and moves
  (∀ s sr (w : VecWord), vecReady s sr →
    let q := s.seat sr
    let n := 2 ^ w.ew.toNat
    let pd := predNo w.vd
    let only (t : State) (q' : Seat) : Prop := OnlySeat (awake s sr.coach) t sr (q'.past 4)
    (∀ op, predOp op 0 0 = none → (fpCompare op = true → w.ew ≠ 0) → cleanSource q w w.vs1 → cleanSource q w w.vs2 →
      Answers (.vecCompare sr op w) s fun t => ∃ p : BitVec 256, only t (q.wp pd p) ∧ ∀ i < 256 / n,
        let x := velem n (q.rv w.vs1) i
        let y := velem n (q.rv w.vs2) i
        let holds : Bool := match fmtOfEw w.ew with
          | some f => if fpCompare op then fcmp op f x y else icmp op (8 * n) x y
          | none => icmp op (8 * n) x y
        (activeElem q w i → bits p.toNat (n * i) n = if holds then 2 ^ n - 1 else 0) ∧
        (¬activeElem q w i → bits p.toNat (n * i) n = if w.zm then 0 else bits (q.rp pd).toNat (n * i) n)) ∧
    (w.ew = 0 → ∀ op (f : Bool → Bool → Bool),
      ((op, f) = (.pand, fun a b => a && b) ∨ (op, f) = (.por, fun a b => a || b) ∨ (op, f) = (.pxor, fun a b => a != b) ∨
        (op, f) = (.pandn, fun a b => a && !b)) →
      Answers (.vecCompare sr op w) s fun t => ∃ p : BitVec 256, only t (q.wp pd p) ∧ ∀ j < 256,
        p.getLsbD j = if (q.rp w.pg).getLsbD j then f ((q.rp (predNo w.vs1)).getLsbD j) ((q.rp (predNo w.vs2)).getLsbD j)
          else if w.zm then false else (q.rp pd).getLsbD j) ∧
    (w.pg = 0 → w.zm = false →
      (Answers (.vmov sr .pred w) s fun t => only t (q.wp pd (q.rp (predNo w.vs1)))) ∧
      (Answers (.vmov sr .predFromFfr w) s fun t => only t (q.wp pd q.ffr)) ∧
      (Answers (.vmov sr .ffrFromPred w) s fun t => only t { q with ffr := q.rp (predNo w.vs1) })) ∧
    ((w.pg ≠ 0 ∨ w.zm = true) → Answers (.vmov sr .pred w) s fun t => Traps (awake s sr.coach) t sr 0 0) ∧
    (Answers (.vmov sr .vec w) s fun t => VecResult s t sr w fun i => velem n (q.rv w.vs1) i) ∧
    (cleanSource q w w.vs1 → Answers (.vmov sr .vecToScalar w) s fun t => ∃ v, only t (q.wx w.vd v)) ∧
    (q.rxp w.vs1 = false → Answers (.vmov sr .scalarToVec w) s fun t => ∃ v : BitVec 2048, VecResult s t sr w fun i => velem n v i)) ∧
  -- vector reductions
  (∀ s sr op (w : VecWord), vecReady s sr → (redFp op = true → w.ew ≠ 0) → cleanSource (s.seat sr) w w.vs1 →
    let q := s.seat sr
    let n := 2 ^ w.ew.toNat
    let x (i : Nat) : Option Nat := if activeElem q w i then some (velem n (q.rv w.vs1) i) else none
    let xs := (List.range (256 / n)).map x
    (redFp op = false → Answers (.vecReduction sr op w) s fun t => ∃ v < 2 ^ (8 * n),
      OnlySeat (awake s sr.coach) t sr ((q.wv w.vd (BitVec.ofNat 2048 v) 0).past 4) ∧
      (op = .isum → v = (xs.foldl (fun a y => a + y.getD 0) 0) % 2 ^ (8 * n)) ∧
      (op = .imax → ∀ y, some y ∈ xs → sInt (8 * n) y ≤ sInt (8 * n) v) ∧
      (op = .imin → ∀ y, some y ∈ xs → sInt (8 * n) v ≤ sInt (8 * n) y)) ∧
    (∀ f, redFp op = true → fmtOfEw w.ew = some f → Answers (.vecReduction sr op w) s fun t =>
      let v := fpReduce op f xs
      let g := if f.width = 16 then fmtFP32 else f
      OnlySeat (awake (flagNonfinite (nonFinite g v) s) sr.coach) t sr ((q.wv w.vd (BitVec.ofNat 2048 v) 0).past 4)))

/-- R113, R123 to R127: contiguous vector loads and stores whose active elements are all aligned, permitted and not a partner's: VLD puts the
bytes in Vd, whose segments that it writes whole take their poison from this load alone, VLDFF also writes FFR with the elements it loaded,
and VST stores; the first bad element of VLD and VST, and the lowest of VLDFF, raises its exception before anything is written. R94 to R97,
R123 to R128: gathers and scatters run from the resume count: without a bad element and without an interruption they complete; a bad element
raises its exception with PROG its number; an interruption leaves the address and the count. R129 to R136: VLUT reads each active element's
entry from the seat's tile; VRANS decodes one round of 64 lanes, or X[vy] rounds in its block form (none for 0, whatever else holds); an
empty tile raises cause 8 with its number, and an odd address a misaligned access. Choices of the model, not rules: rows 6, 16, 17, 18, 19
and 79 of the assumption log. -/
def Obligations.VectorMemory : Prop :=
  -- vector loads and stores
  (∀ s sr (w : VecWord), vecReady s sr → (s.seat sr).rxp w.vs1 = false → (s.seat sr).rxp w.vs2 = false →
    let q := s.seat sr
    let n := 2 ^ w.ew.toNat
    let act := q.act w
    let es := activeList n act
    let va (i : Nat) : Nat := (q.rx w.vs1 + q.rx w.vs2 + BitVec.ofNat 64 (n * i)).toNat
    let ld := checkElems sr .load va n 0 false es (awake s sr.coach)
    let ff := checkElems sr .load va n (es.headD 256) true es (awake s sr.coach)
    let st := checkElems sr .store va n 0 false es (awake s sr.coach)
    let point : Nat := match ff.bad with
      | some (i, _, _) => i
      | none => 256
    let got (k : Checked) : Gathered := loadElems sr n k.ok k.s
    (∀ i c d, ld.bad = some (i, c, d) → Answers (.vld sr w) s fun t => Traps ld.s t sr c d) ∧
    (ld.bad = none → anyRemote ld.ok = false → Answers (.vld sr w) s fun t =>
      let g := loadElems sr n ld.ok (ld.s.updSeat sr fun q => q.freshSegs w.vd (writtenLanes w.zm act))
      OnlySeat g.s t sr (({ (g.s.seat sr).mergeV w.vd (g.lanes ||| zeroLanes n w.zm act 256) g.data g.pois with wait := .none }).past 4)) ∧
    (∀ c d, ff.bad = some (es.headD 256, c, d) → Answers (.vldff sr w) s fun t => Traps ff.s t sr c d) ∧
    ((∀ i c d, ff.bad = some (i, c, d) → i ≠ es.headD 256) → anyRemote ff.ok = false → Answers (.vldff sr w) s fun t =>
      OnlySeat (got ff).s t sr
        ({ ((got ff).s.seat sr).mergeV w.vd
            ((got ff).lanes ||| zeroLanes n w.zm act point) (got ff).data (got ff).pois with
          ffr := BitVec.ofNat 256 (got ff).lanes }.past 4)) ∧
    (∀ i c d, st.bad = some (i, c, d) → Answers (.vst sr w) s fun t => Traps st.s t sr c d) ∧
    (st.bad = none → anyRemote st.ok = false → Answers (.vst sr w) s fun t =>
      let runs := st.ok.foldl (fun rs e => addRun n e.2 (velem n (q.rv w.vd) e.1) (q.elemPoison w.vd n e.1) rs) []
      let m := runs.reverse.foldl (fun u x => storePhys sr x.p x.n x.d (BitVec.ofNat 4 x.q) u) st.s
      OnlySeat m t sr ((m.seat sr).past 4))) ∧
  -- gathers and scatters
  (∀ s sr (w : VecWord), (s.coach sr.coach).gated = false → (s.coach sr.coach).waking = false →
    let q := s.seat sr
    let n := 2 ^ w.ew.toNat
    let act := q.act w
    let all := activeList n act
    let es := all.filter fun i => q.resume ≤ i && i < 256 / n
    let g := gatherElems sr q w (all.headD 256) false es ⟨awake s sr.coach, 0, 0, 0⟩
    let ff := gatherElems sr q w (all.headD 256) true es ⟨awake s sr.coach, 0, 0, 0⟩
    let put (x : Indexed) (upto : Nat) : Seat := (x.g.s.seat sr).mergeV w.vd
      (x.g.lanes ||| (zeroLanes n w.zm act upto &&& lanesAbove (n * q.resume))) x.g.data x.g.pois
    (canIssue s sr = true →
    (g.trap = none → g.point = none → Answers (.vgath sr w none) s fun t => OnlySeat g.g.s t sr ((put g (256 / n)).past 4)) ∧
    (∀ k c d, g.trap = some (k, c, d) → (g.g.s.seat sr).estat.ex = false → (g.g.s.seat sr).estat2.ex = false →
      Answers (.vgath sr w none) s fun t => OnlySeat g.g.s t sr (enterFirst (put g k) c k d)) ∧
    (ff.trap = none → Answers (.vgathff sr w none) s fun t => OnlySeat ff.g.s t sr
      ({ put ff (ff.point.getD (256 / n)) with
        ffr := BitVec.ofNat 256 (lanesWhere n fun i => i < ff.point.getD (256 / n) && bit act (n * i)) }.past 4)) ∧
    (∀ u, scatterElems sr q w es (awake s sr.coach) = (u, none) → Answers (.vscat sr w none) s fun t =>
      OnlySeat u t sr ((u.seat sr).past 4)) ∧
    (∀ u k c d, scatterElems sr q w es (awake s sr.coach) = (u, some (k, c, d)) → (u.seat sr).estat.ex = false →
      (u.seat sr).estat2.ex = false → Answers (.vscat sr w none) s fun t => OnlySeat u t sr (enterFirst (u.seat sr) c k d))) ∧
    ∀ l : Fin 257, canBegin s sr = true → takeable s sr = true → q.resume ≤ l.val → l.val < 256 / n →
      let part := es.filter fun i => i < l.val
      let h := gatherElems sr q w (all.headD 256) false part ⟨awake s sr.coach, 0, 0, 0⟩
      (∀ u, scatterElems sr q w part (awake s sr.coach) = (u, none) → Answers (.vscat sr w (some l)) s fun t =>
        OnlySeat u t sr { u.seat sr with resume := l.val }) ∧
      (h.trap = none → h.point = none → Answers (.vgath sr w (some l)) s fun t =>
        OnlySeat h.g.s t sr { put h l.val with resume := l.val })) ∧
  -- lookups and rans
  (∀ s sr, vecReady s sr →
    let q := s.seat sr
    let k := s.coach sr.coach
    (∀ w : VecWord, w.vs2.toNat < 8 → k.full sr.seat w.vs2.toNat = true → cleanSource q w w.vs1 →
      let n := 2 ^ w.ew.toNat
      let at' (i : Nat) : Nat := n * (velem n (q.rv w.vs1) i % (16384 / n))
      (∀ i < 256 / n, activeElem q w i → (q.tileRow w.vs2.toNat (at' i / 128)).poison.getLsbD (at' i % 128 / 32) = false) →
      Answers (.vlut sr w) s fun t => VecResult s t sr w fun i =>
        (q.tileRow w.vs2.toNat (at' i / 128)).data.toNat / 2 ^ (8 * (at' i % 128)) % 2 ^ (8 * n)) ∧
    (∀ w : VecWord, w.vs2.toNat < 8 → k.full sr.seat w.vs2.toNat = false → Answers (.vlut sr w) s fun t =>
      Traps (awake s sr.coach) t sr 8 w.vs2.toNat) ∧
    (∀ w : RansWord, w.prec.toNat ≤ 4 → w.vy ≠ 0 → w.vy ≠ 31 → q.rxp w.vy = false → q.rx w.vy = 0 →
      Answers (.vransBlock sr w none) s fun t => OnlySeat (awake s sr.coach) t sr (q.past 4)) ∧
    ∀ w : RansWord, w.prec.toNat ≤ 4 → q.rxp w.xn = false →
      (k.full sr.seat w.t.toNat = false → Answers (.vransSingle sr w) s fun t => Traps (awake s sr.coach) t sr 8 w.t.toNat) ∧
      (k.full sr.seat w.t.toNat = true → (q.rx w.xn).getLsbD 0 = true → Answers (.vransSingle sr w) s fun t =>
        Traps (awake s sr.coach) t sr 4 0) ∧
      (k.full sr.seat w.t.toNat = true → (q.rx w.xn).getLsbD 0 = false →
        let x := ransRound sr w (awake s sr.coach)
        (x.bad = none → roundPoison q w x = none → Answers (.vransSingle sr w) s fun t => OnlySeat x.s t sr
          (((((x.s.seat sr).wv w.vy (lanes32 x.syms) 0).wv w.vd (lanes32 x.sts) 0).wx w.xn x.ptr).past 4)) ∧
        (w.vy ≠ 0 → w.vy ≠ 31 → q.rxp w.vy = false → q.rxp (w.vy + 1) = false →
          ∀ m u, (q.rx w.vy).toNat = m → 0 < m → m < 65536 → q.resume = 0 →
            ransRounds sr w m 0 (awake s sr.coach) = (m, u, none) → Answers (.vransBlock sr w none) s fun t =>
              OnlySeat u t sr
                (((u.seat sr).wx (w.vy + 1) ((u.seat sr).rx (w.vy + 1) + BitVec.ofNat 64 (64 * m))).past 4))))

/-- R95, R143 to R153, R156: TLD and TST run their rows from the resume count to the end, and the seat goes on behind their two words; a row of
a TLD leaves its tile full; the lowest failed shape check raises cause 7, TST of an empty tile cause 8 and a misaligned address or stride
cause 4; an exception keeps in PROG the rows that are complete, but for alignment, whose PROG is 0. R154, R155, R158 to R160: TREL of a
class C seat empties its tile, or the grouped tile of all seats when all are of class C, whose rows then read as 0, and does nothing on a
class S seat; TGRP sets or clears group mode, and waits while a queued instruction reads the tile. That a grouped tile stays full unless all
four seats are of class C is the model's choice (row 78). Choices of the model, not rules: rows 22, 23 and 78 of the assumption log. -/
def Obligations.Tiles : Prop :=
  -- tile transfers
  (∀ s sr (w : TileWord), mayIssue s sr (.tld sr w none) = true → mayIssue s sr (.tst sr w none) = true →
    let q := s.seat sr
    let k := s.coach sr.coach
    let n := w.rows.toNat + 1
    (∀ d, q.estat.ex = false → q.estat2.ex = false →
      (lowestFail (tileChecks k w true) = some d → Answers (.tld sr w none) s fun t => OnlySeat s t sr (enterFirst q 7 q.resume d)) ∧
      (lowestFail (tileChecks k w false) = some d → Answers (.tst sr w none) s fun t => OnlySeat s t sr (enterFirst q 7 q.resume d))) ∧
    (q.rxp w.xn = false → q.rxp w.xm = false →
      (lowestFail (tileChecks k w false) = none → w.a = false → k.full sr.seat w.t.toNat = false → q.resume = 0 →
        Answers (.tst sr w none) s fun t => Traps s t sr 8 w.t.toNat) ∧
      (lowestFail (tileChecks k w true) = none → ¬((q.rx w.xn).toNat % 16 = 0 ∧ (q.rx w.xm).toNat % 16 = 0) →
        Answers (.tld sr w none) s fun t => Traps s t sr 4 0) ∧
      ((q.rx w.xn).toNat % 16 = 0 → (q.rx w.xm).toNat % 16 = 0 → q.resume = 0 →
        (∀ u, lowestFail (tileChecks k w true) = none → moveRows sr w true n 0 s = (n, u, none) → Answers (.tld sr w none) s fun t =>
          OnlySeat u t sr ((u.seat sr).past 8)) ∧
        (∀ u, lowestFail (tileChecks k w false) = none → (w.a = true ∨ k.full sr.seat w.t.toNat = true) →
          moveRows sr w false n 0 s = (n, u, none) → Answers (.tst sr w none) s fun t => OnlySeat u t sr ((u.seat sr).past 8)) ∧
        (∀ j u c d, lowestFail (tileChecks k w true) = none → moveRows sr w true n 0 s = (j, u, some (c, d)) →
          (u.seat sr).estat.ex = false → (u.seat sr).estat2.ex = false → Answers (.tld sr w none) s fun t =>
            OnlySeat u t sr (enterFirst (u.seat sr) c j d)))) ∧
    (∀ j d m, w.a = false → w.g = false → w.first.toNat + j < 128 →
      let u := putRow sr w j d m s
      let c := u.coach sr.coach
      let row := ((u.seat sr).tileRow w.t.toNat (w.first.toNat + j)).data.toNat
      c.full sr.seat w.t.toNat = true ∧
      (∀ b < 16 * (w.rb.toNat + 1), row / 2 ^ (8 * b) % 256 = d / 2 ^ (8 * b) % 256))) ∧
  -- tile release and groups
  (∀ s sr (t : BitVec 3), canIssue s sr = true →
    let k := s.coach sr.coach
    (k.tgrpWaits = false →
    (k.grouped t.toNat = false → (s.seat sr).classC = true → Answers (.trel sr t false 0) s fun u =>
      (u.coach sr.coach).full sr.seat t.toNat = false ∧ (∀ r < 128, (u.seat sr).tileRow t.toNat r = {}) ∧
      (u.seat sr).pc = (s.seat sr).pc + 4 ∧ (∀ r, r ≠ sr → u.seat r = s.seat r) ∧
      (∀ i, i ≠ t.toNat → ∀ r < 128, (u.seat sr).tileRow i r = (s.seat sr).tileRow i r) ∧ u = { s with coaches := u.coaches }) ∧
    ((s.seat sr).classC = false → k.grouped t.toNat = false → Answers (.trel sr t false 0) s fun u => OnlySeat s u sr ((s.seat sr).past 4)) ∧
    (k.grouped t.toNat = true → (∀ i < 4, (k.seat i).classC = true) → Answers (.trel sr t true 0) s fun u =>
      (∀ i < 4, (u.coach sr.coach).full i t.toNat = false ∧ ∀ r < 128, ((u.coach sr.coach).seat i).tileRow t.toNat r = {}) ∧
      (u.seat sr).pc = (s.seat sr).pc + 4 ∧ (u.coach sr.coach).grp = k.grp ∧ u = { s with coaches := u.coaches }) ∧
    (k.grouped t.toNat = true → (∃ i < 4, (k.seat i).classC = false) → Answers (.trel sr t true 0) s fun u =>
      OnlySeat s u sr ((s.seat sr).past 4)) ∧
    (k.grouped t.toNat = true → Answers (.trel sr t false 0) s fun u => Traps s u sr 7 3) ∧
    (k.grouped t.toNat = false → Answers (.trel sr t true 0) s fun u => Traps s u sr 7 2) ∧
    (∀ rsv g, rsv ≠ 0 → Answers (.trel sr t g rsv) s fun u => Traps s u sr 0 0)) ∧
    ∀ on, (∀ rsv, rsv ≠ 0 → Answers (.tgrp sr t on rsv) s fun u => Traps s u sr 0 0) ∧
      ((k.vq.any fun e => readsTile t.toNat e.instr) = true → Answers (.tgrp sr t on 0) s fun u =>
        OnlySeat s u sr { s.seat sr with wait := .tgrp t on }) ∧
      ((k.vq.any fun e => readsTile t.toNat e.instr) = false → Answers (.tgrp sr t on 0) s fun u =>
        (u.coach sr.coach).grouped t.toNat = on ∧ (∀ i < 8, i ≠ t.toNat → (u.coach sr.coach).grouped i = k.grouped i) ∧
        (u.seat sr).pc = (s.seat sr).pc + 4 ∧ (u.seat sr).x = (s.seat sr).x ∧ u = { s with coaches := u.coaches }))

/-- R170 to R181: a TMMA whose checks pass adds, to each element of its accumulator, the chain of block products of its rows in ascending K
(TMMA.Z starts from −0); no other accumulator changes; the checks raise cause 7, 8 or 5 in their order. R182 to R185: a TCVT whose checks
pass writes, row by row, the codes of its converted blocks to its tile and their scales to the scale tile (two different tiles), and sets
the non-finite flag when a block holds a non-finite value; the checks raise causes 7 and 5. R239, R240: the agreement sampler's second pass
takes the waiting sample and counts it once, as compared or as skipped; without a sample it does nothing. Choices of the model, not rules:
rows 24 and 25 of the assumption log. -/
def Obligations.Matrix : Prop :=
  -- matrix products
  (∀ s sr (z : Bool) (w : MmaWord), canIssue s sr = true → (s.coach sr.coach).tgrpWaits = false → w.fp.toNat < 6 → w.rsv = 0 →
    let k := s.coach sr.coach
    let m := w.m.toNat + 1
    let n := w.n.toNat + 1
    let kb := w.kb.toNat + 1
    let a := w.acc.toNat
    let tiles := [w.ts.toNat, w.tw.toNat, w.tsc.toNat]
    let row (c : Instr) : Prop := c = if z then .tmmaZ sr w ⟨[], [], [], []⟩ else .tmma sr w ⟨[], [], [], []⟩
    ∀ c, row c →
      (∀ d, lowestFail (mmaChecks k w) = some d → Answers c s fun t => Traps s t sr 7 d) ∧
      (lowestFail (mmaChecks k w) = none →
        (∀ x, emptyTile k sr.seat tiles = some x → Answers c s fun t => Traps s t sr 8 x) ∧
        (emptyTile k sr.seat tiles = none → rowsPoisoned (operandRows k sr.seat w.ts.toNat w.gs (32 * w.sf.toNat) m) (firstSegs kb) = true →
          Answers c s fun t => Traps s t sr 5 2) ∧
        (emptyTile k sr.seat tiles = none →
          rowsPoisoned (operandRows k sr.seat w.ts.toNat w.gs (32 * w.sf.toNat) m) (firstSegs kb) = false →
          rowsPoisoned (operandRows k sr.seat w.tw.toNat w.gw (32 * w.wf.toNat) n) (firstSegs kb) = false →
          rowsPoisoned (operandRows k sr.seat w.tsc.toNat false 0 (max m n)) (2 ^ (w.so.toNat / 2)) = false →
          (z = false → accPoisoned k a m (firstSegs (4 * n)) = false) → Answers c s fun t =>
            let data (rows : List TileRow) : List (BitVec 1024) := rows.map (·.data)
            let pre := (List.range m).map fun i => (List.range n).map fun j => elemAt (k.accRow a i).data.toNat 32 j
            let out := mmaRows z w.fp.toNat w.so.toNat (data (operandRows k sr.seat w.ts.toNat w.gs (32 * w.sf.toNat) m))
              (data (operandRows k sr.seat w.tw.toNat w.gw (32 * w.wf.toNat) n))
              (data (operandRows k sr.seat w.tsc.toNat false 0 128)) kb pre
            (t.seat sr).pc = (s.seat sr).pc + 8 ∧ (t.seat sr).x = (s.seat sr).x ∧
            (∀ i < m, ∀ j < n, elemAt ((t.coach sr.coach).accRow a i).data.toNat 32 j = ((out.getD i []).getD j 0) % 2 ^ 32) ∧
            (∀ b i, b < 4 → i < 128 → b ≠ a → (t.coach sr.coach).accRow b i = k.accRow b i) ∧
            (∀ i < 128, m ≤ i → (t.coach sr.coach).accRow a i = k.accRow a i) ∧ t.mem = s.mem))) ∧
  -- converting read out
  (∀ s sr (w : CvtWord) f, mayIssue s sr (.tcvt sr w) = true → 1 ≤ w.fmt.toNat → w.fmt.toNat ≤ 4 → fmtOfCode w.fmt.toNat = some f → w.rsv = 0 →
    (w.wen = true → w.xs ≠ 0) →
    let k := s.coach sr.coach
    let q := s.seat sr
    (∀ d, lowestFail (cvtChecks k w) = some d → Answers (.tcvt sr w) s fun t => Traps s t sr 7 d) ∧
    (lowestFail (cvtChecks k w) = none → q.rxp w.xs = true → Answers (.tcvt sr w) s fun t => Traps s t sr 5 0) ∧
    (lowestFail (cvtChecks k w) = none → q.rxp w.xs = false →
      accPoisoned k w.acc.toNat (w.rows.toNat + 1) (cvtSegs w) = true → Answers (.tcvt sr w) s fun t => Traps s t sr 5 3) ∧
    (lowestFail (cvtChecks k w) = none → q.rxp w.xs = false →
      accPoisoned k w.acc.toNat (w.rows.toNat + 1) (cvtSegs w) = false → Answers (.tcvt sr w) s fun t =>
        let p := if w.xs = 0 then 0x3F800000 else (q.rx w.xs).toNat % 2 ^ 32
        let rows := (List.range (cvtShape w).1).map fun i => cvtRow f p (blocksOf ((cvtElems k w i).map fun e => (e, false)))
        (t.seat sr).pc = q.pc + 8 ∧ (t.seat sr).x = q.x ∧ (t.coach sr.coach).acc = k.acc ∧
        (w.td ≠ w.tsc → ∀ i < (cvtShape w).1,
          let codes := (rows.getD i []).flatMap (·.codes)
          bits ((t.coach sr.coach).tileRow sr.seat w.td.toNat w.g (w.first.toNat + i)).data.toNat 0 (codes.length * f.width) =
            packElems f.width codes) ∧
        (t.tender.nonfin = (s.tender.nonfin || rows.any fun bs => bs.any fun b => b.nonf != 0)))) ∧
  -- agreement sampler
  ((∀ s (c : Fin 96), (s.coach c).sample = none → exec (.agreementSamplePass c) s = .next s) ∧
  ∀ s (c : Fin 96) j, (s.coach c).sample = some j → Answers (.agreementSamplePass c) s fun t =>
    (t.coach c).sample = none ∧
    (((t.agree c).samples = counted 64 1 (s.agree c).samples ∧ (t.agree c).skipped = (s.agree c).skipped) ∨
     ((t.agree c).skipped = counted 64 1 (s.agree c).skipped ∧ (t.agree c).samples = (s.agree c).samples)) ∧
    (t.coach c).seats = (s.coach c).seats ∧ (t.coach c).acc = (s.coach c).acc ∧ (∀ d, d ≠ c.val → t.coach d = s.coach d))

/-- R88, R250, R255, R257, R260: a fill that arrives enters the L1 data cache dirty; the oldest entry of the write buffer drains, and the oldest
ones whose merge timeout has passed, in order of age; the drained bytes reach the last-level cache, or host memory byte by byte; an entry
that meets an uncorrectable error interrupts the seats whose stores it holds. R261 to R263: a confirmed stream's prefetch asks for its lines
once, and they enter the last-level cache, never the L1; a stream that does not exist asks for nothing. Choices of the model, not rules:
rows 31, 32 and 49 of the assumption log. -/
def Obligations.CoachCaches : Prop :=
  -- coach buffers
  ((∀ s (c : Fin 96), (s.coach c).fills = [] → exec (.l1FillComplete c none) s = .next s) ∧
  (∀ s (c : Fin 96) e es, (s.coach c).fills = e :: es → Answers (.l1FillComplete c none) s fun t =>
    (t.coach c).fills = (s.coach c).fills.filter (fun f => !ofEntry e.tag e.host f) ∧
    (∃ l, (t.coach c).l1.head? = some l ∧ l.tag = e.tag ∧ l.host = e.host ∧ l.dirty = true) ∧
    (t.coach c).mbuf = (s.coach c).mbuf ∧ (∀ r, (t.seat r).x = (s.seat r).x ∧ (t.seat r).pc = (s.seat r).pc)) ∧
  (∀ s (c : Fin 96), (s.coach c).mbuf = [] → exec (.writeBufferDrain c) s = .next s) ∧
  (∀ s (c : Fin 96) e es, (s.coach c).mbuf = e :: es →
    let u := s.updCoach c fun k => { k with mbuf := es }
    (e.host = false → drainError e u = false →
      exec (.writeBufferDrain c) s = .next (llcWriteAs e.whole u e.tag e.mask.toNat e.data.toNat e.poison true)) ∧
    (drainError e u = true → Answers (.writeBufferDrain c) s fun t => (t.coach c).mbuf = es ∧
      ∀ i : Fin 4, e.seats.getLsbD i = true → (t.seat ⟨c, i⟩).pend.getLsbD 0 = true) ∧
    (e.host = true → e.err = false → Answers (.writeBufferDrain c) s fun t => (t.coach c).mbuf = es ∧
      (∀ i < 128, mget 0 t.hostMem (128 * e.tag + i) =
        if e.mask.getLsbD i then e.data.extractLsb' (8 * i) 8 else mget 0 s.hostMem (128 * e.tag + i)) ∧
      (∀ a, a / 128 ≠ e.tag → mget 0 t.hostMem a = mget 0 s.hostMem a) ∧
      t = { s with coaches := t.coaches, hostMem := t.hostMem })) ∧
  ∀ s (c : Fin 96),
    let limit := if s.expert 2 then s.consist.merge else 256
    Answers (.writeBufferTimeout c) s fun t =>
      (t.coach c).mbuf = (s.coach c).mbuf.dropWhile (fun e => e.at0 + limit ≤ (s.coach c).now) ∧
      (t.coach c).fills = (s.coach c).fills ∧ (t.coach c).l1 = (s.coach c).l1 ∧ (t.coach c).victim = (s.coach c).victim ∧
      ((∀ e ∈ (s.coach c).mbuf, (s.coach c).now < e.at0 + limit) →
        t = { s with coaches := t.coaches } ∧ ∀ d, t.coach d = s.coach d)) ∧
  -- prefetch
  (∀ s (c : Fin 96) (n : Fin 16),
    ((s.coach c).streams[n.val]? = none → exec (.prefetchIssue c n) s = .next s) ∧
    ∀ x, (s.coach c).streams[n.val]? = some x → Answers (.prefetchIssue c n) s fun t =>
      (t.coach c).streams = lset (s.coach c).streams n (fun y => { y with depth := 0 }) ∧ (t.coach c).l1 = (s.coach c).l1 ∧
      (t.coach c).victim = (s.coach c).victim ∧ (∀ d, d ≠ c.val → (t.coach d).l1 = (s.coach d).l1) ∧
      (∀ line, prefetchLines x = [line] → prefetchMapped (s.coach c) x line = true → windowEnd ≤ 128 * line → 128 * line < memBytes →
        llcLine s line = none → t = (llcRead (s.updCoach c fun k =>
          { k with streams := lset k.streams n fun y => { y with depth := 0 } }) line true).2))

/-- R276, R277, R520, R521: requests at a home slice: a host read of one 64-byte line answers with its bytes while the link is up, and the snoop
filter notes the line; a host write stores them, a coach's read brings the line, and an eviction removes an unpinned line, writing it back
when it is dirty; a request that leaves its 64-byte line is not well formed, and a miss of a line of module memory allocates it in an empty
set. R281, R282, R285 to R291, R294: a slice applies its oldest add to the element of its line, modulo the element's width, and the line is
dirty; an add to a poisoned segment is lost, counted, and pends cause 0x20 on its seat; a stack's adder performs its oldest forwarded add in
memory. Choices of the model, not rules: rows 3, 14, 49 and 86 of the assumption log. -/
def Obligations.HomeSlices : Prop :=
  -- home slice requests
  ((∀ s (a : BitVec 40) (n : Fin 65), a.toNat % 64 + n.val ≤ 64 → s.sys.cxlUp = true → Answers (.llcAccess (.hostRead a n) 0) s fun t =>
    let (bs, p, u) := hostMemRead (hostHolds s (a.toNat / 128)) a.toNat n.val
    t = { u with outbox := u.outbox ++ [.data bs p] } ∧ bs.length = n.val ∧
      (windowEnd ≤ 128 * (a.toNat / 128) → 128 * (a.toNat / 128) < memBytes → t.llc.snoop.head? = some (a.toNat / 128))) ∧
  (∀ s (a : BitVec 40) (bs : List Byte), a.toNat % 64 + bs.length ≤ 64 → s.sys.cxlUp = true →
    exec (.llcAccess (.hostWrite a bs) 0) s = .next (hostMemWrite s a.toNat bs)) ∧
  (∀ s (l : BitVec 43), windowEnd ≤ 128 * l.toNat → 128 * l.toNat < memBytes →
    exec (.llcAccess (.coachRead l) 0) s = .next (llcRead s l.toNat true).2) ∧
  (∀ s (l : BitVec 43) x, llcLine s l.toNat = some x → pinned s l.toNat = false → Answers (.llcAccess (.evict l) 0) s fun t =>
    llcLine t l.toNat = none ∧ (x.dirty = false → t = { s with llc := { s.llc with lines := t.llc.lines } })) ∧
  (∀ s (a : BitVec 40) (n : Fin 65) u, 64 < a.toNat % 64 + n.val → exec (.llcAccess (.hostRead a n) u) s = .fault .illFormed) ∧
  (∀ s (l : BitVec 43), 128 * l.toNat < memBytes → (llcLine s l.toNat).isSome → exec (.llcMissFill l) s = .next s) ∧
  ∀ s (l : BitVec 43), 128 * l.toNat < memBytes → (∀ e ∈ s.llc.lines, setOfLine e.1 ≠ setOfLine l.toNat) → forwarded s l.toNat = false →
    Answers (.llcMissFill l) s fun t => (∃ x, llcLine t l.toNat = some x ∧ x.dirty = false) ∧
      (∀ k, k ≠ l.toNat → (llcLine s k = none → llcLine t k = none))) ∧
  -- atomic adds
  ((∀ s (k : Fin 64), sliceQueue s k = [] → (∀ c, (s.coach c).ladds = []) → exec (.laddApply k) s = .next s) ∧
  (∀ s (k : Fin 64) a rest, sliceQueue s k = a :: rest → (∀ c, (s.coach c).ladds = []) → a.way ≠ .here →
    (nearFull (s.updLlc fun c => { c with adds := c.adds.erase a }) a = true → exec (.laddApply k) s = .next s) ∧
    (nearFull (s.updLlc fun c => { c with adds := c.adds.erase a }) a = false → Answers (.laddApply k) s fun t =>
      t.llc.adds = s.llc.adds.erase a ∧ t.coaches = s.coaches ∧
      ∃ r ∈ (t.stack (stackOfPc (pcOfCw s (a.pa / 32)))).requests, r.add = some a ∧ r.cw = a.pa / 32)) ∧
  (∀ s (k : Fin 64) a rest l, sliceQueue s k = a :: rest → a.way = .here → (∀ c, (s.coach c).ladds = []) → llcLine s (a.pa / 128) = some l →
    (l.poison.getLsbD (a.pa % 128 / 32) = false → a.ty < 4 → a.pa % 2 ^ a.ty = 0 → Answers (.laddApply k) s fun t =>
      let w := 8 * 2 ^ a.ty
      let off := 8 * (a.pa % 128)
      t.llc.adds = s.llc.adds.erase a ∧ ∃ l', llcLine t (a.pa / 128) = some l' ∧ l'.dirty = true ∧ l'.poison = l.poison ∧
        bits l'.data.toNat off w = (bits l.data.toNat off w + a.addend.toNat) % 2 ^ w ∧
        (∀ i < 1024, (i < off ∨ off + w ≤ i) → l'.data.getLsbD i = l.data.getLsbD i) ∧ t.mem = s.mem ∧ t.coaches = s.coaches) ∧
    (l.poison.getLsbD (a.pa % 128 / 32) = true → Answers (.laddApply k) s fun t =>
      t.llc.adds = s.llc.adds.erase a ∧ (t.seat a.sr).pend.getLsbD 0 = true ∧
      (t.slice (sliceOf (a.pa / 128))).lost = counted 48 1 (s.slice (sliceOf (a.pa / 128))).lost ∧
      (llcLine t (a.pa / 128)) = some l)) ∧
  (∀ s (st : Stack), (s.llc.fwd.all fun a => stackOfPc (pcOfCw s (a.pa / 32)) != st.val) = true → exec (.nearMemoryAdd st) s = .next s) ∧
  ∀ s (st : Stack) a d, (s.llc.fwd.find? fun a => stackOfPc (pcOfCw s (a.pa / 32)) = st.val) = some a → s.mem.offline = false →
    pagePoison s (a.pa / 32) = false → rawCw s (a.pa / 32) = (d, 0) → Answers (.nearMemoryAdd st) s fun t =>
      t.llc = { s.llc with fwd := s.llc.fwd.erase a } ∧
      rawCw t (a.pa / 32) = ((addToSeg ⟨d, false, false⟩ (a.pa % 32) a.ty a.addend).data, 0) ∧
      ∀ cw, cw ≠ a.pa / 32 → rawCw t cw = rawCw s cw)

/-- R301 to R305, R308: the code corrects every error of one symbol: a stored clean codeword of which one of the 36 symbols has changed decodes
to its data. -/
def Obligations.OneSymbolCorrection : Prop :=
  ∀ (d : BitVec 256) (p : Fin 36) (v : Nat), 0 < v → v < 256 →
    let (d', rel) := upsetCw d 0 p v
    rel ≠ 0 ∧ rel ≠ poisonRel ∧ rel ≠ deadRel ∧ corrected d' (rsDecode rel) = d

/-- R303, R304, R308 to R311, R322: a write of a codeword is what a read of it finds, and no other codeword changes, whether they stand in the
write queue or in the stack; a batch drain leaves at most 16 writes of its pseudo-channel and changes no codeword; a read of a clean
codeword changes nothing; a correction of a state-class page counts and waits to be written back, and its write-back stores the corrected
data; addresses outside memory are not well formed. R318 to R320: a stack issues the oldest request of its narrow queue once that has waited
1 µs, and before it one that suits the banks best, in the order of each codeword; a request that the slices hold takes the place; an add
goes to the adder, and a write of all 32 bytes is what a read then finds. R312 to R317, R323 to R325: scrub visits the next codeword of a
pseudo-channel for the class of pages whose pass is due, but not while its channel retrains; a row that is due is copied into a spare row,
and counted when the copy ends, and with no spare row left its pseudo-channel retires; one that retires is marked, reported, and moves, or
takes the pages offline as the fifth of its stack; the temperature sets the refresh rate with its hysteresis; one channel that is due
retrains at a time, and the third failure retires its pseudo-channels. Choices of the model, not rules: rows 3, 13 and 48 of the assumption
log. -/
def Obligations.ModuleMemory : Prop :=
  -- memory codewords
  ((∀ s (cw : BitVec 45) d p dd, 32 * cw.toNat < memBytes → s.mem.offline = false → Answers (.memoryWrite cw d p dd) s fun t =>
    rawCw t cw.toNat = (d, if dd then deadRel else if p then poisonRel else 0) ∧ (∀ x, x ≠ cw.toNat → rawCw t x = rawCw s x) ∧
    (∀ e ∈ t.mem.fixq, e.cw ≠ cw.toNat) ∧ t = { s with mem := t.mem }) ∧
  (∀ s (cw : BitVec 45) d p dd, memBytes ≤ 32 * cw.toNat → exec (.memoryWrite cw d p dd) s = .fault .illFormed) ∧
  (∀ s (cw : BitVec 45), 32 * cw.toNat < memBytes → (rawCw s cw.toNat).2 = 0 → exec (.memoryRead cw none) s = .next s) ∧
  (∀ s (cw : BitVec 45) a v b w, 32 * cw.toNat < memBytes → rsDecode (rawCw s cw.toNat).2 = .errors a v b w →
    pagePoison s cw.toNat = false → activation s (pageOfCw cw.toNat) = false → Answers (.memoryRead cw none) s fun t =>
      t.mem.fixq = s.mem.fixq ++ [⟨cw.toNat, fixData (fixData (rawCw s cw.toNat).1 a v) b w, 0⟩] ∧
      (t.pseudo (pcOfCw s cw.toNat)).corrected = counted 64 1 (s.pseudo (pcOfCw s cw.toNat)).corrected ∧
      (t.stack (stackOfPc (pcOfCw s cw.toNat))).corrected = counted 64 1 (s.stack (stackOfPc (pcOfCw s cw.toNat))).corrected ∧
      (∀ x, rawCw t x = rawCw s x) ∧ t.coaches = s.coaches ∧ t.llc = s.llc) ∧
  (∀ s (k : Stack) e, (s.mem.fixq.find? fun e => stackOfPc (pcOfCw s e.cw) = k.val) = some e → Answers (.correctedWriteback k) s fun t =>
    cellsCw t.mem.cells e.cw = e.data ∧ mget 0 t.mem.rel e.cw = e.rel ∧ t.mem.fixq = s.mem.fixq.filter (fun f => f.cw != e.cw) ∧
    (∀ x, x ≠ e.cw → rawCw t x = rawCw s x) ∧ t = { s with mem := t.mem }) ∧
  ∀ s (pc : Fin 512), Answers (.writeQueueBatchDrain pc) s fun t =>
    (t.mem.wq.filter fun e => pcOfCw t e.cw = pc.val).length ≤ 16 ∧ (∀ x, rawCw t x = rawCw s x) ∧ t = { s with mem := t.mem }) ∧
  -- narrow requests
  (∀ s (k : Stack) (n : Fin 4096),
    let rs := narrowNext s (s.stack k)
    ((s.stack k).narrow = [] → exec (.narrowRequestIssue k n) s = .next s) ∧
    (∀ r ∈ rs, (s.stack k).narrow.find? (fun q => q.cw = r.cw) = some r) ∧
    (∀ q qs, (s.stack k).narrow = q :: qs → q.at0 + 1000 ≤ s.time.ns → rs = [q]) ∧
    ∀ r, rs[n.val % rs.length]? = some r →
      let left := (s.stack k).narrow.erase r ++ (s.stack k).held.take (4096 - ((s.stack k).narrow.erase r).length)
      (∀ a, r.add = some a → Answers (.narrowRequestIssue k n) s fun t =>
        (t.stack k).narrow = left ∧ t.llc = { s.llc with fwd := s.llc.fwd ++ [a] } ∧ (∀ x, rawCw t x = rawCw s x) ∧
        t.coaches = s.coaches) ∧
      (r.add = none → r.mask = BitVec.allOnes 32 → s.mem.offline = false → (∀ a ∈ s.llc.fwd, a.pa / 32 ≠ r.cw) →
        Answers (.narrowRequestIssue k n) s fun t => (t.stack k).narrow = left ∧
          rawCw t r.cw = (r.data, if r.poison then poisonRel else 0) ∧ (∀ x, x ≠ r.cw → rawCw t x = rawCw s x) ∧
          t.coaches = s.coaches)) ∧
  -- memory upkeep
  ((∀ s (pc : Fin 512) u, retraining s pc = true → exec (.scrubRead pc u) s = .next s) ∧
  (∀ s (pc : Fin 512), retraining s pc = false → (scrubDue s pc = none → ∀ u, exec (.scrubRead pc u) s = .next s) ∧
    ∀ act k, scrubDue s pc = some (act, k) → Answers (.scrubRead pc none) s fun t =>
      (t.mem.scrubOf pc act).at0 = k.at0 + 1 ∧ (t.mem.scrubOf pc act).since = k.since ∧
      (t.mem.scrubOf pc act).passes = (if k.at0 + 1 = pcCodewords s pc then k.passes + 1 else k.passes) ∧ t.coaches = s.coaches) ∧
  (∀ s : State, s.expert 1 = false → scrubHours s false = 24 ∧ scrubHours s true = 0) ∧
  (∀ s (pc : Fin 512) row, (s.mem.rowErrs.any fun r => r.pc = pc.val && r.row = row.toNat && r.due) = true →
    mget none s.mem.retiring pc = none → 4096 ≤ mget 0 s.mem.spares pc → exec (.rowRetire pc row) s = .next (retirePc s pc)) ∧
  (∀ s (pc : Fin 512) (row : BitVec 31), (s.mem.rowErrs.any fun r => r.pc = pc.val && r.row = row.toNat && r.due) = true →
    mget none s.mem.retiring pc = none → mget 0 s.mem.spares pc < 4096 → Answers (.rowRetire pc row) s fun t =>
      mget none t.mem.retiring pc = some row.toNat ∧ t = { s with mem := { s.mem with retiring := t.mem.retiring } }) ∧
  (∀ s (pc : Fin 512) row, mget none s.mem.retiring pc = some row → Answers (.rowRetireComplete pc) s fun t =>
    mget none t.mem.retiring pc = none ∧ mget 0 t.mem.spares pc = mget 0 s.mem.spares pc + 1 ∧
    t.mem.moved = s.mem.moved ++ [(pc.val, row)] ∧
    (t.stack (stackOfPc pc)).rowsRetired = counted 32 1 (s.stack (stackOfPc pc)).rowsRetired ∧ t.coaches = s.coaches) ∧
  (∀ s (pc : Fin 512), (s.stack (stackOfPc pc)).pcRetired.getLsbD (pc.val % 64) = true → exec (.pseudoChannelRetire pc) s = .next s) ∧
  (∀ s (pc : Fin 512), (s.stack (stackOfPc pc)).pcRetired.getLsbD (pc.val % 64) = false → Answers (.pseudoChannelRetire pc) s fun t =>
    let n := ((List.range 64).filter fun i => (t.stack (stackOfPc pc)).pcRetired.getLsbD i).length
    (t.stack (stackOfPc pc)).pcRetired = (s.stack (stackOfPc pc)).pcRetired ||| (1 : BitVec 64) <<< (pc.val % 64) ∧
    (n ≤ 4 → t.mem.moving = s.mem.moving ++ [(pc.val, 0)] ∧ t.mem.offline = s.mem.offline) ∧ (4 < n → t.mem.offline = true)) ∧
  (∀ s (pc : Fin 512), exec (.pseudoChannelMoveComplete pc) s =
    .next { s with mem := { s.mem with
      moving := s.mem.moving.map fun e => if e.1 = pc.val then (e.1, pcCodewords s pc) else e } }) ∧
  (∀ s (k : Stack) (temp : BitVec 16), Answers (.refreshRateChange k temp) s fun t =>
    (t.stack k).temp = temp ∧ (680 < temp.toInt → (t.stack k).refresh2 = true) ∧ (temp.toInt ≤ 656 → (t.stack k).refresh2 = false) ∧
    (656 < temp.toInt → temp.toInt ≤ 680 → (t.stack k).refresh2 = (s.stack k).refresh2) ∧ (∀ j, j ≠ k.val → t.stack j = s.stack j) ∧
    t = { s with mem := { s.mem with hbm := t.mem.hbm } }) ∧
  (∀ s (k : Stack) (c : Fin 32), (s.mem.retrain.isSome = true → exec (.channelRetrainStart k c) s = .next s) ∧
    (retrainDue s k c = false → exec (.channelRetrainStart k c) s = .next s) ∧
    (s.mem.retrain = none → retrainDue s k c = true → exec (.channelRetrainStart k c) s =
      .next { s with mem := { s.mem with retrain := some ⟨k.val, c.val, 0, none⟩ } })) ∧
  (∀ s p, s.mem.retrain = none → exec (.retrainWindow p) s = .next s) ∧
  (∀ s k c f ask, s.mem.retrain = some ⟨k, c, f, some ask⟩ → Answers (.retrainWindow (some true)) s fun t =>
    t.mem.retrain = none ∧ mget (0, 0) t.mem.trained (32 * k + c) = ((s.stack k).temp, s.time.ns) ∧ t.mgmt.priv = none ∧
    Answered s t ask 0 []) ∧
  (∀ s k c f ask, s.mem.retrain = some ⟨k, c, f, ask⟩ → f < 2 → exec (.retrainWindow (some false)) s =
    .next { s with mem := { s.mem with retrain := some ⟨k, c, f + 1, ask⟩ } }) ∧
  ∀ s k c f, s.mem.retrain = some ⟨k, c, f, none⟩ → 2 ≤ f → exec (.retrainWindow (some false)) s =
    .next (trainedNow k c ((retirePc (retirePc s (64 * k + 2 * c)) (64 * k + 2 * c + 1)).updMem fun m => { m with retrain := none })))

/-- R328, R329: what a mover does with writes of TAIL, QBASE, QSIZE and STOPPED: which it takes, which it discards, and which of those it
counts. R326, R328, R329, R333, R334: a mover that is stopped, halted, busy or has nothing queued starts nothing; else it reads the
descriptor at HEAD and begins it, or completes it with the CODE of the check that fails. A descriptor that has been performed and has
settled completes: HEAD passes it, STATUS is written to its slot, an error stops the queue and is counted, and SEM and the NOTIFY seat are
signalled. Choices of the model, not rules: row 40 of the assumption log. -/
def Obligations.MoverQueues : Prop :=
  -- mover registers
  ((∀ s (m : MoverNo) v, v = (s.mover m).tail → exec (.moverTailWrite m v) s = .next s) ∧
  (∀ s (m : MoverNo) v, v ≠ (s.mover m).tail → ((s.mover m).qsize = 0 ∨ reached v (s.mover m).tail = false ∨
    2 ^ (s.mover m).qsize < (v - (s.mover m).head).toNat) → exec (.moverTailWrite m v) s = .next (s.bump (.mover m))) ∧
  (∀ s (m : MoverNo) v, v ≠ (s.mover m).tail → (s.mover m).qsize ≠ 0 → reached v (s.mover m).tail = true →
    (v - (s.mover m).head).toNat ≤ 2 ^ (s.mover m).qsize →
    Answers (.moverTailWrite m v) s fun t => OnlyMover s t m { s.mover m with tail := v }) ∧
  (∀ s (m : MoverNo) (v : Word),
    ((s.mover m).head ≠ (s.mover m).tail → exec (.moverQueueConfigWrite m false v) s = .next s) ∧
    ((s.mover m).head = (s.mover m).tail → Answers (.moverQueueConfigWrite m false v) s fun t =>
      OnlyMover s t m { s.mover m with qbase := v.toNat - v.toNat % 64 }) ∧
    (let n := v.toNat % 256
     ((n ≠ 0 ∧ (n < 4 ∨ 10 < n)) → exec (.moverQueueConfigWrite m true v) s = .next (s.bump (.mover m))) ∧
     ((n = 0 ∨ (4 ≤ n ∧ n ≤ 10)) → (s.mover m).head ≠ (s.mover m).tail → exec (.moverQueueConfigWrite m true v) s = .next s) ∧
     ((n = 0 ∨ (4 ≤ n ∧ n ≤ 10)) → (s.mover m).head = (s.mover m).tail → Answers (.moverQueueConfigWrite m true v) s fun t =>
      OnlyMover s t m { s.mover m with qsize := n }))) ∧
  ∀ s (m : MoverNo), Answers (.moverStoppedClear m) s fun t => OnlyMover s t m { s.mover m with stopped := false }) ∧
  -- mover descriptors
  ((∀ s (m : MoverNo), ((s.mover m).stopped = true ∨ (s.mover m).cur.isSome = true ∨ s.halt.state = 2 ∨
    ((s.mover m).extra = [] ∧ ((s.mover m).head = (s.mover m).tail ∨ (s.mover m).qsize = 0))) →
    exec (.moverDescriptorStart m) s = .next s) ∧
  (∀ s (m : MoverNo) d u, (s.mover m).stopped = false → (s.mover m).cur = none → s.halt.state ≠ 2 → (s.mover m).extra = [] →
    (s.mover m).head ≠ (s.mover m).tail → (s.mover m).qsize ≠ 0 →
    sysRead s ((s.mover m).qbase + 64 * ((s.mover m).head.toNat % 2 ^ (s.mover m).qsize)) 64 false = ((d, false), u) →
    (u.mover m).stopped = false →
    (checkDesc u d = none → Answers (.moverDescriptorStart m) s fun t =>
      OnlyMover u t m { u.mover m with cur := some ⟨d, none, 0, transferBytes d, false, if exchLost u d then some 7 else none⟩ }) ∧
    ∀ code, checkDesc u d = some code → Answers (.moverDescriptorStart m) s fun t =>
      (t.mover m).head = (s.mover m).head + 1 ∧ (t.mover m).stopped = true ∧ (t.mover m).cur = none ∧
      (t.mover m).errors = counted 32 1 (s.mover m).errors ∧ t.hostMem = s.hostMem ∧ t.flash = s.flash) ∧
  (∀ s (m : MoverNo), ((s.mover m).cur = none ∨ ∃ c, (s.mover m).cur = some c ∧ (c.result = none ∨
    (c.result = some 0 ∧ moverSettled s m c.desc = false))) → exec (.moverDescriptorComplete m) s = .next s) ∧
  ∀ s (m : MoverNo) c code, (s.mover m).cur = some c → c.result = some code → c.ring = none →
    (code = 0 → moverSettled s m c.desc = true) → Answers (.moverDescriptorComplete m) s fun t =>
      (t.mover m).head = (s.mover m).head + 1 ∧ (t.mover m).cur = none ∧
      ((s.mover m).stopped = true ∨ code ≠ 0 → (t.mover m).stopped = true) ∧
      (t.mover m).errors = (if code = 0 then (s.mover m).errors else counted 32 1 (s.mover m).errors) ∧
      (dFlag c.desc 3 = true → dfield c.desc 2 2 < 4096 →
        (t.sem (dfield c.desc 2 2)).value = (s.sem (dfield c.desc 2 2)).value + 1) ∧
      (dFlag c.desc 2 = true → ∀ r, notifySeat (dfield c.desc 4 2) = some r → (t.seat r).pend.getLsbD 6 = true) ∧
      (code = 0 → dFlag c.desc 2 = false → dFlag c.desc 3 = false → dOp c.desc ≠ 0x11 →
        let u := sysPut s ((s.mover m).qbase + 64 * ((s.mover m).head.toNat % 2 ^ (s.mover m).qsize) + 0x3E) 2 (1 + b2n c.poison * 4)
        OnlyMover u t m { u.mover m with head := (s.mover m).head + 1, cur := none }))

/-- R335 to R337, R344, R345: the row or element that COPY, GATHER and SCATTER move: from and to the addresses that the strides and the index
give, with its poison. A COPY of a row from host memory to flash moves every byte of it and no other, and a host access that fails ends the
descriptor with CODE 6 and writes nothing; a chunk is at most 256 bytes. R213, R339 to R342, R349, R351: what TRANSPOSE, CONVERT, TCONVERT,
TMAP and TEXCH write for one row, position or slot: element c of a source row is the only element of row c of the result; a row is widened,
scaled, converted and packed with its scales; a position's word; and a slot, which its producer alone sends. Choices of the model, not
rules: rows 21 and 40 of the assumption log. -/
def Obligations.MoverWork : Prop :=
  -- mover transfers
  ((∀ s (m : MoverNo) (c : MoverCur) x u, ∀ p ∈ [(1, Instr.moverCopy m none), (2, .moverGather m none), (3, .moverScatter m)],
    let d := c.desc
    let n := dEsz d
    let sa := rowAddr (dSrc d) (dSStride d) (if p.1 = 2 then x else 0)
    let da := rowAddr (dDst d) (dDStride d) (if p.1 = 3 then x else 0)
    (s.mover m).cur = some c → dOp d = p.1 → c.result = none → c.moved = 0 → c.total = n → c.poison = false → 0 < n → n ≤ 256 →
    (p.1 = 1 → x = 0 ∧ u = s) → (p.1 ≠ 1 → indexAt s d 0 = (some x, u)) → inRange (dSrcKind d) sa n = true →
    inRange (dDstKind d) da n = true → (dDstKind d = 2 → u.mgmt.flashRo = false) →
    let (bs, v) := readKind u (dSrcKind d) sa n (dAlloc d) (dNarrow d)
    exec p.2 s = .next ((writeKind v m d (dDstKind d) da bs true).updMover m fun k =>
      { k with cur := k.cur.map fun _ => { c with moved := n, poison := bs.any (·.2), result := some 0 } })) ∧
  (∀ s (m : MoverNo) (c : MoverCur), (s.mover m).cur = some c → dOp c.desc = 1 → dSrcKind c.desc = 1 → dDstKind c.desc = 2 →
    c.result = none → c.moved = 0 → c.total = dEsz c.desc → 0 < dEsz c.desc → dSrc c.desc + dEsz c.desc ≤ 2 ^ 64 →
    dDst c.desc + dEsz c.desc ≤ flashBytes → s.mgmt.flashRo = false →
    (Answers (.moverCopy m none) s fun t =>
      (∀ j < dEsz c.desc, mget 0 t.flash (dDst c.desc + j) = mget 0 s.hostMem (dSrc c.desc + j)) ∧
      (∀ a, (a < dDst c.desc ∨ dDst c.desc + dEsz c.desc ≤ a) → mget 0 t.flash a = mget 0 s.flash a) ∧
      (t.mover m).cur = some { c with moved := dEsz c.desc, result := some 0 } ∧
      t = { s with flash := t.flash, movers := t.movers }) ∧
    (Answers (.moverCopy m (some 0)) s fun t => OnlyMover s t m { s.mover m with cur := some { c with result := some 6 } }) ∧
    Answers (.moverTransferChunk m) s fun t =>
      let n := min 256 (dEsz c.desc)
      (∀ j < n, mget 0 t.flash (dDst c.desc + j) = mget 0 s.hostMem (dSrc c.desc + j)) ∧
      (∀ a, (a < dDst c.desc ∨ dDst c.desc + n ≤ a) → mget 0 t.flash a = mget 0 s.flash a) ∧
      (t.mover m).cur = some { c with moved := n, result := if dEsz c.desc ≤ 256 then some 0 else none }) ∧
  ∀ s (m : MoverNo), (s.mover m).cur = none → ∀ i ∈ [Instr.moverCopy m none, .moverGather m none, .moverScatter m, .moverTransferChunk m,
    .moverTranspose m, .moverConvert m, .moverTconvert m, .tmap m, .texch m, .moverDescriptorComplete m], exec i s = .next s) ∧
  -- mover operations
  (∀ s (m : MoverNo) (c : MoverCur), (s.mover m).cur = some c → c.result = none →
    let d := c.desc
    let row (n : Nat) := readPoison s (rowAddr (dSrc d) (dSStride d) 0).toNat n (dAlloc d)
    (dOp d = 4 → dCount d = 1 → dCols d = 1 → let (bs, u) := row (dEsz d)
      exec (.moverTranspose m) s = .next (moverPerformed (putOut u d 0 (bs.take (dEsz d))) m (bs.any (·.2)))) ∧
    (∀ sf df, dOp d = 5 → dCount d = 1 → cvtSource d = some sf → cvtDest d = some df → let (bs, u) := row (dCols d * sf.width / 8)
      exec (.moverConvert m) s = .next (moverPerformed (putCvt u d df 0 (widenRow sf bs)) m (bs.any (·.2)))) ∧
    (∀ sf df, dOp d = 6 → dCount d = 1 → dCols d = 1 → cvtSource d = some sf → cvtDest d = some df →
      let (bs, u) := row (dCols d * sf.width / 8)
      exec (.moverTconvert m) s = .next (moverPerformed (putCvt u d df 0 [(widenRow sf bs).getD 0 (0, false)]) m (bs.any (·.2)))) ∧
    (dOp d = 0x10 → dCount d = 1 → exec (.tmap m) s = .next (moverPerformed
      (writePoison s (dDst d) ((leBytes 8 (tmapWord s (dAux d) (dSrc d))).map fun b => (b, false)) (dAlloc d) false) m false)) ∧
    (dOp d = 0x11 → dCount d = 1 → bit (dCols d) 8 = true →
      let me := (exchOf s d).1.idxOf s.consist.rank
      (me ≠ 0 → exec (.texch m) s = .next (moverPerformed s m false)) ∧
      (me = 0 → 0 < (exchOf s d).1.length → dSrc d ≠ dDst d →
        let (bs, u) := readPoison s (dSrc d) (dEsz d * 256) (dAlloc d)
        exec (.texch m) s = .next (moverPerformed (writePoison u (dDst d) bs (dAlloc d) false) m (bs.any (·.2))))))

/-- R348: the Turntable's permutation of the first n positions is one, whatever the round keys are. -/
def Obligations.TurntablePermutes : Prop :=
  ∀ n keys, n ≤ 2 ^ 48 → (∀ q < n, ttPerm (ttH n) n keys q < n) ∧
    ∀ q < n, ∀ r < n, ttPerm (ttH n) n keys q = ttPerm (ttH n) n keys r → q = r

/-- R358 to R361: a lit unit that is lost leaves the other to take over, with the takeover counted on the engine's three ports, and Alone once
it has its full power; without another lit unit the engine goes dark and its ports go down. A unit that is seated in its bay qualifies, and
one that passes shares, as does one that was alone. R354, R359, R362 to R365: a lane declared failed outside a takeover: the other end is
told, and the spare takes its logical lane over at the next alignment marker; without a spare, or when the spare itself fails first, a
coupling goes on with at least 4 lanes, degraded, and else goes down; a scale-out port goes down. A failed lane that passes its retest is
the spare again. Choices of the model, not rules: rows 54 and 81 of the assumption log. -/
def Obligations.LasersAndLanes : Prop :=
  -- laser units
  ((∀ s (e : Fin 4) (u : LaserUnit), lit (laserOf (s.engine e) u) = false → exec (.laserFailure e u) s = .next s ∧
    Answers (.laserUnseated e u) s fun t => OnlyEngine s t e (setLaser (setBay (s.engine e) u false) u .absent)) ∧
  (∀ s (e : Fin 4) (u : LaserUnit), lit (laserOf (s.engine e) u) = true →
    ∀ i ∈ [(Instr.laserFailure e u, Laser.failed, s.engine e), (.laserUnseated e u, .absent, setBay (s.engine e) u false)],
    (lit (laserOf (s.engine e) (otherUnit u)) = true → Answers i.1 s fun t =>
      t.engine e = { setLaser i.2.2 u i.2.1 with ramp := true } ∧ (∀ d, d ≠ e.val → t.engine d = s.engine d) ∧
      ∀ p, t.port p = if p / 3 = e.val then { s.port p with takeovers := counted 32 1 (s.port p).takeovers } else s.port p) ∧
    (lit (laserOf (s.engine e) (otherUnit u)) = false → Answers i.1 s fun t =>
      t.engine e = { setLaser i.2.2 u i.2.1 with ramp := false } ∧ t = { s with engines := t.engines, ports := t.ports } ∧
      ∀ p, if p / 3 = e.val then (t.port p).lanes = 0 ∧
        ((s.port p).state ≠ 0 → (s.port p).state ≠ 7 → (t.port p).state = 6) else t.port p = s.port p)) ∧
  (∀ s (e : Fin 4), ((s.engine e).ramp = false → Answers (.laserTakeoverComplete e) s fun t => OnlyEngine s t e (s.engine e)) ∧
    ((s.engine e).ramp = true → Answers (.laserTakeoverComplete e) s fun t => (t.engine e).ramp = false ∧
      (∀ u, laserOf (t.engine e) u = if lit (laserOf (s.engine e) u) then .alone else laserOf (s.engine e) u) ∧
      (t.engine e).stage = (s.engine e).stage ∧ t = { s with engines := t.engines })) ∧
  (∀ s (e : Fin 4) u, Answers (.laserSeated e u) s fun t =>
    let k := setBay (s.engine e) u true
    OnlyEngine s t e (if laserOf (s.engine e) u = .absent then setLaser k u .qualifying else k)) ∧
  ∀ s (e : Fin 4) u passed, Answers (.laserQualified e u passed) s fun t =>
    (laserOf (s.engine e) u ≠ .qualifying → OnlyEngine s t e (s.engine e)) ∧
    (laserOf (s.engine e) u = .qualifying → (∀ d, d ≠ e.val → t.engine d = s.engine d) ∧
      laserOf (t.engine e) u = (if passed then .sharing else .failed) ∧
      laserOf (t.engine e) (otherUnit u) = (if passed ∧ laserOf (s.engine e) (otherUnit u) = .alone then .sharing
        else laserOf (s.engine e) (otherUnit u)) ∧ t = { s with engines := t.engines })) ∧
  -- port lanes
  ((∀ s (p : Port) (lane : Fin 9), ((s.engine (p.val / 3)).ramp = true ∨ (s.port p).failed.getLsbD lane = true) →
    exec (.laneFailure p lane) s = .next s) ∧
  (∀ s (p : Port) (lane : Fin 9), (s.engine (p.val / 3)).ramp = false → (s.port p).failed.getLsbD lane = false →
    let k := s.port p
    let failed := k.failed ||| (1 : BitVec 9) <<< lane.val
    (7 ≤ p.val → lane.val ≠ 8 → k.state ≠ 0 → k.state ≠ 7 → Answers (.laneFailure p lane) s fun t =>
      OnlyPort s t p { k with failed := failed, state := 6, lanes := 0, subst := none }) ∧
    let lost (l : Nat) (left : PortState) : Prop :=
      (4 ≤ laneCount left → Answers (.laneFailure p lane) s fun t =>
        OnlyPort (s.send (.frame p (laneFrame s l))) t p { left with state := if k.state = 4 then 5 else k.state }) ∧
      (laneCount left < 4 → k.state ≠ 0 → k.state ≠ 7 → Answers (.laneFailure p lane) s fun t =>
        OnlyPort (s.send (.frame p (laneFrame s l))) t p { left with state := 6, lanes := 0, subst := none })
    (p.val < 7 → k.spare = some lane.val → k.subst = none → Answers (.laneFailure p lane) s fun t =>
      OnlyPort s t p { k with failed := failed, spare := none, subst := none }) ∧
    (∀ l, p.val < 7 → k.spare = some lane.val → k.subst = some l → lost l { k with
      failed := failed, spare := none, subst := none, lanes := k.lanes &&& ~~~((1 : BitVec 8) <<< l) }) ∧
    (∀ l sp, p.val < 7 → k.spare = some sp → sp ≠ lane.val → k.subst = none → logicalOn k lane = some l →
      Answers (.laneFailure p lane) s fun t => OnlyPort (s.send (.frame p (laneFrame s l))) t p { k with failed := failed, subst := some l }) ∧
    ∀ l, p.val < 7 → (k.spare = none ∨ ∃ sp, k.spare = some sp ∧ sp ≠ lane.val ∧ k.subst ≠ none) → logicalOn k lane = some l →
      lost l { k with failed := failed, lanes := k.lanes &&& ~~~((1 : BitVec 8) <<< l) }) ∧
  (∀ s (p : Port), ((s.port p).subst = none ∨ (s.port p).spare = none) → exec (.laneSubstitution p) s = .next s) ∧
  (∀ s (p : Port) l sp, (s.port p).subst = some l → (s.port p).spare = some sp → Answers (.laneSubstitution p) s fun t =>
    (∀ i, physLane (t.port p) i = if i = l then sp else physLane (s.port p) i) ∧
    t.port p = { s.port p with map := (t.port p).map, spare := none, subst := none, subs := counted 32 1 (s.port p).subs } ∧
    (∀ q, q ≠ p.val → t.port q = s.port q) ∧ t.engines = s.engines) ∧
  (∀ s (p : Port) (lane : Fin 9), exec (.laneRetest p lane false) s = .next s) ∧
  (∀ s (p : Port) (lane : Fin 9), p.val < 7 → ((s.port p).state = 4 ∨ (s.port p).state = 5) → (s.port p).failed.getLsbD lane = true →
    Answers (.laneRetest p lane true) s fun t => OnlyPort s t p { s.port p with
      failed := (s.port p).failed &&& ~~~((1 : BitVec 9) <<< lane.val)
      spare := if (s.port p).spare = none then some lane.val else (s.port p).spare }) ∧
  ∀ s (p : Port), ((p.val < 7 ∨ (s.engine (p.val / 3)).ramp = true) → exec (.scaleoutPortDown p) s = .next s) ∧
    (7 ≤ p.val → (s.engine (p.val / 3)).ramp = false → (s.port p).state ≠ 0 → (s.port p).state ≠ 7 → Answers (.scaleoutPortDown p) s fun t =>
      OnlyPort s t p { s.port p with state := 6, lanes := 0, subst := none }))

/-- R354, R360, R361, R371, R372, R376, R377: a retrain begins again from signal detect while a unit is lit, and leaves a coupling declared dark
Dark; the stages of an engine's bring-up come in order, with its rail on, only seated units light, a single one Alone, and alignment brings
its ports up: a coupling sends its identity with its nonce and waits for its partner's, and a scale-out port enters service, or waits for
LLDP where the consist names a neighbour. R371 to R377, R356: an identity frame behind alignment whose signature and position agree admits
the coupling when the consists' numbers agree, and holds it otherwise; a new nonce is answered with this end's identity signed over it; a
signed one that does not agree, a hold of 600 s, a partner that is missing 120 s after readiness, light on a port declared dark, and an LLDP
neighbour that is another or has been missing for 35 s, each fault the port and report an environment fault; an LLDPDU of the expected
neighbour lets its port in; PAUSE and PFC frames are dropped and counted. That a frame without a signature only brings its nonce is the
model's choice (row 80). Choices of the model, not rules: rows 52, 54 and 80 of the assumption log. -/
def Obligations.PortsAndIdentity : Prop :=
  -- port bring up
  ((∀ s (p : Port), lit (s.engine (p.val / 3)).a = false → lit (s.engine (p.val / 3)).b = false →
    exec (.linkRetrain p) s = .next s) ∧
  (∀ s (p : Port), (lit (s.engine (p.val / 3)).a = true ∨ lit (s.engine (p.val / 3)).b = true) →
    ∀ i ∈ [Instr.linkRetrain p, .scaleoutRetrain p], (i = .scaleoutRetrain p → 7 ≤ p.val ∧ (s.port p).state = 6) →
    Answers i s fun t => OnlyPort s t p { s.port p with
      state := if declaredDark s p then 0 else 1, lanes := 0, map := [], spare := some 8, failed := 0, subst := none, partner := 0xFFFF, lldpOk := false, fault := false }) ∧
  (∀ s (p : Port), (p.val < 7 ∨ (s.port p).state ≠ 6) → exec (.scaleoutRetrain p) s = .next s) ∧
  (∀ s (e : Fin 4) st, (s.sys.railEng.getLsbD e = false ∨ (s.engine e).stage + 1 < stageNo st) → exec (.portBringUp e st) s = .next s) ∧
  (∀ s (e : Fin 4), s.sys.railEng.getLsbD e = true →
    (∀ st ∈ [BringUp.rails, .dsp], (s.engine e).stage + 1 = stageNo st → Answers (.portBringUp e st) s fun t =>
      OnlyEngine s t e { s.engine e with stage := stageNo st }) ∧
    (∀ st ∈ [BringUp.trained, .up], stageNo st ≤ (s.engine e).stage + 1 → Answers (.portBringUp e st) s fun t =>
      OnlyEngine s t e { s.engine e with stage := max (s.engine e).stage (stageNo st) }) ∧
    ((s.engine e).stage = 2 → Answers (.portBringUp e .lasers) s fun t => (t.engine e).stage = 3 ∧ t = { s with engines := t.engines } ∧
      let lights (u : LaserUnit) : Prop := (match u with | .a => (s.engine e).inA | .b => (s.engine e).inB) = true ∧
        laserOf (s.engine e) u ≠ .retired ∧ laserOf (s.engine e) u ≠ .failed
      ∀ u, (lights u → lights (otherUnit u) → laserOf (t.engine e) u = .sharing) ∧
        (lights u → ¬lights (otherUnit u) → laserOf (t.engine e) u = .alone) ∧
        (¬lights u → laserOf (t.engine e) u = laserOf (s.engine e) u)) ∧
    (3 ≤ (s.engine e).stage → (lit (s.engine e).a = true ∨ lit (s.engine e).b = true) → Answers (.portBringUp e .signal) s fun t =>
      ∀ p, (p / 3 = e.val → ((s.port p).state = 0 ∨ (s.port p).state = 6) →
          (t.port p).state = if declaredDark s p then 0 else 1) ∧
        ((p / 3 ≠ e.val ∨ ((s.port p).state ≠ 0 ∧ (s.port p).state ≠ 6)) → t.port p = s.port p)) ∧
    (5 ≤ (s.engine e).stage → Answers (.portBringUp e .aligned) s fun t =>
      (∀ p, p / 3 = e.val → (s.port p).state = 1 → (t.port p).lanes = 0xFF ∧ (t.port p).state =
        if p < 7 ∨ ((lldpWant s p).isSome ∧ (s.port p).lldpOk = false) then 2 else 4) ∧
      (∀ p, (p / 3 ≠ e.val ∨ (s.port p).state ≠ 1) → t.port p = s.port p) ∧
      ∀ p, p / 3 = e.val → p < 7 → (s.port p).state = 1 → ∃ f, Out.identity p f ∈ t.outbox ∧ f.nonce = (t.port p).nonce ∧
        f.position.val = s.consist.position % 8 ∧ f.port.val = p ∧ f.digest = ownDigest ∧ f.consist.toNat = s.consist.number % 2 ^ 32))) ∧
  -- port identity
  ((∀ s (p : CoupPort) f, (s.port p.val).state ∈ [0, 1, 6, 7] → exec (.identityFrameReceive p f) s = .next s) ∧
  (∀ s (p : CoupPort) f, (s.port p.val).state ∉ [0, 1, 6, 7] →
    (f.nonce ≠ (s.port p.val).peerNonce → f.nonce ≠ 0 → Answers (.identityFrameReceive p f) s fun t =>
      ∃ g k, t.outbox = s.outbox ++ [.identity p g] ∧ g.nonce = (t.port p.val).nonce ∧
        g.signed = Config.sign (shaNat (identityBytes g f.nonce)) k) ∧
    (identityOk s p f = true → Answers (.identityFrameReceive p f) s fun t =>
      (t.port p.val).partner = BitVec.ofNat 16 (f.position.val + 8 * f.port.val) ∧ (t.port p.val).pcons = f.consist ∧
      (t.port p.val).peerNonce = f.nonce ∧ (f.nonce = (s.port p.val).peerNonce → t = { s with ports := t.ports }) ∧ (∀ q, q ≠ p.val → t.port q = s.port q) ∧
      (f.consist.toNat = s.consist.number → (t.port p.val).state = if laneCount (s.port p.val) < 8 then 5 else 4) ∧
      (f.consist.toNat ≠ s.consist.number → (t.port p.val).state = 3 ∧
        (t.port p.val).heldAt = if (s.port p.val).state = 3 then (s.port p.val).heldAt else s.time.ns)) ∧
    (identityOk s p f = false → f.signed = [] → f.nonce = (s.port p.val).peerNonce → Answers (.identityFrameReceive p f) s fun t =>
      OnlyPort s t p { s.port p.val with pcons := f.consist }) ∧
    (identityOk s p f = false → f.signed ≠ [] → Answers (.identityFrameReceive p f) s fun t =>
      (t.port p.val).state = 7 ∧ (t.port p.val).fault = true ∧ (t.port p.val).partner = (s.port p.val).partner ∧
      t.rings = (s.envEvent 4 p.val (f.position.val + 8 * f.port.val)
        ((s.consist.position + p.val + 1) % 8 + 8 * (6 - p.val))).rings)) ∧
  (∀ s (p : CoupPort), ((s.port p.val).state = 3 → (s.port p.val).heldAt + 600 * 10 ^ 9 ≤ s.time.ns →
      Answers (.couplingHeldTimeout p) s fun t =>
        OnlyPort (s.envEvent 6 p.val 0 0) t p { s.port p.val with state := 7, fault := true, lldpOk := false }) ∧
    ((s.port p.val).state ≠ 3 ∨ s.time.ns < (s.port p.val).heldAt + 600 * 10 ^ 9 → exec (.couplingHeldTimeout p) s = .next s)) ∧
  (∀ s (p : CoupPort), (readyFor s (120 * 10 ^ 9) = true → declaredDark s p.val = false → (s.port p.val).partner = 0xFFFF → (s.port p.val).state ≠ 7 →
      Answers (.missingPartnerTimeout p) s fun t =>
        OnlyPort (s.envEvent 5 p.val 0 ((s.consist.position + p.val + 1) % 8 + 8 * (6 - p.val))) t p
          { s.port p.val with state := 7, fault := true, lldpOk := false }) ∧
    (readyFor s (120 * 10 ^ 9) = false ∨ declaredDark s p.val = true ∨ (s.port p.val).partner ≠ 0xFFFF ∨ (s.port p.val).state = 7 →
      exec (.missingPartnerTimeout p) s = .next s)) ∧
  (∀ s (p : Port), (declaredDark s p = true → (s.port p).state = 0 → Answers (.darkPortLight p) s fun t =>
      OnlyPort (s.envEvent 7 p 0 0) t p { s.port p with state := 7, fault := true, lldpOk := false }) ∧
    (declaredDark s p = false ∨ (s.port p).state ≠ 0 → exec (.darkPortLight p) s = .next s)) ∧
  (∀ s (p : Port) chassis portId, (p.val < 7 ∨ (s.port p).lanes = 0 ∨ (s.port p).state = 7 ∨ lldpWant s p = none →
      exec (.lldpReceive p chassis portId) s = .next s) ∧
    (7 ≤ p.val → (s.port p).lanes ≠ 0 → (s.port p).state ≠ 7 → lldpWant s p = some (chassis, portId) → Answers (.lldpReceive p chassis portId) s fun t => OnlyPort s t p
      { s.port p with lldpOk := true, state := if (s.port p).state = 2 then 4 else (s.port p).state }) ∧
    ∀ w, 7 ≤ p.val → (s.port p).lanes ≠ 0 → (s.port p).state ≠ 7 → lldpWant s p = some w → w ≠ (chassis, portId) →
      Answers (.lldpReceive p chassis portId) s fun t =>
        OnlyPort (s.envEvent 8 p 0 0) t p { s.port p with state := 7, fault := true, lldpOk := false }) ∧
  (∀ s (p : Port), (7 ≤ p.val → (s.port p).state = 2 → (s.port p).lldpOk = false → (s.port p).linkAt + 35 * 10 ^ 9 ≤ s.time.ns →
      Answers (.lldpTimeout p) s fun t =>
        OnlyPort (s.envEvent 8 p 0 0) t p { s.port p with state := 7, fault := true, lldpOk := false }) ∧
    (p.val < 7 ∨ (s.port p).state ≠ 2 ∨ (s.port p).lldpOk = true ∨ s.time.ns < (s.port p).linkAt + 35 * 10 ^ 9 → exec (.lldpTimeout p) s = .next s)) ∧
  (∀ s (p : Port), exec (.lldpSend p) s =
    .next (if 7 ≤ p.val ∧ (s.port p).lanes ≠ 0 then s.send (.lldp p) else s)) ∧
  ∀ s (p : Port), (p.val < 7 → exec (.pausePfcFrameReceive p) s = .next s) ∧
    (7 ≤ p.val → Answers (.pausePfcFrameReceive p) s fun t =>
      t.port p = { s.port p with pause := counted 64 1 (s.port p).pause } ∧ (∀ q, q ≠ p.val → t.port q = s.port q) ∧
      t = { s with ports := t.ports, rings := t.rings }))

/-- R381, R386, R388 to R393: a port sends the oldest frame of the highest class that may start, for which there is room in the retransmit store
and credit: it takes its sequence number and the flow's acknowledgement, enters the retransmit store and leaves, on a scale-out port in an
Ethernet frame; nothing else of the module changes. R395, R396, R399: an interval of a scale-out flow moves its marked fraction by a
sixteenth and its rate down by half of the fraction or up by 4 Gb/s, between 1.6 and 1,600 Gb/s; flows leave ports that are down for those
that are Up; and flows to a position whose coupling is not Up go through the relay, and return. Choices of the model, not rules: rows 15,
34, 35, 36 and 83 of the assumption log. -/
def Obligations.FramesOut : Prop :=
  -- frame sending
  (∀ s (p : Port), (nextFrame s p = none → exec (.frameSend p) s = .next s) ∧
    ∀ f, nextFrame s p = some f →
      f ∈ (s.port p).txq ∧ portOfFlow s (frameFlow f) = some p.val ∧ (s.flow (frameFlow f)).failed = false ∧
      (s.flow (frameFlow f)).unacked.length < 512 ∧ (s.halt.state = 2 → frameClass f ≠ 2) ∧
      storeBytes s false + storeBytes s true + wireBytes f ≤ 32 * 2 ^ 20 ∧
      (p.val < 7 → frameClass f = 2 →
        (buffered s p 0 - 16 * 2 ^ 10) + (buffered s p 1 - 64 * 2 ^ 10) + buffered s p 2 + wireBytes f ≤ 432 * 2 ^ 10) ∧
      (∀ g ∈ (s.port p).txq, maySend s p g = true →
        (frameClass g = 0 → frameClass f = 0) ∧ (frameClass g = 1 → frameClass f ≤ 1)) ∧
      Answers (.frameSend p) s fun t =>
        let n := frameFlow f
        let k := s.flow n
        let g : Frame := { f with hdr := { f.hdr with seq := k.tx, ack := k.rx } }
        Wired s t p g ∧ t = { s with ports := t.ports, flows := t.flows, outbox := t.outbox, fresh := t.fresh } ∧
        t.flow n = { k with tx := k.tx + 1, unacked := k.unacked ++ [⟨g, 0, startTimeout s n⟩], toAck := 0 } ∧
        (∀ m, m ≠ n → t.flow m = s.flow m) ∧ t.port p = { s.port p with txq := (s.port p).txq.erase f } ∧
        ∀ q, q ≠ p.val → t.port q = s.port q) ∧
  -- rates and routes
  ((∀ s (f : FlowNo), ((s.flow f.toNat).bound = false ∨ inRake s (s.flow f.toNat).peer = true) →
    exec (.rateControlInterval f) s = .next s) ∧
  (∀ s (f : FlowNo), (s.flow f.toNat).bound = true → inRake s (s.flow f.toNat).peer = false →
    Answers (.rateControlInterval f) s fun t =>
      let k := s.flow f.toNat
      let a := (t.flow f.toNat).marked
      let r := (t.flow f.toNat).rate
      OnlyFlow s t f.toNat { k with marked := a, rate := r, acks := 0, acksCe := 0 } ∧
      a.num * (16 * k.marked.den * max k.acks 1) =
        (15 * k.marked.num * max k.acks 1 + k.acksCe * k.marked.den) * a.den ∧
      (k.acksCe = 0 → (k.rate.num ≤ 1596 * k.rate.den → r = ⟨k.rate.num + 4 * k.rate.den, k.rate.den⟩) ∧
        (1596 * k.rate.den < k.rate.num → r = ⟨1600, 1⟩)) ∧
      (0 < k.acksCe → 8 * r.den ≤ 5 * r.num ∧
        (r = ⟨8, 5⟩ ∨ r = ⟨k.rate.num * (2 * a.den - a.num), k.rate.den * 2 * a.den⟩))) ∧
  (∀ s, mwf {} s.flows → (∀ e ∈ s.flows, e.2.unacked = []) → (∀ e ∈ s.ports, e.2.txq = []) → Answers .scaleoutFlowMove s fun t =>
    (∀ n, t.flow n = if (s.flow n).bound = true ∧ inRake s (s.flow n).peer = false ∧ (s.flow n).failed = false ∧
        (∀ p, (s.flow n).port = some p → carrying s p = false)
      then { s.flow n with port := assignPort s n } else s.flow n) ∧
    (∀ p, t.port p = s.port p) ∧ t.outbox = s.outbox) ∧
  ∀ s (d : Fin 8), mwf {} s.flows → (∀ e ∈ s.ports, e.2.txq = []) → Answers (.couplingRelay d) s fun t =>
    (∀ n, t.flow n = if (s.flow n).bound = true ∧ inRake s (s.flow n).peer = true ∧ posOfRank s (s.flow n).peer = d.val
      then { s.flow n with relay := if carrying s (portOfPos s d) then none else relayPos s d } else s.flow n) ∧
    (∀ p, t.port p = s.port p) ∧ t.outbox = s.outbox)

/-- R369, R378, R381 to R385, R394, R397: a frame with a codeword of 3 or more symbol errors is discarded whole and counted; one that is next in
its flow's sequence takes effect, one beyond a gap is held and reported missing, and one that came before is only acknowledged again; TYPE 7
asks for a lane of the port. Bytes for an address of module memory are written there with their poison, and remote loads and stores are
served at home. A datagram from an address or to a port that is not the consist's is dropped and counted. Frames of no or over 128 codewords
are not well formed. R385 to R387, R395: a receiver acknowledges what it has delivered; an acknowledgement frees the frames before it, and
progress resets the resends of the rest; a frame that is missing or times out is sent again with RETX and a doubled timeout, and after 16
resends the flow fails, which is reported with its peer, whose descriptors end with CODE 7, and stops the consist when the peer is outside
the rake. Choices of the model, not rules: rows 36, 37, 38 and 69 of the assumption log. -/
def Obligations.FramesIn : Prop :=
  -- frame receiving
  ((∀ s (p : Port) f e rx, (f.payload = [] ∨ 128 < f.payload.length) → exec (.carriageFrameReceive p f e rx) s = .fault .illFormed) ∧
  (∀ s (p : Port) f e (rx : FrameRx), 1 ≤ f.payload.length → f.payload.length ≤ 128 → e.length ≤ f.payload.length + 1 →
    (7 ≤ p.val ∨ rx = ⟨false, 0⟩) →
    let fixed := (e.filter fun k => k = 1 || k = 2).length
    let lost := (e.filter fun k => 3 ≤ k).length
    (carrying s p = false → exec (.carriageFrameReceive p f e rx) s = .next s) ∧
    (carrying s p = true → rx.fec ≠ 0 → Answers (.carriageFrameReceive p f e rx) s fun t =>
      t.port p = { s.port p with uncorr := counted 64 rx.fec (s.port p).uncorr } ∧ t = { s with ports := t.ports, rings := t.rings }) ∧
    (carrying s p = true → rx.fec = 0 → 0 < lost → Answers (.carriageFrameReceive p f e rx) s fun t =>
      t.port p = { s.port p with
        corrected := if fixed = 0 then (s.port p).corrected else counted 64 fixed (s.port p).corrected
        uncorr := if p.val < 7 then counted 64 lost (s.port p).uncorr else (s.port p).uncorr, e2e := counted 64 1 (s.port p).e2e } ∧
      t = { s with ports := t.ports, rings := t.rings }) ∧
    (carrying s p = true → e = [] → rx = ⟨false, 0⟩ → (f.hdr.type = 7 → exec (.carriageFrameReceive p f e rx) s = .next (laneRequest s p f)) ∧
      (f.hdr.type ≠ 7 → ((s.flow (frameFlow f)).bound = false ∨ (s.flow (frameFlow f)).failed = true) →
        exec (.carriageFrameReceive p f e rx) s = .next s))) ∧
  (∀ s (p : Port) f, 1 ≤ f.payload.length → f.payload.length ≤ 128 → carrying s p = true →
    (s.flow (frameFlow f)).bound = true → (s.flow (frameFlow f)).failed = false → (s.flow (frameFlow f)).unacked = [] →
    let n := frameFlow f
    let k := s.flow n
    let a := f.hdr.offset.toNat
    (f.hdr.type = 1 → exec (.carriageFrameReceive p f [] ⟨false, 0⟩) s = .next (ackFlow s n f.hdr.ack (f.hdr.flags.getLsbD 3))) ∧
    (f.hdr.type = 2 → exec (.carriageFrameReceive p f [] ⟨false, 0⟩) s = .next s) ∧
    (f.hdr.type = 0 ∨ f.hdr.type = 5 →
      (seqBefore f.hdr.seq k.rx = true → Answers (.carriageFrameReceive p f [] ⟨false, 0⟩) s fun t =>
        OnlyFlow s t n { k with toAck := max k.toAck 1 }) ∧
      (seqBefore f.hdr.seq k.rx = false → f.hdr.seq ≠ k.rx → k.ahead = [] → k.nackAt = none →
        Answers (.carriageFrameReceive p f [] ⟨false, 0⟩) s fun t =>
          t.flow n = { k with ahead := [f], nackAt := some s.time.ns } ∧ (∀ m, m ≠ n → t.flow m = s.flow m) ∧
          t = { s with flows := t.flows, outbox := t.outbox, fresh := t.fresh } ∧
          ∀ q, portOfFlow s n = some q → ∃ g : Frame, Wired s t q g ∧ g.hdr.type = 2 ∧ g.hdr.seq = k.rx)) ∧
    (f.hdr.seq = k.rx → k.ahead = [] → k.toAck < 7 →
      ∃ u, OnlyFlow s u n { k with rx := k.rx + 1, toAck := k.toAck + 1, nackAt := none } ∧
        (f.hdr.type = 0 → frameClass f = 2 → inRange 0 a (payloadBytes f).length = true → a < 2 ^ 56 →
          exec (.carriageFrameReceive p f [] ⟨false, 0⟩) s = .next (writePoison u a (payloadBytes f) false false)) ∧
        (f.hdr.type = 5 → inRange 0 a (f.hdr.leaf.toNat % 257) = true → exec (.remoteWrite p f) s =
          .next (writePoison u a ((payloadBytes f).take (f.hdr.leaf.toNat % 257)) false false)) ∧
        (f.hdr.type = 3 → inRange 0 a (f.hdr.leaf.toNat % 257) = true → 0 < f.hdr.leaf.toNat % 257 →
          let (bs, v) := readPoison u a (f.hdr.leaf.toNat % 257) false
          exec (.remoteReadRequest p f) s = .next (enqueueFrame v
            ⟨flowHdr v n 4 1 0 f.hdr.tag.toNat (f.hdr.leaf.toNat % 257) a true, poisonWords bs⟩)))) ∧
  (∀ s (p : Port) f, 1 ≤ f.payload.length → f.payload.length ≤ 128 →
    (f.hdr.type ≠ 3 → exec (.remoteReadRequest p f) s = .next s) ∧ (f.hdr.type ≠ 5 → exec (.remoteWrite p f) s = .next s) ∧
    ∀ src dst, ((p.val < 7 ∨ carrying s p = false) → exec (.udpDatagramReceive p src dst f) s = .next s) ∧
      (7 ≤ p.val → carrying s p = true →
        (datagramOk s src dst f = true → exec (.udpDatagramReceive p src dst f) s = exec (.carriageFrameReceive p f [] ⟨false, 0⟩) s) ∧
        (datagramOk s src dst f = false → Answers (.udpDatagramReceive p src dst f) s fun t =>
          t.port p = { s.port p with dgrams := counted 64 1 (s.port p).dgrams } ∧ t = { s with ports := t.ports, rings := t.rings }))) ∧
  ∀ s sr bs p, bs.length ≤ 256 →
    ((∀ d, (s.seat sr).wait ≠ .remote d) → exec (.remoteReadResponse sr bs p) s = .next s ∧ exec (.remoteAccessUnreachable sr) s = .next s) ∧
    (∀ vd w i n e es, (s.seat sr).wait = .remote (.vec vd w i n (e :: es)) → exec (.remoteReadResponse sr bs p) s =
      .next (vecRemote sr vd w (e :: es) (s.updSeat sr (writeDest (.vec vd w i n (e :: es)) (leNat bs) p.toNat)))) ∧
    ∀ d, (s.seat sr).wait = .remote d → (∀ vd w i n e es, d ≠ .vec vd w i n (e :: es)) →
      (Answers (.remoteReadResponse sr bs p) s fun t =>
        OnlySeat s t sr ((writeDest d (leNat bs) p.toNat { s.seat sr with wait := .none }).past 4)) ∧
      Answers (.remoteAccessUnreachable sr) s fun t =>
        OnlySeat s t sr ((writeDest d 0 0xFF { s.seat sr with wait := .none }).past 4)) ∧
  -- acknowledgement
  ((∀ s (f : FlowNo), (s.flow f.toNat).toAck = 0 → exec (.ackTimer f) s = .next s) ∧
  (∀ s (f : FlowNo) p, (s.flow f.toNat).toAck ≠ 0 → portOfFlow s f.toNat = some p → Answers (.ackTimer f) s fun t =>
    t.flow f.toNat = { s.flow f.toNat with toAck := 0, ece := false } ∧ (∀ n, n ≠ f.toNat → t.flow n = s.flow n) ∧
    t = { s with flows := t.flows, outbox := t.outbox, fresh := t.fresh } ∧
    ∃ g : Frame, Wired s t p g ∧ g.hdr.type = 1 ∧ g.hdr.flow = f ∧
      g.hdr.ack = (s.flow f.toNat).rx ∧ g.hdr.flags.getLsbD 3 = (s.flow f.toNat).ece) ∧
  (∀ s (f : FlowNo) ack ece, (s.flow f.toNat).closing = none → (∀ u ∈ (s.flow f.toNat).unacked, u.frame.hdr.type ≠ 5) →
    Answers (.ackReceive f ack ece) s fun t =>
      let k := s.flow f.toNat
      let left := k.unacked.filter fun u => !seqBefore u.frame.hdr.seq ack
      OnlyFlow s t f.toNat { k with
        unacked := if left.length = k.unacked.length then left
          else left.map fun u => { u with resends := 0, timeout := startTimeout s f.toNat }
        acks := k.acks + 1, acksCe := k.acksCe + if ece then 1 else 0 }) ∧
  ∀ s (f : FlowNo) q, ∀ i ∈ [Instr.nackReceive f q, .retransmissionTimeout f q],
    (((s.flow f.toNat).unacked.find? fun u => u.frame.hdr.seq = q) = none → exec i s = .next s) ∧
    ∀ u, ((s.flow f.toNat).unacked.find? fun u => u.frame.hdr.seq = q) = some u →
      (u.resends < 16 → ∀ p, portOfFlow s f.toNat = some p → Answers i s fun t =>
        t = { s with flows := t.flows, outbox := t.outbox, fresh := t.fresh } ∧
        Wired s t p { u.frame with hdr := { u.frame.hdr with flags := u.frame.hdr.flags ||| 0x10 } } ∧ (∀ n, n ≠ f.toNat → t.flow n = s.flow n) ∧
        t.flow f.toNat = { s.flow f.toNat with unacked := (s.flow f.toNat).unacked.map fun v =>
          if v.frame.hdr.seq = q then { v with resends := v.resends + 1, timeout := min (2 * v.timeout) 1000000 } else v }) ∧
      (16 ≤ u.resends → Answers i s fun t =>
        t.flow f.toNat = { s.flow f.toNat with failed := true, unacked := [] } ∧ (∀ n, n ≠ f.toNat → t.flow n = s.flow n) ∧
        Raised s t 0x0050 (s.flow f.toNat).peer f.toNat ∧
        (∀ m c, (s.mover m).cur = some c → m < 32 → usesPeer s c.desc (s.flow f.toNat).peer = true →
          (t.mover m).cur = some { c with result := some 7 }) ∧
        (inRake s (s.flow f.toNat).peer = true → t.outbox = s.outbox ∧ t.halt = s.halt ∧
          ∀ m c, (s.mover m).cur = some c → usesPeer s c.desc (s.flow f.toNat).peer = false → t.mover m = s.mover m) ∧
        (inRake s (s.flow f.toNat).peer = false → t.halt.state = 2 ∧ t.halt.source = 4)))

/-- R400 to R404: a queue takes up the descriptor at HEAD as a mover does; a descriptor that fails a check has its CODE and completes with it. A
member that begins sends its contributions once, and what it sends to itself is held as a message; a node that has its children's messages
adds them element by element in their order. Choices of the model, not rules: rows 39, 40, 69 and 74 of the assumption log. -/
def Obligations.CollectiveQueues : Prop :=
  (∀ s (q : QueueNo) v, (s.coll q).stopped = true ∨ (s.coll q).cur.isSome = true ∨ s.halt.state = 2 →
    (v = (s.coll q).tail → exec (.collectiveTailWrite q v) s = .next s) ∧
    (v ≠ (s.coll q).tail → ((s.coll q).qsize = 0 ∨ reached v (s.coll q).tail = false ∨
      2 ^ (s.coll q).qsize < (v - (s.coll q).head).toNat) → exec (.collectiveTailWrite q v) s = .next (s.bump (.collective q))) ∧
    (v ≠ (s.coll q).tail → (s.coll q).qsize ≠ 0 → reached v (s.coll q).tail = true →
      (v - (s.coll q).head).toNat ≤ 2 ^ (s.coll q).qsize → Answers (.collectiveTailWrite q v) s fun t =>
        t = { s with colls := t.colls } ∧ t.coll q = { s.coll q with tail := v } ∧ ∀ m, m ≠ q.val → t.coll m = s.coll m)) ∧
  (∀ s (q : QueueNo) v d u, (s.coll q).stopped = false → (s.coll q).cur = none → s.halt.state ≠ 2 → (s.coll q).extra = [] → s.early = [] →
    v ≠ (s.coll q).tail → v ≠ (s.coll q).head → (s.coll q).qsize ≠ 0 → reached v (s.coll q).tail = true →
    (v - (s.coll q).head).toNat ≤ 2 ^ (s.coll q).qsize →
    sysRead (s.updColl q fun k => { k with tail := v })
      ((s.coll q).qbase + 64 * ((s.coll q).head.toNat % 2 ^ (s.coll q).qsize)) 64 false = ((d, false), u) →
    (u.coll q).stopped = false → Answers (.collectiveTailWrite q v) s fun t =>
      (t.coll q).cur = some ⟨d, none, [], [], false, false, false, (checkColl u d).getD 0, false⟩ ∧ (t.coll q).tail = v) ∧
  (∀ s (q : QueueNo), (s.coll q).cur = none → ((s.coll q).stopped = true ∨ s.halt.state = 2 ∨
      ((s.coll q).extra = [] ∧ ((s.coll q).head = (s.coll q).tail ∨ (s.coll q).qsize = 0))) →
    ∀ i ∈ [Instr.allReduce q, .reduceScatter q, .allGather q, .allToAll q, .collectiveComplete q], exec i s = .next s) ∧
  (∀ s (q : QueueNo) c, (s.coll q).cur = some c →
    (∀ i ∈ [(Instr.allReduce q, 1), (.reduceScatter q, 2), (.allGather q, 3), (.allToAll q, 4)],
      (cOp c.desc ≠ i.2 ∨ c.ran = true ∨ c.code ≠ 0 → exec i.1 s = .next s) ∧
      (cOp c.desc = i.2 → c.ran = false → c.code = 0 → ∃ t, exec i.1 s = .next t ∧
        ∀ k, (t.coll q).cur = some k → k.ran = true ∧ k.desc = c.desc)) ∧
    (c.code ≠ 0 → c.ring = none → (∀ e ∈ c.nodes, e.2.1 ≠ 17) → cFlag c.desc 0 = false → cFlag c.desc 1 = false →
      Answers (.collectiveComplete q) s fun t =>
        (t.coll q).cur = none ∧ (t.coll q).stopped = true ∧ (t.coll q).head = (s.coll q).head + 1 ∧
        (t.coll q).errors = counted 32 1 (s.coll q).errors) ∧
    (c.code = 0 → c.bad = false → c.ran = false → (∀ e ∈ c.nodes, e.2.1 ≠ 17) → exec (.collectiveComplete q) s = .next s)) ∧
  (∀ s (q : QueueNo) ch (l : Fin 16) i, (s.coll q).cur = none → exec (.reductionNode q ch l i) s = .next s) ∧
  ∀ s (q : QueueNo) c (ch : Half) (l : Fin 16) (i : Half) a b, (s.coll q).cur = some c →
    let d := c.desc
    let g := (collMembers s d).length
    let have1 (j : Nat) := (getMessage s d c ch.toNat l.val j).map (messageElems s d l.val ch.toNat)
    c.ran = true → c.code = 0 → cOp d ≤ 2 → 0 < l.val → l.val < treeLevels g → 2 * i.toNat + 1 < levelNodes g (l.val - 1) →
    i.toNat < levelNodes g l → ch.toNat < g → nodeMember g ch.toNat l i.toNat = collMe s d →
    nodeMember g ch.toNat (l + 1 : Nat) (i.toNat / 2) = collMe s d →
    (∀ e ∈ c.nodes, ¬(e.1 = ch.toNat ∧ e.2.1 = l.val + 1 ∧ e.2.2.1 = i.toNat)) →
    have1 (2 * i.toNat) = some a → have1 (2 * i.toNat + 1) = some b →
    Answers (.reductionNode q ch l i) s fun t => t = { s with colls := t.colls } ∧
      (t.coll q).cur = some { c with nodes := c.nodes ++ [(ch.toNat, l.val + 1, i.toNat, sumMessage (cType d)
        ((a.zip b).map fun e => (sumAdd (cType d) e.1.1 e.2.1, e.1.2 || e.2.2)))] }

/-- R411, R415 to R418: CORDSIG adds to a semaphore and returns its new value, or arrives at a barrier channel and returns the phase it arrives
for; CORDWAIT goes on when its target is reached, else the seat waits, and its form without blocking returns 1 or 0; a waiting seat goes on
when its target is reached; an operand that names no semaphore or channel is illegal. R409 to R414, R425: writes of CONFIG, VALUE and ARM,
and the completion of a phase: reserved values and a channel with arrivals are left alone; a VALUE that reaches ARM gives one notice to its
seat; a complete phase counts and gives its notice. Choices of the model, not rules: row 33 of the assumption log. -/
def Obligations.CordSynchronisation : Prop :=
  -- cord instructions
  (∀ s sr (w : CordWord), w.rsv = 0 → (s.seat sr).rxp w.rs1 = false → (s.seat sr).rxp w.rs2 = false →
    let q := s.seat sr
    let v := (q.rx w.rs1).toNat
    let k : BitVec 32 := (q.rx w.rs2).setWidth 32
    let bad : Prop := if w.b then 62 ≤ v ∨ (s.chan v).locArr = 0 else 4096 ≤ v
    let sig : Prop := mayIssue s sr (.cordsig sr w) = true
    let wait : Prop := mayIssue s sr (.cordwait sr w) = true
    (bad → (sig → w.nb = false → (w.b = true → w.rs2 = 0) → Answers (.cordsig sr w) s fun t => Traps s t sr 0 0) ∧
      (wait → Answers (.cordwait sr w) s fun t => Traps s t sr 0 0)) ∧
    (¬bad → sig → w.nb = false → q.remSt = 0 → w.b = false → Answers (.cordsig sr w) s fun t =>
      (t.sem v).value = (s.sem v).value + k ∧ (t.seat sr).rx w.rd = (if w.rd = 0 then 0 else ((s.sem v).value + k).setWidth 64) ∧
      (t.seat sr).pc = q.pc + 4 ∧ (∀ n, n ≠ v → t.sem n = s.sem n) ∧ t.chans = s.chans) ∧
    (¬bad → sig → w.nb = false → q.remSt = 0 → w.b = true → w.rs2 = 0 → Answers (.cordsig sr w) s fun t =>
      (t.chan v).arrived = (if (s.chan v).arrived + 1 < (s.chan v).locArr then (s.chan v).arrived + 1 else 0) ∧
      (t.seat sr).rx w.rd = (if w.rd = 0 then 0 else (s.chan v).localPhase.setWidth 64) ∧
      (t.seat sr).pc = q.pc + 4 ∧ t.sems = s.sems) ∧
    (¬bad → wait → Answers (.cordwait sr w) s fun t =>
      let hit := reached (if w.b then (s.chan v).phase else (s.sem v).value) k
      let q' := if w.nb then (q.wx w.rd (if hit then 1 else 0)).past 4 else if hit then q.past 4 else { q with wait := .cord w.b v k }
      t.seat sr = q' ∧ (∀ r, r ≠ sr → t.seat r = s.seat r) ∧ t = { s with coaches := t.coaches } ∧
      (hit = true → (t.coach sr.coach).l1 = (s.coach sr.coach).l1.filter fun l => l.dirty)) ∧
    ∀ b i g u, coachRuns s sr.coach = true → (s.seat sr).wait = .none → u = s.updSeat sr (fun t => { t with wait := .cord b i g }) →
      if reached (if b then (s.chan i).phase else (s.sem i).value) g then
        Answers (.cordwaitSatisfied sr) u fun t => t.seat sr = q.past 4 ∧ t = { s with coaches := t.coaches }
      else exec (.cordwaitSatisfied sr) u = .next u) ∧
  -- barriers and semaphores
  (let noticed (s t : State) (notify k detail : Nat) : Prop := ∀ r, notifySeat notify = some r →
    (t.seat r).pend.getLsbD k = true ∧ ((s.seat r).pend.getLsbD k = false → mget 0 (t.seat r).pendDet k = BitVec.ofNat 8 detail)
  (∀ s (ch : Fin 64) (v : Word32),
    let n := v.toNat
    let bad := 62 ≤ ch.val ∨ (s.chan ch).arrived ≠ 0 ∨ bits n 9 2 = 3 ∨ 384 < bits n 0 9 ∨ 2 ^ 19 ≤ n
    (bad → exec (.barrierConfigWrite ch v) s = .next s) ∧
    (¬bad → Answers (.barrierConfigWrite ch v) s fun t => t = { s with chans := t.chans } ∧
      t.chan ch = { s.chan ch with locArr := bits n 0 9, scope := bits n 9 2, group := bits n 11 8 } ∧
      ∀ d, d ≠ ch.val → t.chan d = s.chan d)) ∧
  (∀ s (n : BitVec 12) v, Answers (.semaphoreValueWrite n v) s fun t =>
    let m := s.sem n.toNat
    t.sem n.toNat = { m with value := v } ∧ (∀ k, k ≠ n.toNat → t.sem k = s.sem k) ∧
    ((m.notify.getLsbD 9 = false ∨ reached m.value m.arm = true ∨ reached v m.arm = false) → t = { s with sems := t.sems }) ∧
    (m.notify.getLsbD 9 = true → reached m.value m.arm = false → reached v m.arm = true →
      noticed s t m.notify.toNat 5 (n.toNat % 256))) ∧
  (∀ s (n : BitVec 12) arm v, Answers (.semaphoreArmWrite n arm v) s fun t =>
    let m := s.sem n.toNat
    t.sem n.toNat = { m with arm := arm, value := v.getD m.value } ∧ (∀ k, k ≠ n.toNat → t.sem k = s.sem k) ∧
    (m.notify.getLsbD 9 = true → (reached m.value arm = true ∨ ∃ x, v = some x ∧ reached x arm = true) →
      noticed s t m.notify.toNat 5 (n.toNat % 256)) ∧
    ((m.notify.getLsbD 9 = false ∨ (reached m.value arm = false ∧ ∀ x, v = some x → reached x arm = false)) →
      t = { s with sems := t.sems })) ∧
  ∀ s (ch : Fin 64), (62 ≤ ch.val ∨ phaseReady s ch = false → exec (.phaseComplete ch) s = .next s) ∧
    (ch.val < 62 → phaseReady s ch = true → Answers (.phaseComplete ch) s fun t =>
      let c := s.chan ch
      (t.chan ch).phase = c.phase + 1 ∧ (t.chan ch).comps = counted 64 1 c.comps ∧ (t.chan ch).shares = c.shares ∧
      (t.chan ch).arrived = c.arrived ∧ (∀ d, d ≠ ch.val → t.chan d = s.chan d) ∧
      (c.notify.getLsbD 9 = true → noticed s t c.notify.toNat 5 ch.val) ∧
      (c.notify.getLsbD 9 = false → t.coaches = s.coaches) ∧ (c.scope ≠ 2 → t.outbox = s.outbox)))

/-- R329, R401, R429 to R433, R447, R459, R498, R616: what an immediate stop leaves, through each of its paths: the halt register, the stopped
queues with their heads, which keep only a descriptor that a lost member has ended, no block in the Tender's queue, no save, and the
commands in execution; the coaches and memory keep their state. A scheduled stop waits for its time, and one whose time has passed is late.
R301, R421 to R425, R430, R431: outside a frame, a coupling that carries traffic takes micro-flits. One that cannot be decoded, with three
or more wrong symbols, is counted and not echoed; one with one or two is counted as corrected and taken; an echo ends the repeats of one
flit; a repeat of an accepted flit is echoed alone; any other is echoed first, and takes effect. Choices of the model, not rules: rows 38,
45, 82 and 84 of the assumption log. -/
def Obligations.StopsAndMicroFlits : Prop :=
  -- stops
  (let stopped (s t : State) : Prop := t.halt.state = 2 ∧ t.halt.due = none ∧
    (∀ m < 32, t.mover m = { s.mover m with stopped := true, cur := (s.mover m).cur.filter MoverCur.lost, extra := [] }) ∧
    (∀ q < 16, t.coll q = { s.coll q with stopped := true, cur := (s.coll q).cur.filter CollCur.lost, extra := [] }) ∧
    t.tender.queue = [] ∧ t.way.saves = [] ∧ (s.halt.state ≠ 2 → t.rings.boundary = []) ∧
    t.coaches = s.coaches ∧ t.mem = s.mem ∧ t.llc = s.llc ∧ t.hostMem = s.hostMem ∧ t.flash = s.flash ∧ t.ledger = s.ledger ∧
    t.tender.dir = s.tender.dir ∧ t.tender.step = s.tender.step ∧ (∀ r, (t.pair r).sqHead = (s.pair r).sqHead)
  (∀ s src scope, Answers (.immediateStop src scope) s fun t => stopped s t ∧ t.halt.source = src.toNat ∧
    ((scope = .module ∨ s.consist.ranks.length ≤ 1) → t.outbox = s.outbox ∧ t.ports = s.ports)) ∧
  (∀ s, Answers .haltNAssert s fun t => stopped s t ∧ t.halt.source = 1 ∧ t.sys = { s.sys with haltN := false }) ∧
  (∀ s (v : Word), bits v.toNat 1 2 = 3 →
    exec (.haltStopNow v) s = .next s ∧ exec (.haltSchedule v) s = .next s ∧ exec (.haltStore v) s = .next s) ∧
  (∀ s (v : Word), bits v.toNat 1 2 ≠ 3 →
    let late := s.halt.late && !bit v.toNat 7
    let time := bits v.toNat 16 48
    (Answers (.haltStopNow v) s fun t => stopped s t ∧ t.halt = ⟨bits v.toNat 1 2, false, 2, late, 2, time, none⟩) ∧
    (Answers (.haltStore v) s fun t => t = { s with halt :=
      { s.halt with scope := bits v.toNat 1 2, sched := bit v.toNat 3, time := time, late := late } }) ∧
    (time * 1000 ≤ s.time.ns → Answers (.haltSchedule v) s fun t => stopped s t ∧
      t.halt = ⟨bits v.toNat 1 2, true, 2, true, 5, time, none⟩) ∧
    (s.time.ns < time * 1000 → Answers (.haltSchedule v) s fun t =>
      t.halt = ⟨bits v.toNat 1 2, true, if s.halt.state = 2 then 2 else 1, late, s.halt.source, time, some time⟩ ∧
      t.movers = s.movers ∧ t.tender = s.tender)) ∧
  (∀ s, (s.halt.due = none → exec .scheduledStopTime s = .next s) ∧
    ∀ d, s.halt.due = some d → (s.time.ns < d * 1000 → exec .scheduledStopTime s = .next s) ∧
      (d * 1000 ≤ s.time.ns → Answers .scheduledStopTime s fun t => stopped s t ∧ t.halt.source = 5)) ∧
  ∀ s, Answers .haltedResult s fun t => stopped s t ∧ t.halt.source = (if s.halt.state = 2 then s.halt.source else 3) ∧
    t.tender.contrib63 = false ∧ t.tender.result62 = none) ∧
  -- micro flits
  ((∀ s (p : Port) w rx, (7 ≤ p.val ∨ carrying s p = false) → exec (.microFlitReceive p w rx) s = .next s) ∧
  (∀ s (p : Port) w rx, p.val < 7 → carrying s p = true → 3 ≤ rx.syms → Answers (.microFlitReceive p w rx) s fun t =>
    (t.port p).uncorr = counted 64 1 (s.port p).uncorr ∧ (t.port p).flits = (s.port p).flits ∧
    t = { s with ports := t.ports, rings := t.rings }) ∧
  (∀ s (p : Port) w again n, p.val < 7 → carrying s p = true → (n = 1 ∨ n = 2) →
    exec (.microFlitReceive p w ⟨again, n⟩) s = exec (.microFlitReceive p w ⟨again, 0⟩) (s.bump (.port p 0))) ∧
  (∀ s (p : Port) w again, p.val < 7 → carrying s p = true →
    (bits w.toNat 0 4 = 7 → Answers (.microFlitReceive p w ⟨again, 0⟩) s fun t =>
      OnlyPort s t p { s.port p with flits := (s.port p).flits.eraseP fun x => echoOf x = w }) ∧
    (bits w.toNat 0 4 ≠ 7 → again = true → (s.port p).seen.contains w = true →
      exec (.microFlitReceive p w ⟨again, 0⟩) s = .next (s.send (.flit p (echoOf w)))) ∧
    (bits w.toNat 0 4 ≠ 7 → (again = false ∨ (s.port p).seen.contains w = false) →
      Answers (.microFlitReceive p w ⟨again, 0⟩) s fun t =>
        let ch := bits w.toNat 6 6
        (t.port p).seen = w :: (s.port p).seen.erase w ∧ (∃ rest, t.outbox = s.outbox ++ .flit p (echoOf w) :: rest) ∧
        ((bits w.toNat 0 4 = 0 ∨ bits w.toNat 0 4 = 2) → (t.chan ch).got =
          (bits w.toNat 16 16, bits w.toNat 32 15, BitVec.ofNat 4 (bits w.toNat 12 4)) :: (s.chan ch).got) ∧
        (bits w.toNat 0 4 = 1 → ch < 62 → (t.chan ch).phase = (s.chan ch).phase + 1) ∧
        (bits w.toNat 0 4 = 3 → t = { s with ports := t.ports, outbox := t.outbox }) ∧
        (bits w.toNat 0 4 = 4 → (s.consist.rank = 0 ∨ parentPort s p = true) → bits w.toNat 16 15 ≠ s.consist.rank →
          (bits w.toNat 4 2 ≠ 1 ∨ inRake s (bits w.toNat 16 15) = true) → t.halt.state = 2 ∧ t.halt.source = 3))) ∧
  ∀ s (p : Port), exec (.microFlitRepeat p) s = .next (match (s.port p).flits with
    | x :: _ => if carrying s p then s.send (.flit p x) else s
    | [] => s))

/-- R35 to R38, R413, R426, R428, R456, R486: when a module contributes to the two step barriers and with which flags, what the result of
channel 62 leaves, and the decision at the root; blocks done with another READY report once that the stage record is late. R39, R40, R427,
R457, R471: a commit swaps the buffers and a skip keeps them; each counts, ends the step and its ledger, and the next step begins, unless a
stop request ends in a halt; an undecided step stays as it is. The vector queues are dispatched first (R228). Choices of the model, not
rules: rows 16, 20 and 47 of the assumption log. -/
def Obligations.StepDecisions : Prop :=
  -- step barriers
  ((∀ s, ready62 s = false → exec (.stepContribution false) s = .next s) ∧
  (∀ s, ready62 s = true → Answers (.stepContribution false) s fun t =>
    let spike := s.consist.lossOn && (spikeTest s (stageLoss s)).1
    t.tender = { s.tender with contrib := true, stopReq := false } ∧
    t.watch = { s.watch with spike := spike, loss := stageLoss s, d := (spikeTest s (stageLoss s)).2 } ∧
    (t.chan 62).got = (s.tender.step % 2 ^ 16, s.consist.rank, BitVec.ofNat 4
      (b2n s.tender.nonfin + 2 * b2n spike + 4 * b2n s.tender.stopReq)) :: (s.chan 62).got) ∧
  (∀ s, (s.tender.run = false ∨ s.halt.state = 2 ∨ s.tender.result62 = none ∨ s.way.durable = false ∨ s.tender.contrib63 = true) →
    exec (.stepContribution true) s = .next s) ∧
  (∀ s, s.tender.run = true → s.halt.state ≠ 2 → s.tender.result62.isSome = true → s.way.durable = true → s.tender.contrib63 = false →
    Answers (.stepContribution true) s fun t => t.tender = { s.tender with contrib63 := true } ∧
      (t.chan 63).got = (s.tender.step % 2 ^ 16, s.consist.rank, BitVec.ofNat 4 (8 * b2n s.tender.skipBit)) :: (s.chan 63).got) ∧
  (∀ s, (s.tender.run = false ∨ s.halt.state = 2 ∨ s.tender.doneBlk < tenderDue s) → exec .tenderDone s = .next s) ∧
  (∀ s, s.tender.run = true → s.halt.state ≠ 2 → tenderDue s ≤ s.tender.doneBlk → Answers .tenderDone s fun t =>
    t.tender.done = true ∧
    (replaying s = false → s.way.ready ≠ s.tender.step → s.way.lateSent = false →
      t.way = { s.way with stageLate := true, lateSent := true } ∧ t.rings = (s.raise 0x0021 (s.way.ready % 2 ^ 32) 0).rings) ∧
    (replaying s = false → s.way.ready = s.tender.step → s.tender.contrib = false → s.way.rewrite = none → t.tender.contrib = true)) ∧
  (∀ s v, Answers (.readyWrite v) s fun t => t.way = { s.way with ready := v.toNat } ∧
    (s.tender.done = false ∨ s.tender.run = false ∨ s.halt.state = 2 → t = { s with way := t.way }) ∧
    (replaying s = false → s.tender.run = true → s.halt.state ≠ 2 → s.tender.done = true → s.way.rewrite = none →
      v.toNat = s.tender.step → t.tender.contrib = true)) ∧
  (∀ s n p q, (s.tender.run = false ∨ s.tender.contrib = false ∨ s.tender.result62.isSome = true ∨
    (s.consist.rank = 0 ∧ missing s 62 s.tender.step ≠ [])) → exec (.endOfStepResult n p q) s = .next s) ∧
  (∀ s n p q, s.tender.run = true → s.tender.contrib = true → s.tender.result62 = none → replaying s = false →
    (s.consist.rank = 0 → missing s 62 s.tender.step = []) → Answers (.endOfStepResult n p q) s fun t =>
      let f := if s.consist.rank = 0 then gotFlags s 62 s.tender.step else BitVec.ofNat 4 (b2n n + 2 * b2n p + 4 * b2n q)
      t.tender = { s.tender with result62 := some (f.getLsbD 0, f.getLsbD 1, f.getLsbD 2), skipBit := f.getLsbD 0 } ∧
      t.way = { s.way with stampAt := s.time.ns } ∧ (t.chan 62).phase = (s.chan 62).phase + 1 ∧
      (t.chan 62).comps = counted 64 1 (s.chan 62).comps) ∧
  (∀ s n p q, s.tender.run = true → s.tender.contrib = true → s.tender.result62 = none → replaying s = true →
    (s.consist.rank = 0 → missing s 62 s.tender.step = []) → Answers (.endOfStepResult n p q) s fun t =>
      t.tender.result62.isSome = true ∧ t.tender.skipBit = !entryFlag s.way.entry 1 ∧ t.way.durable = true) ∧
  (∀ s, (s.consist.rank ≠ 0 ∨ s.tender.contrib63 = false ∨ s.tender.final.isSome = true ∨ s.tender.stop63 = true ∨
    missing s 63 s.tender.step ≠ []) → exec .commitBarrierComplete s = .next s) ∧
  ∀ s, s.consist.rank = 0 → s.tender.contrib63 = true → s.tender.final = none → s.tender.stop63 = false →
    missing s 63 s.tender.step = [] → Answers .commitBarrierComplete s fun t =>
      t.tender = { s.tender with final := some ((gotFlags s 63 s.tender.step).getLsbD 3) }) ∧
  -- step ends
  (∀ s, ∀ i ∈ [(Instr.commitResult, true), (.skipResult, false)],
    let decided := s.tender.run = true ∧ s.tender.contrib63 = true ∧ (s.consist.rank = 0 → s.tender.final = some (!i.2))
    (¬decided → exec i.1 s = .next s) ∧
    let u := dispatchQueues s
    ((∀ c, (s.coach c).vq = []) → u = s) ∧
    (decided → Answers i.1 s fun t =>
      t.tender.step = u.tender.step + 1 ∧ t.tender.active = (if i.2 then !u.tender.active else u.tender.active) ∧
      t.tender.commits = (if i.2 then counted 64 1 u.tender.commits else u.tender.commits) ∧
      t.tender.skips = (if i.2 then u.tender.skips else counted 64 1 u.tender.skips) ∧
      t.tender.margins = (if i.2 then u.tender.marginAcc else u.tender.margins) ∧ t.tender.marginAcc = [] ∧
      t.tender.done = false ∧ t.tender.contrib = false ∧ t.tender.contrib63 = false ∧ t.tender.doneBlk = 0 ∧ t.tender.record = [] ∧
      t.tender.result62 = none ∧ t.tender.final = none ∧ t.tender.nonfin = false ∧
      t.ledger = { u.ledger with slot := [], fold := [], opened := 0, used := [] } ∧
      (t.chan 63).phase = (u.chan 63).phase + 1 ∧
      (∀ a b, u.tender.result62 = some (a, b, true) → t.halt.state = 2 ∧ t.halt.source = 6)))

/-- R483, R484, R487 to R491, R504, R508, R513: the entry of a step is a good entry of it, is written, sent or queued for the flash, and becomes
durable when its second copy is; a partner that does not answer in 200 µs is reported; the partner's own entries are held; a halted step's
entry is marked void; a replayed step is compared; and a populated position that cannot be reached stops the consist. R494 to R497, R41: a
save that has read its blocks becomes a checkpoint of its slot whose digests and MANDIG hold, and gives its tier its label; one of tier 3 is
staged first, and waits for its release. Choices of the model, not rules: rows 20, 21, 42, 43, 44, 46, 71, 74 and 85 of the assumption log. -/
def Obligations.WaybillsAndTiers : Prop :=
  -- waybill entries
  ((∀ s nf sp st, s.tender.step < 2 ^ 64 → goodEntry s.tender.step (entryOfStep s nf sp st) = true) ∧
  (∀ s, (s.tender.result62 = none ∨ s.way.built = true ∨ replaying s = true) → exec .waybillEntryBuild s = .next s) ∧
  (∀ s nf sp st, s.tender.result62 = some (nf, sp, st) → s.way.built = false → replaying s = false →
    Answers .waybillEntryBuild s fun t => t.way.built = true ∧
      (s.consist.partner = none → t.way.flashQ = s.way.flashQ ++ [(s.tender.step, entryOfStep s nf sp st)]) ∧
      (s.consist.partner.isSome = true → t.way.toPartner = some s.tender.step ∧ t.way.sentAt = s.time.ns ∧
        t.way.flashQ = if s.way.both then s.way.flashQ ++ [(s.tender.step, entryOfStep s nf sp st)] else s.way.flashQ)) ∧
  (∀ s e, e.length ≠ 4096 → exec (.waybillMirrorReceive e) s = .fault .illFormed) ∧
  (∀ s e, e.length = 4096 → (s.consist.partner = none → exec (.waybillMirrorReceive e) s = .next s) ∧
    (s.consist.partner.isSome = true → Answers (.waybillMirrorReceive e) s fun t =>
      mget [] t.way.mirrorRing (leNat (e.take 8) % s.consist.entries) = e ∧ t = { s with way := t.way, ports := t.ports })) ∧
  (∀ s, s.way.toPartner = none → exec .waybillMirrorAck s = .next s ∧ exec .mirrorTimeout s = .next s) ∧
  (∀ s n, s.way.toPartner = some n →
    (Answers .waybillMirrorAck s fun t => t.way.toPartner = none ∧ t.way.timedOut = false ∧
      (n = s.tender.step → s.way.built = true → s.way.durable = false → s.way.rewrite ≠ some n →
        t.way.durable = true ∧ t.way.last = n ∧ t.way.prevLast = s.way.last)) ∧
    (s.way.timedOut = true ∨ s.time.ns < s.way.sentAt + 200000 → exec .mirrorTimeout s = .next s) ∧
    (s.way.timedOut = false → s.way.sentAt + 200000 ≤ s.time.ns → Answers .mirrorTimeout s fun t =>
      t.way.timedOut = true ∧ t.way.mirrorLost = true ∧ t.way.both = true ∧ t.way.acksInTime = 0 ∧
      t.way.timeouts = counted 64 1 s.way.timeouts ∧ (s.way.both = true → t.way.flashQ = s.way.flashQ) ∧
      (s.way.both = false → ∃ e, t.way.flashQ = s.way.flashQ ++ [(n, e)]) ∧
      (s.mgmt.flashRo = true → t.halt.state = 2 ∧ t.halt.source = 4))) ∧
  (∀ s, (s.mgmt.flashRo = true ∨ (s.way.flashQ = [] ∧ s.way.toFlash = [])) → exec .flashMirrorWriteComplete s = .next s) ∧
  (∀ s n e rest, s.mgmt.flashRo = false →
    (s.way.flashQ = (n, e) :: rest ∨ (s.way.flashQ = [] ∧ s.way.toFlash = (n, e) :: rest ∧ s.way.rewrite ≠ some n)) →
    Answers .flashMirrorWriteComplete s fun t => mget [] t.way.flashRing (n % 2 ^ 20) = e ∧ t.way.flashed = n ∧
      (s.way.flashQ ≠ [] → t.way.flashQ = rest ∧ t.way.toFlash = s.way.toFlash) ∧
      (s.way.flashQ = [] → t.way.flashQ = [] ∧ t.way.toFlash = rest)) ∧
  (∀ s, voidDue s = false → exec .waybillVoid s = .next s) ∧
  (∀ s, voidDue s = true → Answers .waybillVoid s fun t => t.way.built = false ∧ t.way.durable = false ∧
    t.way.last = s.way.prevLast ∧ t.way.rewrite = some s.tender.step) ∧
  (∀ s, s.way.toCheck = none → exec .replayStepCheck s = .next s) ∧
  (∀ s n fin e, s.way.toCheck = some (n, fin, e) → s.tender.step ≠ n + 1 →
    (fin = entryFlag e 0 → leNat (stageRaw s 0xB8 4) = leNat ((e.drop 0xB8).take 4) →
      Answers .replayStepCheck s fun t => t = { s with way := { s.way with toCheck := none } }) ∧
    (fin ≠ entryFlag e 0 ∨ leNat (stageRaw s 0xB8 4) ≠ leNat ((e.drop 0xB8).take 4) → Answers .replayStepCheck s fun t =>
      t.way = { s.way with toCheck := none, diverged := true, divergences := counted 64 1 s.way.divergences } ∧
      t.tender = s.tender)) ∧
  (∀ s n fin e, s.way.toCheck = some (n, fin, e) → s.tender.step = n + 1 → Answers .replayStepCheck s fun t => t.way.toCheck = none ∧
    (fin ≠ entryFlag e 0 → t.way.diverged = true)) ∧
  ∀ s (q : Fin 8), (q.val = s.consist.position ∨ s.consist.populated.getLsbD q = false ∨ reachable s q = true →
      exec (.peerLost q) s = .next s) ∧
    (q.val ≠ s.consist.position → s.consist.populated.getLsbD q = true → reachable s q = false →
      Answers (.peerLost q) s fun t => t.halt.state = 2 ∧ t.halt.source = 4)) ∧
  -- checkpoints
  ((∀ s (k : Fin 3), mget none s.way.saves k = none → exec (.checkpointSaveComplete k) s = .next s) ∧
  (∀ s (k : Fin 3) u v, u = saveReadAll s k → mget none u.way.saves k = some v → v.staged = false →
    Answers (.checkpointSaveComplete k) s fun t =>
      (∃ c, mget none t.way.slots (2 * k.val + v.slot) = some c ∧ c.label = v.label ∧ c.tier = k.val + 1 ∧
        c.rank = u.consist.rank ∧ c.consist = v.consist ∧ c.gen = v.gen ∧ c.mandig = mandigOf c ∧ ∀ h ∈ c.shards, h.digest = shaNat h.data) ∧
      (k.val < 2 → mget none t.way.saves k = none ∧ mget 0 t.way.labels k = v.label ∧ t = { u with way := t.way }) ∧
      (k.val = 2 → mget none t.way.saves k = some { v with staged := true } ∧ t.way.labels = u.way.labels)) ∧
  (∀ s (k : Fin 3) u v, u = saveReadAll s k → mget none u.way.saves k = some v → v.staged = true →
    exec (.checkpointSaveComplete k) s = .next u) ∧
  (∀ s, (∀ v, mget none s.way.saves 2 = some v → v.staged = false) → exec .tier3Staged s = .next s) ∧
  ∀ s v, mget none s.way.saves 2 = some v → v.staged = true → Answers .tier3Staged s fun t =>
    mget none t.way.saves 2 = none ∧ t.way.unreleased = v.slot :: s.way.unreleased ∧
    t.rings = (s.raise 0x0025 (v.label % 2 ^ 32) v.slot).rings ∧ t = { s with way := t.way, rings := t.rings })

/-- R41, R436, R445 to R448, R455, R459: a reduced block that reaches the Tender is dropped, discarded and reported, or queued; the oldest block
of an entry under the native rule is applied once, unless a drain must read its block first, which is counted once as a stall. R441, R442,
R453, R454: a leaf's partials enter their layer once, and the last of them gives the ratio; pass 2 then writes every block of the layer,
once no drain must read one; at a quiescent point an install replaces its entries. Choices of the model, not rules: row 41 of the assumption
log. -/
def Obligations.TenderUpdates : Prop :=
  -- tender blocks
  ((∀ s e b g n vals, vals.length ≠ 4096 → exec (.tenderBlockArrival e b g n vals) s = .fault .illFormed) ∧
  (∀ s (e b g n : Half) vals, vals.length = 4096 →
    let q : TBlock := ⟨e.toNat, b.toNat, g.toNat, n.toNat, vals⟩
    let d := s.dir e.toNat
    let seen := s.tender.record.contains (e.toNat, b.toNat) || s.tender.qblk.any fun r => r.1 = e.toNat && r.2.1 = b.toNat
    let open' := s.halt.state ≠ 2 ∧ s.tender.queue.length < 1024
    let checked := open' ∧ s.tender.contrib = false
    (¬open' → exec (.tenderBlockArrival e b g n vals) s = .next s) ∧
    (open' → (s.tender.contrib = true ∨ (owned s d = true ∧ q.gen = d.gen ∧ seen = false ∧
        (d.frozen = false ∨ d.compat = true ∨ s.tender.copies ≠ []))) → Answers (.tenderBlockArrival e b g n vals) s fun t =>
      t = { s with tender := { s.tender with queue := s.tender.queue ++ [q] } }) ∧
    (checked → owned s d = false → Answers (.tenderBlockArrival e b g n vals) s fun t =>
      t.tender = { s.tender with misrouted := counted 64 1 s.tender.misrouted } ∧ t = { s with tender := t.tender, rings := t.rings }) ∧
    (checked → owned s d = true → q.gen ≠ d.gen → Answers (.tenderBlockArrival e b g n vals) s fun t =>
      t.tender = { s.tender with mixedGen := counted 64 1 s.tender.mixedGen } ∧ t = { s with tender := t.tender, rings := t.rings }) ∧
    (checked → owned s d = true → q.gen = d.gen → seen = true → Answers (.tenderBlockArrival e b g n vals) s fun t =>
      t.tender = { s.tender with duplicates := counted 64 1 s.tender.duplicates }) ∧
    (checked → owned s d = true → q.gen = d.gen → seen = false → d.frozen = true → d.compat = false → s.tender.copies = [] →
      Answers (.tenderBlockArrival e b g n vals) s fun t =>
        t.tender.dropped = counted 64 1 s.tender.dropped ∧ t.tender.doneBlk = s.tender.doneBlk + 1 ∧
        t.tender.record = (e.toNat, b.toNat) :: s.tender.record)) ∧
  (∀ s, frontBlock s = none → exec .tenderBlockApply s = .next s ∧ exec .compatPass1 s = .next s) ∧
  (∀ s q, frontBlock s = some q →
    let d := s.dir q.entry
    (owned s d = false ∨ q.gen ≠ d.gen ∨ s.tender.record.contains (q.entry, q.block) = true ∨
      (s.tender.qblk.any fun r => r.1 = q.entry && r.2.1 = q.block) = true) →
    Answers (if d.compat then .compatPass1 else .tenderBlockApply) s fun t => t.tender.queue = s.tender.queue.drop 1 ∧
      t.tender.record = s.tender.record ∧ t.tender.doneBlk = s.tender.doneBlk ∧ t.llc = s.llc ∧ t.mem = s.mem) ∧
  (∀ s q, frontBlock s = some q →
    let d := s.dir q.entry
    owned s d = true → q.gen = d.gen → s.tender.record.contains (q.entry, q.block) = false →
    (s.tender.qblk.any fun r => r.1 = q.entry && r.2.1 = q.block) = false →
    (d.compat = false → exec .compatPass1 s = .next s) ∧ (d.compat = true → exec .tenderBlockApply s = .next s) ∧
    (d.compat = false → d.frozen = true → Answers .tenderBlockApply s fun t =>
      t.tender.dropped = counted 64 1 s.tender.dropped ∧ t.tender.doneBlk = s.tender.doneBlk + 1 ∧
      t.tender.record = (q.entry, q.block) :: s.tender.record) ∧
    (d.compat = false → d.frozen = false → mustWait s q.entry q.block = true → Answers .tenderBlockApply s fun t =>
      t.tender = { s.tender with
        stalled := true
        drainStalls := if s.tender.stalled then s.tender.drainStalls else counted 64 1 s.tender.drainStalls } ∧
      t = { s with tender := t.tender, rings := t.rings }) ∧
    (d.compat = false → d.frozen = false → mustWait s q.entry q.block = false → Answers .tenderBlockApply s fun t =>
      t.tender.applied = counted 64 1 s.tender.applied ∧ t.tender.doneBlk = s.tender.doneBlk + 1 ∧
      t.tender.record = (q.entry, q.block) :: s.tender.record ∧ t.tender.stalled = false ∧ t.tender.active = s.tender.active ∧
      t.tender.dir = s.tender.dir ∧ t.hostMem = s.hostMem) ∧
    (d.compat = true → d.frozen = false → Answers .compatPass1 s fun t =>
      (∃ m w, t.tender.qblk = s.tender.qblk ++ [(q.entry, q.block, m, w)]) ∧ t.tender.doneBlk = s.tender.doneBlk ∧
      t.tender.record = s.tender.record ∧ t.tender.dir = s.tender.dir)) ∧
  (∀ s, s.tender.stalled = false → exec .drainStallResume s = .next s) ∧
  ∀ s, s.tender.stalled = true → mwf none s.way.saves → ∃ u, exec .drainStallResume s = .next (applyFront u) ∧
    u.tender.dir = s.tender.dir ∧ u.tender.record = s.tender.record ∧ u.tender.stalled = false ∧
    ∀ r ∈ waitedBlocks s, mustWait u r.1 r.2 = false) ∧
  -- compat layers and installs
  ((∀ s (l k : Half) m w, 4096 ≤ l.toNat ∨ (s.tender.qleaf.any fun r => r.1 = l.toNat && r.2.1 = k.toNat) = true →
    exec (.compatPartialReceive l k m w) s = .next s) ∧
  (∀ s (l k : Half) (m w : Word32), l.toNat < 4096 → (s.tender.qleaf.any fun r => r.1 = l.toNat && r.2.1 = k.toNat) = false →
    Answers (.compatPartialReceive l k m w) s fun t =>
      let full := ∀ i < (mget (0, 0) s.consist.layers l.toNat).1, i = k.toNat ∨ ∃ r ∈ s.tender.qleaf, r.1 = l.toNat ∧ r.2.1 = i
      t = { s with tender := { s.tender with qleaf := t.tender.qleaf, rho := t.tender.rho } } ∧
      t.tender.qleaf = s.tender.qleaf ++ [(l.toNat, k.toNat, m.toNat, w.toNat)] ∧
      (full → (mget none t.tender.rho l.toNat).isSome = true) ∧ (¬full → t.tender.rho = s.tender.rho)) ∧
  (∀ s (l : Half), (mget none s.tender.rho l.toNat = none ∨ s.halt.state = 2 ∨ s.tender.contrib = true ∨ pass2Blocks s l.toNat = []) →
    exec (.compatPass2 l) s = .next s) ∧
  (∀ s (l : Half) r, mget none s.tender.rho l.toNat = some r → s.halt.state ≠ 2 → s.tender.contrib = false → pass2Blocks s l.toNat ≠ [] →
    ((∃ b ∈ pass2Blocks s l.toNat, mustWait s b.1 b.2 = true) → Answers (.compatPass2 l) s fun t =>
      t.tender = { s.tender with
        stalled := true
        drainStalls := if s.tender.stalled then s.tender.drainStalls else counted 64 1 s.tender.drainStalls }) ∧
    ((∀ b ∈ pass2Blocks s l.toNat, mustWait s b.1 b.2 = false) → Answers (.compatPass2 l) s fun t =>
      t.tender.doneBlk = s.tender.doneBlk + (pass2Blocks s l.toNat).length ∧
      (∀ b ∈ pass2Blocks s l.toNat, b ∈ t.tender.record) ∧ t.tender.stalled = false ∧ pass2Blocks t l.toNat = [])) ∧
  (∀ s, s.quiescent = false → s.tender.copies = [] → exec .tenderInstallApply s =
    .next { s with tender := { s.tender with copies := [], stalled := false } }) ∧
  ∀ s i, s.quiescent = true → s.tender.installs = [i] → s.way.saves = [] → s.tender.copies = [] →
    (∀ e ∈ i.entries, e.frozen = false) → Answers .tenderInstallApply s fun t =>
      t = { s with tender := { s.tender with dir := t.tender.dir, installs := [], stalled := false } } ∧
      ∀ x, t.dir x = if i.first ≤ x ∧ x < i.first + i.entries.length then i.entries.getD (x - i.first) {} else s.dir x)

/-- R450: the native rule on one parameter: momentum moves to β·m + (1 − β)·s, and the weight by the learning rate times the sign of the new
momentum plus the decay, each operation rounded in FP32. -/
def Obligations.NativeRule : Prop :=
  ∀ (h : Preset) omb s w m, nativeUpdate h omb s w m =
    (sub32 w (mul32 h.lr (add32 (sgn32 (add32 (mul32 h.beta m) (mul32 omb s))) (mul32 h.lambda w))),
      add32 (mul32 h.beta m) (mul32 omb s)) ∧
    (∀ v : Word32, gradSign true v ∈ [0, one32, minusOne32] ∧
      (gradSign true v = one32 ↔ 0 < (v.setWidth 16).toInt) ∧ (gradSign true v = minusOne32 ↔ (v.setWidth 16).toInt < 0))

/-- R469 to R474: the slot ledger takes a CONFIG only before its step has begun, opens a micro-batch once in the lowest free slot, takes its
folds in order, frees the slot behind the last of them, and rejects and reports what breaks the schedule. R225 to R231, R635: a store to the
contribution view adds to the slot it names, when the slot's class is watched: elements, zeros, saturations and non-finite elements, or a
magnitude for its maximum, which no NaN enters; any other store does nothing. Writing 1 to a sticky bit clears its counter, and no other.
R243, R244: the loss watch at the end of a step works on the loss, difference and flag evaluated before the contribution of the step: a
skipped step or a non-finite loss leaves it as it is; the ninth loss of a streak resets it to that loss; another spike only lengthens the
streak; any other loss moves mean and variance, is counted, and ends the streak. The last loss is noted, and a spike gives its event.
Choices of the model, not rules: row 47 of the assumption log. -/
def Obligations.LedgerAndWatch : Prop :=
  -- slot ledger
  (let rejected (s t : State) (arg : Nat) : Prop := t.ledger = { s.ledger with rejects := counted 64 1 s.ledger.rejects, order := true } ∧
    (s.ledger.rejects.val < 2 ^ 63 → t.rings = (s.raise 0x0024 arg 0).rings) ∧ t = { s with ledger := t.ledger, rings := t.rings }
  let halted (s : State) := b2n (s.halt.state = 2) * 2 ^ 19
  (∀ s v, Answers (.ledgerConfigWrite v) s fun t => t = { s with ledger := t.ledger } ∧ t.ledger =
    if s.ledger.opened = 0 ∧ s.ledger.fold = [] then { s.ledger with b := bits v.toNat 0 13, p1 := bits v.toNat 13 6 }
    else s.ledger) ∧
  (∀ s (v : Word32),
    let j := v.toNat % 4096
    (∀ k, freeSlot s.ledger = some k → s.halt.state ≠ 2 → j < s.ledger.b → j ∉ s.ledger.used → Answers (.ledgerOpen v) s fun t =>
      t = { s with ledger := t.ledger } ∧ t.ledger = { s.ledger with
        slot := t.ledger.slot, opened := s.ledger.opened + 1, used := j :: s.ledger.used } ∧
      ∀ i, mget none t.ledger.slot i = if i = k then some j else mget none s.ledger.slot i) ∧
    ((freeSlot s.ledger = none ∨ s.halt.state = 2 ∨ s.ledger.b ≤ j ∨ j ∈ s.ledger.used) → Answers (.ledgerOpen v) s fun t =>
      rejected s t (j + halted s))) ∧
  ∀ s (v : Word32),
    let j := v.toNat % 4096
    let p := v.toNat / 4096 % 64
    (∀ k, slotHolding s.ledger j = some k → s.halt.state ≠ 2 → p ≤ s.ledger.p1 → mget 0 s.ledger.fold p = j →
      Answers (.ledgerFolded v) s fun t =>
        (∀ q, mget 0 t.ledger.fold q = if q = p then j + 1 else mget 0 s.ledger.fold q) ∧ t.ledger.used = s.ledger.used ∧
        ((∀ q ≤ s.ledger.p1, q ≠ p → j < mget 0 s.ledger.fold q) → mget none t.ledger.slot k = none ∧
          t.ledger.opened = s.ledger.opened - 1 ∧ (s.consist.freesem ≠ s.consist.foldsem + p →
            (t.sem s.consist.freesem).value = (s.sem s.consist.freesem).value + 1)) ∧
        ((∃ q ≤ s.ledger.p1, q ≠ p ∧ mget 0 s.ledger.fold q ≤ j) → t.ledger.slot = s.ledger.slot ∧ t.ledger.opened = s.ledger.opened ∧
          (t.sem (s.consist.foldsem + p)).value = (s.sem (s.consist.foldsem + p)).value + 1)) ∧
    ((slotHolding s.ledger j = none ∨ s.halt.state = 2 ∨ s.ledger.p1 < p ∨ mget 0 s.ledger.fold p ≠ j) →
      Answers (.ledgerFolded v) s fun t => rejected s t (j + p * 2 ^ 12 + 2 ^ 18 + halted s))) ∧
  -- watch and sticky
  ((∀ s (off : Half) (v : Word), slotOn s (off.toNat / 64) = true →
    let k := off.toNat / 64
    let w := s.slot k
    let add (c : Stat) : Stat := if v = 0 then c else counted 64 v.toNat c
    (off.toNat % 64 = 0 → Answers (.watchContributionStore off 8 v) s fun t =>
      t.slot k = { w with elements := add w.elements, de := w.de + v.toNat } ∧ ∀ j, j ≠ k → t.slot j = s.slot j) ∧
    (off.toNat % 64 = 8 → Answers (.watchContributionStore off 8 v) s fun t =>
      t.slot k = { w with zeros := add w.zeros, dz := w.dz + v.toNat } ∧ ∀ j, j ≠ k → t.slot j = s.slot j) ∧
    (off.toNat % 64 = 16 → Answers (.watchContributionStore off 8 v) s fun t =>
      t.slot k = { w with sats := add w.sats, ds := w.ds + v.toNat } ∧ ∀ j, j ≠ k → t.slot j = s.slot j) ∧
    (off.toNat % 64 = 24 → Answers (.watchContributionStore off 8 v) s fun t =>
      t.slot k = { w with nonfin := add w.nonfin } ∧ ∀ j, j ≠ k → t.slot j = s.slot j)) ∧
  (∀ s (off : Half) (v : Word), off.toNat % 64 = 32 →
    let m := v.toNat % 2 ^ 31
    (0x7F800000 < m → exec (.watchContributionStore off 4 v) s = .next s) ∧
    (m ≤ 0x7F800000 → Answers (.watchContributionStore off 4 v) s fun t =>
      t.slot (off.toNat / 64) = { s.slot (off.toNat / 64) with amax := max (s.slot (off.toNat / 64)).amax m } ∧
      t = { s with watch := { s.watch with slots := t.watch.slots } })) ∧
  (∀ s (off : Half) (n : Fin 9) (v : Word), (n.val = 8 ∧ (slotOn s (off.toNat / 64) = false ∨ off.toNat % 64 ∉ [0, 8, 16, 24])) ∨
    (n.val = 4 ∧ off.toNat % 64 ≠ 32) ∨ (n.val ≠ 4 ∧ n.val ≠ 8) → exec (.watchContributionStore off n v) s = .next s) ∧
  ∀ s r, Answers (.stickyOvfClear r) s fun t => statGet r t = {} ∧ (∀ q, q ≠ r → statGet q t = statGet q s) ∧
    t.tender.dir = s.tender.dir ∧ t.hostMem = s.hostMem ∧ t.mem.cells = s.mem.cells) ∧
  -- loss watch
  (∀ s skipped, s.consist.lossOn = true →
    let w := s.watch
    let t := lossEnd s skipped
    let a := lossAlpha s
    let kept : Prop := t.watch = { w with last := w.loss, due := t.watch.due }
    t = { s with watch := t.watch, rings := t.rings } ∧
    (w.spike = false → w.streak ≠ 8 → t.rings = s.rings) ∧
    (w.spike = true → w.streak ≠ 8 → t.rings = (s.raise 0x0033 w.loss (w.streak + 1)).rings) ∧
    (skipped = true ∨ nonFinite32 w.loss = true → kept) ∧
    (skipped = false → nonFinite32 w.loss = false →
      t.watch.streak = (if w.spike then w.streak + 1 else 0) ∧ t.watch.last = w.loss ∧
      (w.streak = 8 → t.watch.mu = w.loss ∧ t.watch.var = 0 ∧ t.watch.steps.val = 0) ∧
      (w.streak ≠ 8 → w.spike = true → t.watch.mu = w.mu ∧ t.watch.var = w.var ∧ t.watch.steps = w.steps) ∧
      (w.streak ≠ 8 → w.spike = false → t.watch.mu = add32 w.mu (mul32 a w.d) ∧
        t.watch.var = mul32 (sub32 0x3F800000 a) (add32 w.var (mul32 (mul32 a w.d) w.d)) ∧
        t.watch.steps = counted 32 1 w.steps)))

/-- R635, R530: every statistics counter counts up to all-ones, where it stays and sets its sticky bit, and raises its event once, with its
locator; no other counter changes. Choices of the model, not rules: row 67 of the assumption log. -/
def Obligations.StatisticsCounters : Prop :=
  ∀ s r k, r ≠ .ringLost →
    statGet r (s.bump r k) = counted (statWidth r) k (statGet r s) ∧
    (∀ q, q ≠ r → q ≠ .ringLost → statGet q (s.bump r k) = statGet q s) ∧
    ((statGet r s).ovf = true ∨ (statGet r s).val + k < 2 ^ statWidth r - 1 →
      (s.bump r k).rings.events = s.rings.events ∧ (s.bump r k).watch.due = s.watch.due) ∧
    ((statGet r s).ovf = false → 2 ^ statWidth r - 1 ≤ (statGet r s).val + k →
      if ofWatch r then (s.bump r k).watch.due = s.watch.due ++ [(0x0002, statLoc r, 0)]
      else (s.bump r k).rings.events = (s.raise 0x0002 (statLoc r) 0).rings.events)

/-- R535, R536, R608 to R611: what a pair does with writes of RING_CFG, with doorbells and with its shadow line: the lowest failing check of an
enabling write gives its code; a pair that is On keeps its configuration and drains when it is disabled; tails and heads that step back or
beyond the ring are discarded and counted. Choices of the model, not rules: row 57 of the assumption log. -/
def Obligations.RingRegisters : Prop :=
  (∀ s (r : RingNo) (v : Word),
    let p := s.pair r
    let n := v.toNat ||| 1
    let rejected (code : Nat) := Answers (.ringEnableWrite r v) s fun t => OnlyPair s t r { p with err := code }
    let second := ∃ e ∈ s.rings.pairs, e.1 ≠ r.val ∧ e.2.state ≠ 0 ∧ e.2.cls = 2
    (p.state = 2 → rejected 5 ∧ Answers (.ringDisableWrite r v) s fun t => OnlyPair s t r { p with err := 5 }) ∧
    (p.state = 1 → rejected (if cfgBits n = p.cfg then 0 else 5) ∧ Answers (.ringDisableWrite r v) s fun t => OnlyPair s t r
      { p with state := 2, err := 0, cmds := p.cmds.filter fun c => c.started || c.done.isSome }) ∧
    (p.state = 0 →
      (Answers (.ringDisableWrite r v) s fun t => OnlyPair s t r { p.withCfg n with err := 0 }) ∧
      (s.sys.ready = false → rejected 1) ∧
      (s.sys.ready = true → (bits n 4 4 < 4 ∨ 12 < bits n 4 4) → rejected 2) ∧
      (s.sys.ready = true → 4 ≤ bits n 4 4 → bits n 4 4 ≤ 12 →
        (bits n 1 2 = 3 → rejected 3) ∧ (bits n 1 2 = 2 → second → rejected 4) ∧
        (bits n 1 2 ≠ 3 → ¬(bits n 1 2 = 2 ∧ second) →
          (p.addr = 0 → rejected 6) ∧
          (p.addr ≠ 0 → Answers (.ringEnableWrite r v) s fun t => OnlyPair s t r { p.withCfg n with
            state := 1, err := 0, sqTail := 0, sqHead := 0, cqTail := 0, cqHead := 0, cmds := [], toSignal := 0, snap := 0
            hold := none }))))) ∧
  (∀ s (r : RingNo), Answers (.ringDrained r) s fun t =>
    OnlyPair s t r (if (s.pair r).state = 2 ∧ (s.pair r).cmds = [] then { s.pair r with state := 0 } else s.pair r)) ∧
  (∀ s (r : RingNo) v,
    let p := s.pair r
    (p.state ≠ 1 → exec (.doorbellSqTail r v) s = .next (s.bump (.ringDiscards r)) ∧
      exec (.doorbellCqHead r v) s = .next (s.bump (.ringDiscards r))) ∧
    (p.state = 1 → doorbellFree s r = true → exec (.doorbellSqTail r v) s = .next s ∧ exec (.doorbellCqHead r v) s = .next s) ∧
    (p.state = 1 → doorbellFree s r = false →
      ((reached v p.sqTail = false ∨ 2 ^ p.size < (v - p.sqHead).toNat) →
        exec (.doorbellSqTail r v) s = .next (s.bump (.ringDiscards r))) ∧
      (reached v p.sqTail = true → (v - p.sqHead).toNat ≤ 2 ^ p.size →
        Answers (.doorbellSqTail r v) s fun t => OnlyPair s t r { p with sqTail := v }) ∧
      (reached p.cqTail v = false → exec (.doorbellCqHead r v) s = .next (s.bump (.ringDiscards r))) ∧
      (reached p.cqTail v = true → Answers (.doorbellCqHead r v) s fun t => OnlyPair s t r { p with cqHead := v }))) ∧
  ∀ s (r : RingNo),
    let p := s.pair r
    let word (o : Nat) : BitVec 32 := BitVec.ofNat 32 (leNat (getCells s.hostMem (p.shadowAddr + o) 4))
    ((p.state ≠ 1 ∨ doorbellFree s r = false ∨ s.sys.cxlUp = false) → exec (.shadowLineReread r) s = .next s) ∧
    (p.state = 1 → doorbellFree s r = true → s.sys.cxlUp = true → reached (word 0) p.sqTail = true →
      (word 0 - p.sqHead).toNat ≤ 2 ^ p.size → reached p.cqTail (word 4) = true → Answers (.shadowLineReread r) s fun t =>
        OnlyPair s t r { p with sqTail := word 0, cqHead := word 4 })

/-- R524 to R530, R537, R612: an entry is fetched in order over a link that is up, at most 16 ahead; the oldest command's completion is written
whole where its ring has room, and an event on the event ring; each is signalled by one message on the pair's vector, which waits while it
is masked. Choices of the model, not rules: rows 9 and 70 of the assumption log. -/
def Obligations.RingTraffic : Prop :=
  (∀ s (r : RingNo),
    let p := s.pair r
    let fetches := p.state = 1 ∧ s.sys.cxlUp = true ∧ p.cls ≠ 2 ∧ p.sqHead ≠ p.sqTail ∧ p.cmds.length < 16 ∧
      (s.halt.state ≠ 2 ∨ p.cls = 0)
    (¬fetches → exec (.ringEntryFetch r) s = .next s) ∧
    (fetches →
      let b := getCells s.hostMem (p.base + 64 * (p.sqHead.toNat % 2 ^ p.size)) 64
      Answers (.ringEntryFetch r) s fun t => ∃ c, OnlyPair s t r { p with
          sqHead := p.sqHead + 1, cmds := p.cmds ++ [c], hold := if p.hold = some (p.sqHead + 1) then none else p.hold } ∧
        c.idx = p.sqHead ∧ c.op = leNat (b.take 1) ∧ c.cid = leNat ((b.drop 2).take 2) ∧ c.params = b.drop 8 ∧
        c.irq = bit (leNat ((b.drop 1).take 1)) 0 ∧ c.order = bit (leNat ((b.drop 1).take 1)) 1 ∧
        (p.hold = none → c.stale = false ∧
          c.done = if s.halt.state = 2 ∨ p.cls ∈ opClasses c.op then none else some (2, 0)) ∧
        (c.stale = true → c.done = some (6, 0)))) ∧
  (∀ s (r : RingNo), ((s.pair r).state = 0 ∨ s.sys.cxlUp = false ∨ cqRoom (s.pair r) = false ∨ (s.pair r).cmds = [] ∨
      ∃ c rest, (s.pair r).cmds = c :: rest ∧ c.done = none) → exec (.completionWrite r) s = .next s) ∧
  (∀ s (r : RingNo) c rest st res,
    let p := s.pair r
    let phase := b2n (p.cqTail.toNat / 2 ^ p.size % 2 = 0)
    p.state ≠ 0 → s.sys.cxlUp = true → cqRoom p = true → p.cmds = c :: rest → c.done = some (st, res) →
    Answers (.completionWrite r) s fun t =>
      getCells t.hostMem (p.cqAddr p.cqTail) 16 = leBytes 2 c.cid ++ leBytes 1 (phase + 4 * st) ++ [0] ++ leBytes 4 c.idx.toNat ++ leBytes 8 res ∧
      (∀ a, (a < p.cqAddr p.cqTail ∨ p.cqAddr p.cqTail + 16 ≤ a) → mget 0 t.hostMem a = mget 0 s.hostMem a) ∧
      OnlyPair { s with hostMem := t.hostMem } t r { p with
        cmds := rest, cqTail := p.cqTail + 1, toSignal := if c.irq then p.toSignal + 1 else p.toSignal
        sigAt := if c.irq = true ∧ p.toSignal = 0 then s.time.ns else p.sigAt }) ∧
  (∀ s, (eventRing s = none ∨ s.sys.cxlUp = false ∨ (s.rings.events = [] ∧ s.rings.lostNow = 0)) → exec .eventPost s = .next s) ∧
  (∀ s r e rest,
    let p := s.pair r
    let phase := b2n (p.cqTail.toNat / 2 ^ p.size % 2 = 0)
    eventRing s = some r → s.sys.cxlUp = true → s.rings.events = e :: rest →
    (cqRoom p = false → exec .eventPost s = .next s) ∧
    (cqRoom p = true → Answers .eventPost s fun t =>
      getCells t.hostMem (p.cqAddr p.cqTail) 16 = leBytes 2 e.code ++ leBytes 1 (phase + 2) ++ [0] ++ leBytes 4 e.arg ++
        leBytes 8 (e.step + e.extra * 2 ^ 48) ∧
      t.rings.events = rest ∧ (t.pair r).cqTail = p.cqTail + 1 ∧ (t.pair r).toSignal = p.toSignal + 1 ∧
      (∀ q, q ≠ r → t.pair q = s.pair q))) ∧
  (∀ s (r : RingNo),
    let p := s.pair r
    let sent (t : State) (left : Nat) := t.pair r = { p with toSignal := left } ∧
      (s.rings.unmasked.getLsbD p.vec = true → s.rings.funcMask = false → t.outbox = s.outbox ++ [.msix p.vec] ∧
        t.rings.pba = s.rings.pba) ∧
      ((s.rings.unmasked.getLsbD p.vec = false ∨ s.rings.funcMask = true) → t.outbox = s.outbox ∧
        t.rings.pba = s.rings.pba ||| (1 : BitVec 64) <<< p.vec)
    ((p.toSignal = 0 ∨ s.sys.cxlUp = false) → exec (.msixSignal r) s = .next s) ∧
    (p.toSignal ≠ 0 → s.sys.cxlUp = true → hostExpert s = false → Answers (.msixSignal r) s fun t => sent t (p.toSignal - 1)) ∧
    (p.toSignal ≠ 0 → s.sys.cxlUp = true → hostExpert s = true →
      let due := p.coalCnt < p.toSignal ∨ p.sigAt + p.coalTime / 256 * 256 ≤ s.time.ns
      (due → Answers (.msixSignal r) s fun t => sent t 0) ∧ (¬due → exec (.msixSignal r) s = .next s))) ∧
  ∀ s (v : Fin 64), (s.rings.pba &&& s.rings.unmasked) &&& ~~~((1 : BitVec 64) <<< v.val) = 0 → Answers (.msixUnmask v) s fun t =>
    t.rings.unmasked = s.rings.unmasked ||| (1 : BitVec 64) <<< v.val ∧
    (s.rings.pba.getLsbD v = true → s.rings.funcMask = false → t.outbox = s.outbox ++ [.msix v] ∧
      t.rings.pba = s.rings.pba &&& ~~~((1 : BitVec 64) <<< v.val)) ∧
    ((s.rings.pba.getLsbD v = false ∨ s.rings.funcMask = true) → t.outbox = s.outbox ∧ t.rings.pba = s.rings.pba)

/-- R525, R526, R531, R533: a ring command that is not there or may not yet start does nothing; one with a reserved field completes with status
3. While an entry waits to be voided, RESUME and RESTORE wait. Choices of the model, not rules: row 56 of the assumption log. -/
def Obligations.RingCommandChecks : Prop :=
  ∀ s (r : RingNo) (idx : Word32), ∀ i ∈ [(Instr.cmdNop r idx, 0), (.cmdMover r idx, 1), (.cmdCollective r idx, 2), (.cmdRunStart r idx, 0x10),
      (.cmdStep r idx, 0x11), (.cmdStopRequest r idx, 0x12), (.cmdResume r idx, 0x13), (.cmdRestore r idx, 0x14), (.cmdMtbf r idx, 0x15),
      (.cmdTier3Release r idx, 0x16), (.cmdTenderInstall r idx, 0x20), (.cmdTenderRate r idx, 0x21), (.cmdPace r idx, 0x22),
      (.cmdPageClass r idx, 0x23), (.cmdMemStatus r idx, 0x30), (.cmdPortStatus r idx, 0x31), (.cmdOpenFlow r idx, 0x32),
      (.cmdCloseFlow r idx, 0x33), (.cmdSeatInt r idx, 0x34), (.cmdTimeOfDay r idx, 0x35)],
    (((s.pair r).cmds.find? fun c => c.idx = idx && c.op = i.2) = none → exec i.1 s = .next s) ∧
    (s.halt.state = 2 → voidPending s = true → (i.2 = 0x13 ∨ i.2 = 0x14) → exec i.1 s = .next s) ∧
    ∀ c, ((s.pair r).cmds.find? fun c => c.idx = idx && c.op = i.2) = some c →
      (mayStart s r c = false → exec i.1 s = .next s) ∧
      (mayStart s r c = true → c.rsvOk = false → (s.halt.state ≠ 2 ∨ voidPending s = false) → Answers i.1 s fun t =>
        OnlyDone s t r idx 3 0)

/-- R329, R427, R429, R459, R503, R505, R532 to R534: what the ring commands do that move a run along: NOP, MOVER and COLLECTIVE, RUN_START,
STEP, STOP_REQUEST, RESUME, RESTORE and MTBF. R92, R307, R317, R378, R380, R441, R442, R462, R464, R495, R532 to R534, R550: what the other
ring commands do: TIER3_RELEASE, TENDER_INSTALL and TENDER_RATE, PACE, PAGE_CLASS, MEM_STATUS and PORT_STATUS, OPEN_FLOW and CLOSE_FLOW,
SEAT_INT, and TIME_OF_DAY. Choices of the model, not rules: rows 45, 46, 51, 56 and 59 of the assumption log. -/
def Obligations.RingCommands : Prop :=
  -- run commands
  (∀ s (r : RingNo) (idx : Word32) c,
    let p (o n : Nat) := leNat ((c.params.drop (o - 8)).take n)
    let waits (t : State) := t.rings.boundary = s.rings.boundary ++ [⟨r.val, c.idx, c.op, c.params⟩] ∧
      t.pair r = (cmdBegun s r idx).pair r ∧ t.tender = s.tender ∧ t.way = s.way
    (Startable s r idx 0 c → Answers (.cmdNop r idx) s fun t => OnlyDone s t r idx 0 0) ∧
    (Startable s r idx 1 c →
      (31 < p 8 8 → Answers (.cmdMover r idx) s fun t => OnlyDone s t r idx 4 0) ∧
      (p 8 8 ≤ 31 → s.sys.cxlUp = false → Answers (.cmdMover r idx) s fun t => OnlyDone s t r idx 7 0) ∧
      (p 8 8 ≤ 31 → s.sys.cxlUp = true → Answers (.cmdMover r idx) s fun t => t.mover (p 8 8) = { s.mover (p 8 8) with
        extra := (s.mover (p 8 8)).extra ++ [((s.mover (p 8 8)).tail, r.val, idx.toNat, getCells s.hostMem (p 0x10 8) 64)] } ∧
        t.pair r = (cmdBegun s r idx).pair r ∧ t = { s with rings := t.rings, movers := t.movers })) ∧
    (Startable s r idx 2 c →
      (15 < p 8 8 → Answers (.cmdCollective r idx) s fun t => OnlyDone s t r idx 4 0) ∧
      (p 8 8 ≤ 15 → s.sys.cxlUp = false → Answers (.cmdCollective r idx) s fun t => OnlyDone s t r idx 7 0) ∧
      (p 8 8 ≤ 15 → s.sys.cxlUp = true →
        exec (.cmdCollective r idx) s = .next (collLoad ((cmdBegun s r idx).updColl (p 8 8) fun k => { k with
          extra := k.extra ++ [(k.tail, r.val, c.idx.toNat, getCells s.hostMem (p 0x10 8) 64)] }) (p 8 8))) ∧
      (p 8 8 ≤ 15 → s.sys.cxlUp = true → ((s.coll (p 8 8)).cur.isSome = true ∨ (s.coll (p 8 8)).stopped = true) →
        Answers (.cmdCollective r idx) s fun t => t.coll (p 8 8) = { s.coll (p 8 8) with
          extra := (s.coll (p 8 8)).extra ++ [((s.coll (p 8 8)).tail, r.val, idx.toNat, getCells s.hostMem (p 0x10 8) 64)] } ∧
          t = { s with rings := t.rings, colls := t.colls })) ∧
    (Startable s r idx 0x10 c →
      ((p 8 8 = 0 ∨ 2 ^ 48 < p 8 8) → Answers (.cmdRunStart r idx) s fun t => OnlyDone s t r idx 4 0) ∧
      (p 8 8 ≠ 0 → p 8 8 ≤ 2 ^ 48 →
        ((∃ b ∈ s.rings.boundary, b.op = 0x10) → Answers (.cmdRunStart r idx) s fun t => OnlyDone s t r idx 8 0) ∧
        ((∀ b ∈ s.rings.boundary, b.op ≠ 0x10) → s.quiescent = false → Answers (.cmdRunStart r idx) s waits) ∧
        (s.rings.boundary = [] → s.quiescent = true → Answers (.cmdRunStart r idx) s fun t =>
          t.tender.n = p 8 8 ∧ t.tender.seed = BitVec.ofNat 256 (p 0x10 32) ∧ t.tender.kt = ktOf (p 0x10 32) ∧ t.tender.run = true ∧
          t.tender.step = s.tender.step ∧ CmdDone t r idx 0 s.tender.step))) ∧
    (Startable s r idx 0x11 c →
      (s.tender.step ≤ p 8 8 → exec (.cmdStep r idx) s = .next (cmdBegun s r idx)) ∧
      (p 8 8 < s.tender.step → Answers (.cmdStep r idx) s fun t =>
        CmdDone t r idx 0 (match (findEntry (cmdBegun s r idx) (p 8 8)).1 with
          | some e => b2n (entryFlag e 1) + 2 * b2n (entryFlag e 0)
          | none => 0) ∧ t.tender = (findEntry (cmdBegun s r idx) (p 8 8)).2.tender)) ∧
    (Startable s r idx 0x12 c → Answers (.cmdStopRequest r idx) s fun t => t.tender = { s.tender with stopReq := true } ∧
      CmdDone t r idx 0 s.tender.step ∧ t.halt = s.halt) ∧
    (Startable s r idx 0x13 c →
      (s.halt.state ≠ 2 → Answers (.cmdResume r idx) s fun t => OnlyDone s t r idx 0 s.tender.step) ∧
      (s.halt.state = 2 → voidPending s = false → Answers (.cmdResume r idx) s fun t =>
        CmdDone t r idx 0 s.tender.step ∧ t.tender.step = s.tender.step ∧
        ((s.tender.run = false ∨ s.tender.contrib63 = true) → t.halt = { s.halt with state := if s.halt.due.isSome then 1 else 0 }) ∧
        (s.tender.contrib63 = false → t.tender.doneBlk = 0 ∧ t.tender.record = [] ∧ t.tender.queue = [] ∧
          t.ledger = { s.ledger with slot := [], fold := [], opened := 0, used := [] }))) ∧
    (Startable s r idx 0x14 c → (s.halt.state ≠ 2 ∨ voidPending s = false) →
      (s.quiescent = false → Answers (.cmdRestore r idx) s fun t => OnlyDone s t r idx 5 0) ∧
      (s.quiescent = true → inRange 0 (p 0x10 8 : Nat) (64 * p 0x18 2) = false →
        Answers (.cmdRestore r idx) s fun t => OnlyDone s t r idx 4 0) ∧
      ∀ xs u, s.quiescent = true → inRange 0 (p 0x10 8 : Nat) (64 * p 0x18 2) = true →
        readTable (cmdBegun s r idx) (p 0x10 8) (p 0x18 2) = (xs, u) →
        (xs = none → Answers (.cmdRestore r idx) s fun t => CmdDone t r idx 7 0 ∧ t.tender = u.tender) ∧
        (∀ ys, xs = some ys → s.sys.cxlUp = false → (ys.any fun y => y.tier = 3) = true →
          Answers (.cmdRestore r idx) s fun t => CmdDone t r idx 7 0 ∧ t.tender = u.tender) ∧
        ∀ ys, xs = some ys → (s.sys.cxlUp = true ∨ ∀ y ∈ ys, y.tier ≠ 3) →
          (tableOk u (p 8 8) ys = false → Answers (.cmdRestore r idx) s fun t => CmdDone t r idx 5 0 ∧ t.tender = u.tender) ∧
          (tableOk u (p 8 8) ys = true → Answers (.cmdRestore r idx) s fun t => CmdDone t r idx 0 (shardCount ys) ∧
            t.tender.step = p 8 8 + 1 ∧ t.tender.doneBlk = 0 ∧
            (ys.any Source.isHistory = true → t.way.noHistory = false ∧ t.way.cold = 0) ∧
            (ys.any Source.isHistory = false → t.way.noHistory = true ∧ t.way.cold = (recipeLens s).foldl max 0))) ∧
    (Startable s r idx 0x15 c →
      (s.quiescent = false → Answers (.cmdMtbf r idx) s waits) ∧
      (s.quiescent = true → s.rings.boundary = [] → p 0x10 8 ≤ s.tender.step → Answers (.cmdMtbf r idx) s fun t =>
        t.way = { s.way with mtbf := p 8 4 } ∧ CmdDone t r idx 0 s.tender.step ∧ t.rings.boundary = []) ∧
      (s.quiescent = true → s.rings.boundary = [] → s.tender.step < p 0x10 8 → Answers (.cmdMtbf r idx) s waits))) ∧
  -- service commands
  (∀ s (r : RingNo) (idx : Word32) c,
    let p (o n : Nat) := leNat ((c.params.drop (o - 8)).take n)
    let waits (t : State) := t.rings.boundary = s.rings.boundary ++ [⟨r.val, c.idx, c.op, c.params⟩] ∧
      t.pair r = (cmdBegun s r idx).pair r ∧ t.tender = s.tender ∧ t.mem = s.mem ∧ t.power = s.power
    (Startable s r idx 0x16 c →
      (1 < p 8 8 → Answers (.cmdTier3Release r idx) s fun t => OnlyDone s t r idx 4 0) ∧
      (p 8 8 ≤ 1 → (p 8 8 ∉ s.way.unreleased ∨ mget none s.way.slots (4 + p 8 8) = none) →
        Answers (.cmdTier3Release r idx) s fun t => OnlyDone s t r idx 5 0) ∧
      ∀ k, p 8 8 ≤ 1 → p 8 8 ∈ s.way.unreleased → mget none s.way.slots (4 + p 8 8) = some k →
        Answers (.cmdTier3Release r idx) s fun t => CmdDone t r idx 0 k.label ∧ mget 0 t.way.labels 2 = k.label ∧
          p 8 8 ∉ t.way.unreleased ∧ t = { s with way := t.way, rings := t.rings }) ∧
    (Startable s r idx 0x20 c →
      let bad := 65536 < p 0x10 2 + p 0x12 2 ∨ inRange 0 (p 8 8 : Nat) (64 * p 0x12 2) = false
      (bad → Answers (.cmdTenderInstall r idx) s fun t => OnlyDone s t r idx 4 0) ∧
      ∀ i u, ¬bad → installOf (cmdBegun s r idx) (p 8 8) (p 0x10 2) (p 0x12 2) = (i, u) →
        (i = none → Answers (.cmdTenderInstall r idx) s fun t => t.tender = u.tender ∧
          CmdDone t r idx (if (sysRead (cmdBegun s r idx) (p 8 8) (64 * p 0x12 2) false).1.2 then 7 else 5) 0) ∧
        (∀ j, i = some j → s.quiescent = false → Answers (.cmdTenderInstall r idx) s fun t =>
          CmdDone t r idx 0 (s.tender.step + 1) ∧ t.tender = { u.tender with installs := u.tender.installs ++ [j] }) ∧
        ∀ j, i = some j → s.quiescent = true → Answers (.cmdTenderInstall r idx) s fun t =>
          CmdDone t r idx 0 s.tender.step ∧ t.tender.installs = []) ∧
    (Startable s r idx 0x21 c →
      (7 < p 8 4 → Answers (.cmdTenderRate r idx) s fun t => OnlyDone s t r idx 4 0) ∧
      (p 8 4 ≤ 7 → rateOk (p 0xC 4) = false → Answers (.cmdTenderRate r idx) s fun t => OnlyDone s t r idx 5 0) ∧
      (p 8 4 ≤ 7 → rateOk (p 0xC 4) = true → s.quiescent = false → Answers (.cmdTenderRate r idx) s waits) ∧
      (p 8 4 ≤ 7 → rateOk (p 0xC 4) = true → s.quiescent = true → s.rings.boundary = [] → Answers (.cmdTenderRate r idx) s fun t =>
        CmdDone t r idx 0 s.tender.step ∧ t.tender = { s.tender with presets := t.tender.presets } ∧ ∀ k,
          mget {} t.tender.presets k = if k = p 8 4 then { mget {} s.tender.presets k with lr := p 0xC 4 } else mget {} s.tender.presets k)) ∧
    (Startable s r idx 0x22 c →
      ((s.expert 0 = false ∨ s.consist.floorMv = none) → Answers (.cmdPace r idx) s fun t => OnlyDone s t r idx 5 0) ∧
      (s.expert 0 = true → s.consist.floorMv.isSome = true → s.quiescent = false → Answers (.cmdPace r idx) s waits) ∧
      (s.expert 0 = true → s.consist.floorMv.isSome = true → s.quiescent = true → s.rings.boundary = [] →
        Answers (.cmdPace r idx) s fun t => let (u, st, res) := paceApply s (p 8 2) (p 0xA 2)
          CmdDone t r idx st res ∧ t.power = u.power ∧ t.power.paceCmd = some (p 8 2, p 0xA 2))) ∧
    (Startable s r idx 0x23 c →
      let bad := 1 < p 0x10 8 ∨ p 0xC 4 = 0 ∨ 274659 < p 8 4 + p 0xC 4
      (bad → Answers (.cmdPageClass r idx) s fun t => OnlyDone s t r idx 4 0) ∧
      (¬bad → s.expert 1 = false → Answers (.cmdPageClass r idx) s fun t => OnlyDone s t r idx 5 0) ∧
      (¬bad → s.expert 1 = true → s.quiescent = false → Answers (.cmdPageClass r idx) s waits) ∧
      (¬bad → s.expert 1 = true → s.quiescent = true → s.rings.boundary = [] → Answers (.cmdPageClass r idx) s fun t =>
        CmdDone t r idx 0 s.tender.step ∧ ∀ g, activation t g =
          if p 8 4 ≤ g ∧ g < p 8 4 + p 0xC 4 then p 0x10 1 = 1 else activation s g)) ∧
    (∀ i ∈ [(Instr.cmdMemStatus r idx, 0x30, 7, memStatus s (p 8 8), s),
        (.cmdPortStatus r idx, 0x31, 11, portStatus (measureBer s (p 8 8)) (p 8 8), measureBer s (p 8 8))],
      Startable s r idx i.2.1 c →
        (i.2.2.1 < p 8 8 → Answers i.1 s fun t => OnlyDone s t r idx 4 0) ∧
        (p 8 8 ≤ i.2.2.1 → s.sys.cxlUp = false → Answers i.1 s fun t => OnlyDone s t r idx 7 0) ∧
        (p 8 8 ≤ i.2.2.1 → s.sys.cxlUp = true → Answers i.1 s fun t => CmdDone t r idx 0 0 ∧
          getCells t.hostMem (p 0x10 8) i.2.2.2.1.length = i.2.2.2.1 ∧
          (∀ a, (a < p 0x10 8 ∨ p 0x10 8 + i.2.2.2.1.length ≤ a) → mget 0 t.hostMem a = mget 0 s.hostMem a) ∧
          t = { i.2.2.2.2 with hostMem := t.hostMem, rings := t.rings })) ∧
    (Startable s r idx 0x32 c →
      let n := p 8 2
      let bad := 4095 < n ∨ s.consist.ranks.length ≤ p 0xA 2 ∨ p 0xA 2 = s.consist.rank ∨ (p 0xC 8 ≠ 1 ∧ p 0xC 8 ≠ 2)
      (bad → Answers (.cmdOpenFlow r idx) s fun t => OnlyDone s t r idx 4 0) ∧
      (¬bad → (s.flow n).bound = true → Answers (.cmdOpenFlow r idx) s fun t => OnlyDone s t r idx 5 0) ∧
      (¬bad → (s.flow n).bound = false → Answers (.cmdOpenFlow r idx) s fun t => CmdDone t r idx 0 0 ∧
        t.flow n = { bound := true, peer := p 0xA 2, cls := p 0xC 8, port := (t.flow n).port } ∧
        (inRake s (p 0xA 2) = true → (t.flow n).port = none) ∧ ∀ m, m ≠ n → t.flow m = s.flow m)) ∧
    (Startable s r idx 0x33 c →
      let n := p 8 2
      let quiet := (s.flow n).unacked = [] ∧ ∀ e ∈ s.ports, ∀ f ∈ e.2.txq, frameFlow f ≠ n
      (4095 < n → Answers (.cmdCloseFlow r idx) s fun t => OnlyDone s t r idx 4 0) ∧
      (n ≤ 4095 → ((s.flow n).bound = false ∨ (s.flow n).closing.isSome = true) →
        Answers (.cmdCloseFlow r idx) s fun t => OnlyDone s t r idx 5 0) ∧
      (n ≤ 4095 → (s.flow n).bound = true → (s.flow n).closing = none → Answers (.cmdCloseFlow r idx) s fun t =>
        (quiet → t.flow n = {} ∧ CmdDone t r idx 0 0) ∧
        (¬quiet → t.flow n = { s.flow n with closing := some (r.val, idx.toNat) } ∧ t.pair r = (cmdBegun s r idx).pair r) ∧
        ∀ m, m ≠ n → t.flow m = s.flow m)) ∧
    (Startable s r idx 0x34 c →
      let bad := 95 < p 8 1 ∨ 3 < p 9 1 ∨ 100 ≤ posOf s (p 8 1)
      (bad → Answers (.cmdSeatInt r idx) s fun t => OnlyDone s t r idx 4 0) ∧
      (¬bad → ∀ sr : SeatRef, sr.coach.val = p 8 1 → sr.seat.val = p 9 1 → Answers (.cmdSeatInt r idx) s fun t =>
        CmdDone t r idx 0 0 ∧ (t.seat sr).pend.getLsbD 7 = true ∧
        ((s.seat sr).pend.getLsbD 7 = false → mget 0 (t.seat sr).pendDet 7 = BitVec.ofNat 8 r.val) ∧
        (∀ q, q ≠ sr → t.seat q = s.seat q) ∧ t = { s with coaches := t.coaches, rings := t.rings })) ∧
    (Startable s r idx 0x35 c →
      let v := p 8 8
      (2 ≤ p 0x10 1 → Answers (.cmdTimeOfDay r idx) s fun t => OnlyDone s t r idx 3 0) ∧
      (p 0x10 1 < 2 → s.consist.ppsIn = true →
        (v % 10 ^ 9 ≠ 0 → Answers (.cmdTimeOfDay r idx) s fun t => OnlyDone s t r idx 4 0) ∧
        (v % 10 ^ 9 = 0 → Answers (.cmdTimeOfDay r idx) s fun t =>
          t.time = { s.time with tods := s.time.tods ++ [⟨some (r.val, idx), none, v, bit (p 0x10 1) 0, s.time.ns⟩] } ∧
          t.pair r = (cmdBegun s r idx).pair r)) ∧
      (p 0x10 1 < 2 → s.consist.ppsIn = false → s.time.tods = [] → Answers (.cmdTimeOfDay r idx) s fun t =>
        let (st, e) := todStatus s v (bit (p 0x10 1) 0)
        t.time.tods = [] ∧ CmdDone t r idx st (if st ≤ 1 then intBits 64 e else 0)) ∧
      (p 0x10 1 < 2 → s.consist.ppsIn = false → s.time.tods = [] → s.time.state = 0 →
        (s.time.ns < v → Answers (.cmdTimeOfDay r idx) s fun t => CmdDone t r idx 0 (v - s.time.ns) ∧ t.time.ns = v ∧
          t.time.set = true ∧ t.time.state = 1) ∧
        (v ≤ s.time.ns → Answers (.cmdTimeOfDay r idx) s fun t => CmdDone t r idx 4 0 ∧ t.time = s.time))))

/-- R545 to R547, R550: an accepted edge of a declared time source gives the phase error, the new frequency estimate and the correction that
follow from it, and moves STATE; a rejected edge is counted, and the fourth in step is accepted into Acquiring; a time of day that waits
sets the free counter at the edge. Choices of the model, not rules: rows 50 and 51 of the assumption log. -/
def Obligations.PulseDiscipline : Prop :=
  (∀ ns : Nat, (10 : Int) ^ 9 ∣ ns - phaseErr ns ∧ 2 * (phaseErr ns).natAbs ≤ 10 ^ 9) ∧
  (∀ s : State, s.consist.ppsIn = false → exec .ppsEdge s = .next s) ∧
  (∀ s : State, (s.time.state = 2 → (edgeOk s.time = true ↔ (phaseErr s.time.ns).natAbs ≤ 10000)) ∧
    (s.time.state ≠ 2 → (edgeOk s.time = true ↔ ∀ a n, s.time.lastEdge = some (a, n) → a + 5 * 10 ^ 8 ≤ s.time.ns))) ∧
  (∀ s, s.consist.ppsIn = true → edgeOk s.time = true → s.time.tods = [] → s.time.offset = 0 → Answers .ppsEdge s fun t =>
    let m := s.time
    let e := phaseErr m.ns
    let good := if e.natAbs < 100 then m.good + 1 else 0
    t = { s with time := t.time } ∧ t.time.phase = e ∧ t.time.ns = m.ns ∧ t.time.lastEdge = some (m.ns, m.ticks) ∧ t.time.prevOk = true ∧
    (m.prevOk = false → t.time.y = m.y) ∧
    (∀ a n, m.prevOk = true → m.lastEdge = some (a, n) →
      t.time.y = ⟨7 * m.y.num + (10 * ((m.ticks - n : Nat) : Int) - 10 ^ 9) * m.y.den, 8 * m.y.den⟩) ∧
    t.time.c = clampC ⟨-(4 * t.time.y.num + e * t.time.y.den), 4 * t.time.y.den⟩ ∧
    t.time.state = (if m.state = 3 then 1 else if m.state = 1 ∧ 8 ≤ good then 2 else m.state) ∧
    t.time.good = if m.state = 3 then 0 else good) ∧
  (∀ s, s.consist.ppsIn = true → edgeOk s.time = false →
    (fourthReject s.time = false → Answers .ppsEdge s fun t =>
      t.time = { s.time with rejected := counted 32 1 s.time.rejected, rej := s.time.ns :: s.time.rej, prevOk := false, good := 0 }) ∧
    (fourthReject s.time = true → s.time.tods = [] → Answers .ppsEdge s fun t =>
      t.time.rejected = counted 32 1 s.time.rejected ∧ t.time.state = min s.time.state 1 ∧ t.time.rej = [] ∧
      t.time.ns = s.time.ns ∧ t.time.lastEdge = some (s.time.ns, s.time.ticks))) ∧
  ∀ s d, s.consist.ppsIn = true → edgeOk s.time = true → s.time.tods = [d] → s.time.state = 0 → s.time.ns < d.t →
    Answers .ppsEdge s fun t => t.time.ns = d.t ∧ t.time.set = true ∧ t.time.state = 1 ∧ t.time.tods = [] ∧
      ∀ (r : RingNo) idx, d.ring = some (r.val, idx) → (∃ c ∈ (s.pair r).cmds, c.idx = idx ∧ c.done = none) →
        CmdDone t r idx 0 (d.t - s.time.ns)

/-- R547 to R551, R567: holdover after 2.5 s without an edge and its one alarm after 3,600 s; settings that no edge met end with status 5;
PPS_OUT rises when it is driven and falls again; a declared source that has not come within 10 s of readiness is an environment fault; an
epoch alarm is armed by a write of TIME, and fires once on its seat, late when TIME had passed. Choices of the model, not rules: rows 50, 52
and 55 of the assumption log. -/
def Obligations.HoldoverAndAlarms : Prop :=
  (∀ s, let late := ∀ a n, s.time.lastEdge = some (a, n) → a + 25 * 10 ^ 8 ≤ s.time.ns
    (s.consist.ppsIn = true → (s.time.state = 1 ∨ s.time.state = 2) → late → Answers .ppsLossHoldover s fun t =>
      t = { s with time := { s.time with
        state := 3, holdAt := s.time.ns, holdEv := false, good := 0, c := clampC ⟨-s.time.y.num, s.time.y.den⟩ } }) ∧
    ((s.consist.ppsIn = false ∨ s.time.state = 0 ∨ 3 ≤ s.time.state ∨ ¬late) → exec .ppsLossHoldover s = .next s)) ∧
  (∀ s, (3600 ≤ holdNow s.time → s.time.holdEv = false → Answers .holdoverAlarm s fun t =>
      t = { s.raise 0x0064 (holdNow s.time) 0 with time := { s.time with alarm := true, holdEv := true } }) ∧
    ((holdNow s.time < 3600 ∨ s.time.holdEv = true) → exec .holdoverAlarm s = .next s)) ∧
  (∀ s, Answers .timeOfDayTimeout s fun t =>
    t.time = { s.time with tods := s.time.tods.filter fun d => decide (s.time.ns < d.at0 + 25 * 10 ^ 8) } ∧
    ∀ d ∈ s.time.tods, d.at0 + 25 * 10 ^ 8 ≤ s.time.ns → ∀ (r : RingNo) idx, d.ring = some (r.val, idx) →
      (∃ c ∈ (s.pair r).cmds, c.idx = idx ∧ c.done = none) → CmdDone t r idx 5 0) ∧
  (∀ s, (s.time.set = true → s.consist.ppsOut = true → exec .ppsOutPulse s = .next { s with time := { s.time with ppsOut := true } }) ∧
    ((s.time.set = false ∨ s.consist.ppsOut = false) → exec .ppsOutPulse s = .next s) ∧
    exec .ppsOutPulseEnd s = .next { s with time := { s.time with ppsOut := false } }) ∧
  (∀ s, (s.consist.ppsIn = true → s.time.lastEdge = none → s.sys.ready = true → s.sys.readyAt + 10 ^ 10 ≤ s.time.ns →
      Answers .ppsSourceMissing s fun t =>
      t = { s.envEvent 3 0xFF 0 0 with time := { s.time with envFault := true } }) ∧
    ((s.consist.ppsIn = false ∨ s.time.lastEdge ≠ none ∨ s.sys.ready = false ∨ s.time.ns < s.sys.readyAt + 10 ^ 10) →
      exec .ppsSourceMissing s = .next s)) ∧
  (∀ s (a : Fin 240) (v : Word),
    let m := s.alarm a
    let en := m.notify.getLsbD 9
    Answers (.epochAlarmWrite a v) s fun t =>
      (t.alarm a = if v.toNat ≤ s.time.ns then
        { m with time := v.toNat, armed := false, fired := m.fired || en, late := m.late || en } else { m with time := v.toNat, armed := true }) ∧
      (∀ b, b ≠ a.val → t.alarm b = s.alarm b) ∧ (en = false ∨ s.time.ns < v.toNat → t.coaches = s.coaches) ∧
      (v.toNat ≤ s.time.ns → en = true → ∀ r, notifySeat m.notify.toNat = some r → (t.seat r).pend.getLsbD 4 = true)) ∧
  ∀ s (a : Fin 240),
    let m := s.alarm a
    ((m.armed = false ∨ s.time.ns < m.time) → exec (.epochAlarmFire a) s = .next s) ∧
    (m.armed = true → m.time ≤ s.time.ns → Answers (.epochAlarmFire a) s fun t =>
      t.alarm a = { m with armed := false, fired := m.fired || m.notify.getLsbD 9 } ∧ (∀ b, b ≠ a.val → t.alarm b = s.alarm b) ∧
      (m.notify.getLsbD 9 = true → ∀ r, notifySeat m.notify.toNat = some r → (t.seat r).pend.getLsbD 4 = true) ∧
      (m.notify.getLsbD 9 = false → t.coaches = s.coaches))

/-- R47 to R49, R52 to R54: at a quiescent point the rails' targets are those of the pace in force, and stay elsewhere; the rails move towards
them by at most 5 mV at a time, and a change is complete once they are within 5 mV; the TDP and temperature limits lower a half by 5 mV, set
LIMITED and raise one event a step; the pace meters are sampled as minimum, mean and maximum of each half. Choices of the model, not rules:
rows 50 and 74 of the assumption log. -/
def Obligations.PaceAndLimits : Prop :=
  (∀ s, Answers .paceChange s fun t =>
    let moved (v v' target : Nat) : Prop := (v' : Int) = v + max (-5) (min 5 ((target : Int) - v))
    t = { s with power := t.power } ∧
    (moved s.power.coreW t.power.coreW t.power.tCoreW ∧ moved s.power.coreE t.power.coreE t.power.tCoreE ∧
      moved s.power.sramW t.power.sramW t.power.tSramW ∧ moved s.power.sramE t.power.sramE t.power.tSramE) ∧
    (s.quiescent = false → t.power.tCoreW = s.power.tCoreW ∧ t.power.tSramW = s.power.tSramW ∧ t.power.tCoreE = s.power.tCoreE ∧
      t.power.tSramE = s.power.tSramE ∧ t.power.changing = s.power.changing) ∧
    (s.quiescent = true → s.power.tdp = false → s.power.hot = false →
      (s.expert 0 = false → s.power.trimW = 0 → s.power.trimE = 0 → ∀ row ∈ [(0, 620, 700), (1, 700, 750), (2, 760, 810)],
        s.consist.pace = row.1 → t.power.tCoreW = row.2.1 ∧ t.power.tSramW = row.2.2 ∧ t.power.tCoreE = row.2.1 ∧ t.power.tSramE = row.2.2) ∧
      (∀ w e f, s.expert 0 = true → s.power.paceCmd = some (w, e) → s.consist.floorMv = some f →
        t.power.tCoreW = min (s.consist.rails.getD 0 700) (max f w) ∧ t.power.tSramW = max (t.power.tCoreW + 50) 700 ∧
        t.power.tCoreE = min (s.consist.rails.getD 2 700) (max f e) ∧ t.power.tSramE = max (t.power.tCoreE + 50) 700))) ∧
  (∀ s, let p := s.power
    let close (a b : Nat) : Prop := a ≤ b + 5 ∧ b ≤ a + 5
    let all := close p.coreW p.tCoreW ∧ close p.sramW p.tSramW ∧ close p.coreE p.tCoreE ∧ close p.sramE p.tSramE
    (p.changing = true → all → Answers .paceChangeComplete s fun t => t = { s with power := { p with changing := false } }) ∧
    ((p.changing = false ∨ ¬all) → exec .paceChangeComplete s = .next s)) ∧
  (∀ s (draw : Half) (tjW tjE : BitVec 16), Answers (.tdpLimit draw tjW tjE) s fun t =>
    let p := s.power
    let over' := 2200 < draw.toNat ∨ (p.tdp = true ∧ 2150 ≤ draw.toNat)
    let hot := 840 < tjW.toInt ∧ 840 < tjE.toInt
    let west := hot ∨ (over' ∧ tjE.toInt ≤ tjW.toInt)
    let east := hot ∨ (over' ∧ tjW.toInt < tjE.toInt)
    (t.power.tdp = true ↔ over') ∧ (t.power.hot = true ↔ hot) ∧ t = { s with power := t.power, rings := t.rings } ∧
    (west → t.power.coreW = max 550 (p.coreW - 5) ∧ t.power.capW = some t.power.coreW) ∧
    (¬west → t.power.coreW = p.coreW ∧ t.power.capW = p.capW) ∧
    (east → t.power.coreE = max 550 (p.coreE - 5) ∧ t.power.capE = some t.power.coreE) ∧
    (¬east → t.power.coreE = p.coreE ∧ t.power.capE = p.capE) ∧
    (west ∨ east → t.power.limited = true ∧ (p.limEv = false → ∃ a b,
      t.rings = (s.raise 0x0013 a b).rings ∧ (a = 1 ↔ west ∧ ¬east) ∧ (a = 2 ↔ east ∧ ¬west) ∧ b = min t.power.coreW t.power.coreE)) ∧
    ((¬west ∧ ¬east) ∨ p.limEv = true → t.rings = s.rings) ∧ (¬west ∧ ¬east → t.power.limited = p.limited)) ∧
  ∀ s, Answers .paceMeterSample s fun t => t = { s with power := { s.power with paceRep := t.power.paceRep } } ∧
    t.power.paceRep.length = 7 ∧ t.power.paceRep.getD 6 0 = s.time.ns ∧
    ∀ h ∈ [(true, 0), (false, 3)], ∀ c ∈ coachesOf s h.1,
      t.power.paceRep.getD h.2 0 ≤ rateNow s c ∧ rateNow s c ≤ t.power.paceRep.getD (h.2 + 2) 0 ∧
      t.power.paceRep.getD (h.2 + 1) 0 = ((coachesOf s h.1).map (rateNow s)).sum / (coachesOf s h.1).length

/-- R555 to R558, R561: the governor's target follows the larger of draw and floor at the slew rate and never passes 2,150 W; it throttles or
fills to meet it; a rise that recurs in the last four steps is anticipated; a ramp in force gives the floor, at once when its TIME has
passed. Whether a floor that filler chases can be reached is a free value (row 6 of the log). R563 to R565: the flow that follows from draw
and temperatures, with the worked example; the predicted draw, and the duty it gives, which is 983 for 60 s after a thermal trip and 41
after a leak. Choices of the model, not rules: rows 6, 50 and 53 of the assumption log. -/
def Obligations.PowerAndCooling : Prop :=
  -- governor
  ((∀ s (draw : Half), Answers (.governorTick draw) s fun t =>
    let p := s.power
    let d := draw.toNat
    let g := max d (floorNow s)
    let rate : Int := slewRate s
    t = { s with power := t.power, fresh := t.fresh } ∧
    (p.past = [] → (t.power.target : Int) = min 21500 (p.target + max (-rate) (min rate (10 * (g : Int) - p.target)))) ∧
    t.power.target ≤ 21500 ∧ min (10 * g) (min (p.target + slewRate s) 21500) ≤ t.power.target ∧
    (∀ o w last rest, p.past = last :: rest → (o, w) ∈ last → recurs p.past o = true → p.cnt < o →
      p.target + slewRate s * (o - p.cnt) ≤ 10 * w + slewRate s → min 21500 (min (10 * w) (p.target + slewRate s)) ≤ t.power.target) ∧
    (t.power.throttle = true ↔ t.power.target < 10 * d) ∧ (t.power.fill = true ↔ 10 * d < t.power.target) ∧
    (t.power.fill = false ∨ floorNow s ≤ d → t.power.short = p.short) ∧ t.power.cnt = p.cnt + 1 ∧
    t.power.acts = ((if t.power.fill then t.power.target / 10 else min d (t.power.target / 10)) :: p.acts).take 10 ∧
    t.power.draw = t.power.acts.sum / t.power.acts.length ∧
    t.power.coreW = p.coreW ∧ t.power.coreE = p.coreE ∧ t.power.means = p.means ∧ t.power.past = p.past) ∧
  (∀ s (v : Word), Answers (.pwrRampWrite v) s fun t => t = { s with power := { s.power with
      rampLevel := bits v.toNat 0 12, rampEn := bit v.toNat 12, rampTime := bits v.toNat 16 48
      rampOn := bit v.toNat 12 && decide (bits v.toNat 16 48 * 1000 ≤ s.time.ns) } } ∧
    (bit v.toNat 12 = true → bits v.toNat 16 48 * 1000 ≤ s.time.ns → floorNow t = min (bits v.toNat 0 12) 2150) ∧
    (bit v.toNat 12 = false → floorNow t = stepMean s.power * (if s.expert 9 then s.consist.floorFrac else 56) / 64)) ∧
  ∀ s, (s.power.rampEn = true → s.power.rampTime * 1000 ≤ s.time.ns → Answers .rampTimeReached s fun t =>
      t = { s with power := { s.power with rampOn := true } } ∧ floorNow t = min s.power.rampLevel 2150) ∧
    ((s.power.rampEn = false ∨ s.time.ns < s.power.rampTime * 1000) → exec .rampTimeReached s = .next s)) ∧
  -- coolant
  ((∀ s (inlet outlet : BitVec 16), Answers (.coolantSample inlet outlet) s fun t =>
    let dt := outlet.toInt - inlet.toInt
    t = { s with power := { s.power with inlet := inlet, outlet := outlet, flow := t.power.flow } } ∧
    (s.power.draw < 500 ∨ dt < 8 → t.power.flow = 0xFFFF) ∧
    (500 ≤ s.power.draw → 8 ≤ dt → t.power.flow < 0xFFFF ∧ (t.power.flow < 0xFFFE →
      2 * ((t.power.flow : Int) * (3980 * dt) - 48000 * s.power.draw).natAbs ≤ 3980 * dt)) ∧
    (s.power.draw = 2005 → inlet = 32 * 8 → outlet = 39 * 8 → t.power.flow = 432)) ∧
  ∀ s, Answers .coolDemUpdate s fun t =>
    let p := s.power
    let lead := (if s.expert 9 then s.consist.lead else 20) * 100000000
    let f := if p.rampEn = true ∧ p.rampTime * 1000 ≤ s.time.ns + lead then min p.rampLevel 2150 else fractionFloor s
    let m := if s.tender.run = true ∧ p.means ≠ [] ∧ s.halt.state ≠ 2 then stepMean p else 0
    t = { s with power := { p with predict := t.power.predict, duty := t.power.duty } } ∧
    t.power.predict = max (max f m) 700 ∧ 41 ≤ t.power.duty ∧ t.power.duty ≤ 983 ∧
    (∀ a, p.tripAt = some a → s.time.ns < a + 60 * 10 ^ 9 → t.power.duty = 983) ∧
    ((∀ a, p.tripAt = some a → a + 60 * 10 ^ 9 ≤ s.time.ns) →
      (s.sys.leakTrip = true → t.power.duty = 41) ∧
      (s.sys.leakTrip = false → (41 < t.power.duty → t.power.duty < 983 →
        2 * (2500 * (t.power.duty : Int) - 1024 * t.power.predict).natAbs ≤ 2500) ∧ (t.power.predict = 2005 → t.power.duty = 821))))

/-- R554, R566 to R568: a supply, thermal or leak trip stops the consist, turns every rail off but Thonar's own and reports itself; its lasers
go dark. A value outside its declared window sets the fault and reports it once, and clearing it leaves the others. Choices of the model,
not rules: rows 52 and 64 of the assumption log. -/
def Obligations.TripsAndFaults : Prop :=
  let off (s t : State) (code arg : Nat) : Prop :=
    t.halt.state = 2 ∧ t.halt.source = 4 ∧ t.sys.tripped = true ∧ t.sys.railCore = false ∧ t.sys.railMem = 0 ∧ t.sys.railEng = 0 ∧
    t.sys.thonar = s.sys.thonar ∧ t.sys.ready = false ∧ t.sys.cxlUp = false ∧ t.mgmt = s.mgmt ∧ t.time = s.time ∧
    (∀ e < 4, lit (t.engine e).a = false ∧ lit (t.engine e).b = false ∧ (t.engine e).stage = 0) ∧
    (∀ p < 12, (t.port p).lanes = 0) ∧
    ((s.rings.events.filter fun e => e.code != 1).length < 256 → ∃ e ∈ t.rings.events, e.code = code ∧ e.arg = arg)
  (∀ s (v : Half), (380 ≤ v.toNat → v.toNat ≤ 600 → exec (.supplyTrip v) s = .next s) ∧
    ((v.toNat < 380 ∨ 600 < v.toNat) → Answers (.supplyTrip v) s fun t => off s t 0x0063 v.toNat ∧ t.power.trip = true ∧
      t.sys.leakTrip = s.sys.leakTrip ∧ t.power.leak = s.power.leak)) ∧
  (∀ s half (tj : Half), (tj.toInt < 920 → exec (.thermalTrip half tj) s = .next s) ∧
    (920 ≤ tj.toInt → Answers (.thermalTrip half tj) s fun t => off s t 0x0062 tj.toNat ∧ t.power.trip = true ∧
      t.power.duty = 983 ∧ t.power.tripAt = some s.time.ns)) ∧
  (∀ s, Answers .leakDetect s fun t => off s t 0x0061 0 ∧ t.power.leakLow = true ∧ t.power.leak = true ∧ t.power.duty = 41 ∧
    t.sys.leakTrip = true ∧ t.power.trip = s.power.trip) ∧
  (∀ s, exec .leakClear s = .next { s with power := { s.power with leakLow := false, leak := false } }) ∧
  (∀ s q (m : Half), (envBound s q m = none ∨ envNumber q ∈ s.power.envSet → exec (.environmentFault q m) s = .next s) ∧
    ∀ b, envBound s q m = some b → envNumber q ∉ s.power.envSet → Answers (.environmentFault q m) s fun t =>
      t = { s.envEvent (envNumber q) 0xFF m.toNat b with
        power := { s.power with envFault := true, envSet := s.power.envSet ++ [envNumber q] } }) ∧
  (∀ s (m : Half),
    (400 ≤ m.toNat → m.toNat ≤ 580 → (envBound s .inputVoltage m = none ↔ s.consist.vinLo ≤ m.toNat ∧ m.toNat ≤ s.consist.vinHi)) ∧
    (envBound s .coolantInlet m = none ↔ (s.consist.inletLo : Int) ≤ m.toInt ∧ m.toInt ≤ s.consist.inletHi) ∧
    (envBound s .coolantFlow m = none ↔ s.consist.minFlow * 85 ≤ m.toNat * 100)) ∧
  ∀ s q, Answers (.environmentFaultClear q) s fun t => t = { s with power := { s.power with
      envFault := t.power.envFault, envSet := t.power.envSet } } ∧
    (∀ k, k ∈ t.power.envSet ↔ k ∈ s.power.envSet ∧ k ≠ envNumber q) ∧ (t.power.envFault = true ↔ s.power.envFault = true ∧ t.power.envSet ≠ [])

/-- R569 to R572, R575, R579, R580: what Thonar does with a message that arrives on a path: a malformed one has status 4, one for an unknown
command 2, and outside a session one that needs a session 10; within a session the MAC and the next SEQ are required, and only then does SEQ
advance; a payload of another length has status 4, and what passes waits to be executed. R613, R614: GO while the mailbox is busy is
rejected; a request of an impossible length has status 4; another is taken as a message of the mailbox path. The response goes into the
buffer, sets DONE and signals the vector; DONE returns the mailbox to idle. Choices of the model, not rules: rows 6, 10 and 58 of the
assumption log. -/
def Obligations.ManagementMessages : Prop :=
  -- management messages
  ((∀ cmd e, mgmtCmd cmd = some e → (e.1 = true ↔ cmd = 0x12 ∨ 0x20 ≤ cmd)) ∧
  (∀ s p b, (pathUp s p = false ∨ p = .mailbox) → exec (.mgmtMessageReceive p b) s = .next s) ∧
  ∀ s p, pathUp s p = true → p ≠ .mailbox →
    let gen := s.mgmt.boxGen
    let queued (u : State) (ask : Ticket) (pl : List Byte) : State := { u with mgmt := { u.mgmt with inbox := u.mgmt.inbox ++ [(ask, pl)] } }
    (∀ b, msgOk b = false → Answers (.mgmtMessageReceive p b) s fun t => Replies s t ⟨p, 0, 0, 0, [], gen⟩ 4 []) ∧
    (∀ cmd < 2 ^ 16, ∀ pl : List Byte, pl.length ≤ 4032 →
      let ask : Ticket := ⟨p, cmd, 0, 0, ((sessionOf s p 0).map (·.ks)).getD [], gen⟩
      let does (Q : State → Prop) : Prop := Answers (.mgmtMessageReceive p (request cmd 0 0 pl)) s Q
      (thonarRestarts s = true → does fun t => Replies s t ask 8 []) ∧
      (thonarRestarts s = false →
        (mgmtCmd cmd = none → does fun t => Replies s t ask 2 []) ∧
        ∀ need lo hi rsv, mgmtCmd cmd = some (need, lo, hi, rsv) →
          (need = true → does fun t => Replies s t ask 10 []) ∧
          (need = false → (pl.length < lo ∨ hi < pl.length) → does fun t => Replies s t ask 4 []) ∧
          (need = false → lo ≤ pl.length → pl.length ≤ hi →
            ((∃ i ∈ rsv, pl.getD i 0 ≠ 0) → does fun t => Replies s t ask 3 []) ∧
            ((∀ i ∈ rsv, pl.getD i 0 = 0) → does fun t => t = queued s ask pl)))) ∧
    ∀ cmd < 2 ^ 16, ∀ sid < 2 ^ 32, ∀ seq < 2 ^ 32, ∀ pl mac : List Byte, sid ≠ 0 → pl.length ≤ 4032 → mac.length = 48 →
      thonarRestarts s = false →
      let ask (ks : List Byte) : Ticket := ⟨p, cmd, sid, seq, ks, gen⟩
      let does (Q : State → Prop) : Prop := Answers (.mgmtMessageReceive p (request cmd sid seq pl ++ mac)) s Q
      (sessionOf s p sid = none → does fun t => Replies s t (ask []) 11 []) ∧
      ∀ x, sessionOf s p sid = some x →
        let good := mac = hmac384 x.ks (request cmd sid seq pl) ∧ seq = (x.seq + 1) % 2 ^ 32
        let u : State := { s with mgmt := { s.mgmt with sessions := s.mgmt.sessions.map fun y =>
          if y.sid = sid then { y with seq := y.seq + 1, last := s.time.ns } else y } }
        (¬good → does fun t => Replies s t (ask x.ks) 11 []) ∧
        (good → mgmtCmd cmd = none → does fun t => Replies u t (ask x.ks) 2 []) ∧
        ∀ need lo hi rsv, good → mgmtCmd cmd = some (need, lo, hi, rsv) → cmd ≠ 0x10 → cmd ≠ 0x11 →
          (privBusy s cmd = true → does fun t => Replies u t (ask x.ks) 8 []) ∧
          (privBusy s cmd = false → (pl.length < lo ∨ hi < pl.length) → does fun t => Replies u t (ask x.ks) 4 []) ∧
          (privBusy s cmd = false → lo ≤ pl.length → pl.length ≤ hi →
            ((∃ i ∈ rsv, pl.getD i 0 ≠ 0) → does fun t => Replies u t (ask x.ks) 3 []) ∧
            ((∀ i ∈ rsv, pl.getD i 0 = 0) → does fun t => t = queued u (ask x.ks) pl))) ∧
  -- mailbox
  ((∀ s (v : Word32), s.sys.cxlUp = false → exec (.mgmtGo v) s = .next s) ∧
  (∀ s (v : Word32), s.sys.cxlUp = true →
    let w := v.toNat ||| 1
    let u : State := { s with mgmt := { s.mgmt with ien := bit w 1, vec := bits w 8 6 } }
    (s.mgmt.state ≠ 0 → exec (.mgmtGo v) s = .next { u with mgmt := { u.mgmt with reject := true } }) ∧
    (s.mgmt.state = 0 →
      let busy : State := { u with mgmt := { u.mgmt with state := 1 } }
      ((s.mgmt.len < 16 ∨ 4096 < s.mgmt.len) →
        Answers (.mgmtGo v) s fun t => Replies busy t ⟨.mailbox, 0, 0, 0, [], s.mgmt.boxGen⟩ 4 []) ∧
      (16 ≤ s.mgmt.len → s.mgmt.len ≤ 4096 → exec (.mgmtGo v) s =
        .next (receive busy .mailbox ((List.range s.mgmt.len).map fun i => mget 0 s.mgmt.buf i))))) ∧
  (∀ s : State, s.mgmt.resp = none → exec .mgmtResponseReady s = .next s) ∧
  (∀ s bs, s.mgmt.resp = some bs → Answers .mgmtResponseReady s fun t =>
    t.mgmt.state = 2 ∧ t.mgmt.done = true ∧ t.mgmt.len = bs.length ∧ t.mgmt.resp = none ∧
    (∀ i, mget 0 t.mgmt.buf i = bs.getD i 0) ∧
    t = { s with
      mgmt := { s.mgmt with resp := none, state := 2, done := true, len := bs.length, buf := t.mgmt.buf }
      outbox := t.outbox, rings := t.rings } ∧
    (s.mgmt.ien = false → t.outbox = s.outbox ∧ t.rings = s.rings) ∧
    (s.mgmt.ien = true → s.rings.unmasked.getLsbD s.mgmt.vec = true → s.rings.funcMask = false →
      t.outbox = s.outbox ++ [.msix s.mgmt.vec] ∧ t.rings = s.rings) ∧
    (s.mgmt.ien = true → s.rings.unmasked.getLsbD s.mgmt.vec = false ∨ s.rings.funcMask = true →
      t.outbox = s.outbox ∧ t.rings = { s.rings with pba := s.rings.pba ||| (1 <<< s.mgmt.vec) })) ∧
  ∀ s : State, exec .mgmtDoneClear s =
    .next (if s.mgmt.done then { s with mgmt := { s.mgmt with done := false, state := 0 } } else s))

/-- R572, R581, R582: the commands that only report: identity, attestation, status, pace, and the records of a stack, a port and a slice.
Choices of the model, not rules: rows 6, 7 and 10 of the assumption log. -/
def Obligations.StatusCommands : Prop :=
  (Serves .getIdentity 0x01 fun s ask pl t => Replies (taken s ask pl) t ask 0
    (Config.deviceKey ++ leBytes 3 0 ++ sha384 Config.deviceKey ++ leBytes 4 Config.certificate.length ++ Config.certificate)) ∧
  (Serves .attest 0x02 fun s ask pl t => (measurements s).length = 18 * 64 ∧ ∃ v, Replies (taken s ask pl) t ask 0
    (pl ++ leBytes 4 18 ++ measurements s ++ Config.sign (shaNat (pl ++ measurements s)) v)) ∧
  (Serves .mgmtStatusCmd 0x03 fun s ask pl t => Replies (taken s ask pl) t ask 0
    (leBytes 8 (sysStatusWord s) ++ leBytes 4 (pwrStatusWord s) ++ leBytes 4 (timeStatusWord s)
      ++ leBytes 8 (pwrDrawWord s) ++ leBytes 8 (pwrCoolantWord s) ++ leBytes 8 s.time.ns)) ∧
  (Serves .paceReport 0x04 fun s ask pl t => Replies (taken s ask pl) t ask 0
    (((s.power.paceRep.take 6).flatMap (leBytes 2)) ++ leBytes 4 0 ++ leBytes 8 (s.power.paceRep.getD 6 0))) ∧
  (Serves .mgmtMemStatus 0x05 fun s ask pl t =>
    (7 < entryNat pl 0 1 → Replies (taken s ask pl) t ask 4 []) ∧
    (entryNat pl 0 1 ≤ 7 → Replies (taken s ask pl) t ask 0 (memStatus s (entryNat pl 0 1)))) ∧
  (Serves .mgmtPortStatus 0x06 fun s ask pl t =>
    (11 < entryNat pl 0 1 → Replies (taken s ask pl) t ask 4 []) ∧
    (entryNat pl 0 1 ≤ 11 → let u := measureBer (taken s ask pl) (entryNat pl 0 1)
      Replies u t ask 0 (portStatus u (entryNat pl 0 1)))) ∧
  Serves .llcCounters 0x07 fun s ask pl t =>
    let k := s.slice (entryNat pl 0 1)
    (63 < entryNat pl 0 1 → Replies (taken s ask pl) t ask 4 []) ∧
    (entryNat pl 0 1 ≤ 63 → Replies (taken s ask pl) t ask 0
      (leBytes 8 k.applied.val ++ leBytes 8 k.forwarded.val ++ leBytes 8 k.lost.val ++ leBytes 8 k.pinLimit.val ++ leBytes 8 k.uncorr.val
        ++ leBytes 4 (b2n k.applied.ovf + 2 * b2n k.forwarded.ovf + 4 * b2n k.lost.ovf + 8 * b2n k.pinLimit.ovf + 16 * b2n k.uncorr.ovf)))

/-- R574 to R578: a session is offered under a credential and opens on the right proof; five failed proofs in 60 s lock their path for 60 s; at
most eight are open; a close, 900 s of idleness and a new credential in its slot end it. Choices of the model, not rules: rows 6, 10 and 58
of the assumption log. -/
def Obligations.Sessions : Prop :=
  (Serves .sessionOpen 0x10 fun s ask pl t =>
    let slot := entryNat pl 0 1
    let nr := (pl.drop 4).take 32
    let opened := (s.mgmt.sessions.filter fun x => x.isOpen).length
    let lockedNow := ∃ l ∈ s.mgmt.locked, l.1 = ask.path ∧ s.time.ns < l.2
    (lockedNow → Replies (taken s ask pl) t ask 12 []) ∧
    (¬lockedNow → 3 < slot → Replies (taken s ask pl) t ask 4 []) ∧
    (¬lockedNow → slot ≤ 3 → 8 ≤ opened → Replies (taken s ask pl) t ask 8 []) ∧
    (¬lockedNow → slot ≤ 3 → opened < 8 → mget none s.mgmt.creds slot = none → Replies (taken s ask pl) t ask 5 []) ∧
    ∀ k, ¬lockedNow → slot ≤ 3 → opened < 8 → mget none s.mgmt.creds slot = some k → ∃ nt : List Byte, ∃ sid, nt.length = 32 ∧
      0 < sid ∧ sid < 2 ^ 32 ∧ Replies { taken s ask pl with mgmt := { (taken s ask pl).mgmt with
        sessions := (s.mgmt.sessions.filter fun y => y.isOpen || y.path != ask.path) ++
          [⟨sid, ask.path, slot, nr, nt, hmac384 (leBytes 32 k.toNat) (tkey ++ nr ++ nt ++ leBytes 4 sid), 0, s.time.ns, false⟩] } }
        t ask 0 (nt ++ leBytes 4 sid ++ hmac384 (leBytes 32 k.toNat) (tsrv ++ nr ++ nt ++ leBytes 4 sid))) ∧
  (Serves .sessionProve 0x11 fun s ask pl t =>
    let sid := entryNat pl 0 4
    let right := ∃ x k, (s.mgmt.sessions.find? fun x => x.sid = sid && x.path = ask.path && !x.isOpen) = some x ∧
      mget none s.mgmt.creds x.slot = some k ∧ pl.drop 4 = hmac384 (leBytes 32 k.toNat) (treq ++ x.nr ++ x.nt ++ leBytes 4 sid)
    let opened := (s.mgmt.sessions.filter fun x => x.isOpen).length
    (¬right → Replies (failProof ask.path (taken s ask pl)) t ask 11 []) ∧
    (right → 8 ≤ opened → Replies (taken s ask pl) t ask 8 []) ∧
    (right → opened < 8 → Replies { taken s ask pl with mgmt := { (taken s ask pl).mgmt with
      sessions := s.mgmt.sessions.map fun x => if x.sid = sid then { x with isOpen := true, seq := 0, last := s.time.ns } else x } } t ask 0 [])) ∧
  (∀ s p,
    let n := ((s.mgmt.fails.filter fun f => s.time.ns < f.2 + 60 * 10 ^ 9).filter fun f => f.1 = p).length + 1
    (n < 5 → (failProof p s).mgmt.locked = s.mgmt.locked ∧ (p, s.time.ns) ∈ (failProof p s).mgmt.fails) ∧
    (5 ≤ n → (p, s.time.ns + 60 * 10 ^ 9) ∈ (failProof p s).mgmt.locked ∧
      ∀ l, l.1 ≠ p → (l ∈ (failProof p s).mgmt.locked ↔ l ∈ s.mgmt.locked))) ∧
  (Serves .sessionClose 0x12 fun s ask pl t => ∃ u, Replies (taken s ask pl) u ask 0 [] ∧
    t = { u with mgmt := { u.mgmt with sessions := s.mgmt.sessions.filter fun x => x.sid != ask.sid } }) ∧
  (∀ s (sid : Word32), exec (.sessionIdleTimeout sid) s = .next { s with mgmt := { s.mgmt with
    sessions := s.mgmt.sessions.filter fun x => !(x.sid = sid.toNat && x.isOpen && x.last + 900 * 10 ^ 9 ≤ s.time.ns) } }) ∧
  (∀ s p, exec (.pathLockoutExpiry p) s = .next { s with mgmt := { s.mgmt with
    locked := s.mgmt.locked.filter fun l => !(l.1 = p && l.2 ≤ s.time.ns) } }) ∧
  Serves .credSet 0x20 fun s ask pl t =>
    let slot := entryNat pl 0 1
    let v := entryNat pl 4 32 ^^^ leNat ((hmac384 ask.ks (tcrd ++ leBytes 4 ask.seq)).take 32)
    let creds := mset none s.mgmt.creds slot (if v = 0 then none else some (BitVec.ofNat 256 v))
    (3 < slot → Replies (taken s ask pl) t ask 4 []) ∧
    (slot ≤ 3 → creds = [] → Replies (taken s ask pl) t ask 5 []) ∧
    (slot ≤ 3 → creds ≠ [] → ∃ u, Replies (taken s ask pl) u ask 0 [] ∧ t = { u with mgmt := { u.mgmt with
      creds := creds, sessions := s.mgmt.sessions.filter fun x => x.slot != slot } })

/-- R572, R589: the operator's key is stored; a consist is gathered in chunks, and its last chunk has it checked: signature, target and number
under status 13, its settings under 4; what passes is staged, and a rejected one leaves nothing. Choices of the model, not rules: rows 7 and
59 of the assumption log. -/
def Obligations.ConsistLoading : Prop :=
  (Serves .consistKeySet 0x21 fun s ask pl t =>
    (entryNat pl 0 1 ≠ 4 → Replies (taken s ask pl) t ask 4 []) ∧
    (entryNat pl 0 1 = 4 →
      Replies { taken s ask pl with mgmt := { (taken s ask pl).mgmt with opKey := some pl } } t ask 0 (sha384 pl))) ∧
  (Serves .consistLoad 0x30 fun s ask pl t =>
    let off := entryNat pl 0 4
    let total := entryNat pl 4 4
    let n := entryNat pl 8 4
    let wrong := pl.length ≠ 12 + n ∨ total = 0 ∨ 2 ^ 20 < total ∨ total < off + n
    let st := putChunk (if s.mgmt.stageLen = total then s.mgmt.stage else []) off (pl.drop 12)
    let empty : Mgmt := { (taken s ask pl).mgmt with stage := [], stageLen := 0, staged := none }
    (wrong → Replies (taken s ask pl) t ask 4 []) ∧
    (¬wrong → st.length < total → Replies { taken s ask pl with mgmt := { empty with stage := st, stageLen := total } }
      t ask 0 (leBytes 4 st.length)) ∧
    (¬wrong → total ≤ st.length →
      (∀ c, consistCheck s (chunkBytes st) = (0, some c) →
        Replies { taken s ask pl with mgmt := { empty with staged := some c, maxNum := c.number } } t ask 0 (leBytes 4 total)) ∧
      ((consistCheck s (chunkBytes st)).2 = none →
        Replies { taken s ask pl with mgmt := empty } t ask (consistCheck s (chunkBytes st)).1 []))) ∧
  ∀ s b,
    let n := b.length - 96
    let named := (∃ k, s.mgmt.opKey = some k ∧ 96 ≤ b.length ∧ Config.verify k (b.take n) (b.drop n) = true) ∧
      entryNat b 0x18 48 = leNat (sha384 Config.deviceKey) ∧ s.mgmt.maxNum < entryNat b 4 4
    (¬named → consistCheck s b = (13, none)) ∧
    (∀ c, named → readConsist b = some c → consistOk c = true → consistCheck s b = (0, some c) ∧ c.number = entryNat b 4 4) ∧
    (named → (∀ c, readConsist b = some c → consistOk c = false) → consistCheck s b = (4, none))

/-- R54, R580, R590, R593: applying, reverting and taking the factory consist: at once at a quiescent point, else at the named step; a step that
has begun has status 4, like a consist whose group of a vote-mode Tender collective cannot vote (R449), a change while another waits 8, and
one without its consist 5. R580, R591, R592: probation ends with the consist confirmed, on CONSIST_CONFIRM or when its period has passed; a
failure stops the consist and makes the previous one current, and 120 s without a commit is such a failure. Choices of the model, not rules:
rows 59, 70 and 73 of the assumption log. -/
def Obligations.ConsistChanges : Prop :=
  -- consist changes
  (let settled (s u : State) (kind : Nat) : Prop :=
    u.mgmt.change = none ∧ u.power.paceCmd = none ∧ (u.sys.keyPend = true ↔ u.consist.key ≠ s.mem.key) ∧
    u.coaches = s.coaches ∧ u.mem = { s.mem with actPages := [] } ∧ u.tender.step = s.tender.step ∧ u.time = s.time ∧
    (∀ c, kind = 0 → s.mgmt.staged = some c → u.mgmt.cur = c ∧ u.mgmt.prev = some s.mgmt.cur ∧ u.mgmt.staged = none ∧
      u.mgmt.probEnd = some (s.time.ns + c.probation * 10 ^ 9) ∧ u.mgmt.lastCommit = s.time.ns) ∧
    (∀ c, kind = 1 → s.mgmt.prev = some c → u.mgmt.cur = c ∧ u.mgmt.prev = none ∧ u.mgmt.probEnd = none ∧ u.mgmt.priv = none) ∧
    (kind = 2 → u.mgmt.cur = {} ∧ u.mgmt.prev = some s.mgmt.cur ∧ u.mgmt.probEnd = none ∧ u.mgmt.priv = none)
  let lacking (s : State) (kind : Nat) : Prop := (kind = 0 ∧ s.mgmt.staged = none) ∨ (kind = 1 ∧ s.mgmt.prev = none)
  (∀ row ∈ [(Instr.consistApply, 0x31, 0), (.consistRevert, 0x33, 1), (.consistFactory, 0x34, 2)],
    Serves row.1 row.2.1 fun s ask pl t =>
      let kind := row.2.2
      let step := entryNat pl 0 8
      let late := step ≠ 0 ∧ s.tender.run = true ∧ if s.halt.state = 2 then step < s.tender.step else step ≤ s.tender.step
      let novote := kind = 0 ∧ ∃ c, s.mgmt.staged = some c ∧ votesOk s c = false
      (lacking s kind → Replies (taken s ask pl) t ask 5 []) ∧
      (¬lacking s kind → late ∨ novote → Replies (taken s ask pl) t ask 4 []) ∧
      (¬lacking s kind → ¬late → ¬novote → s.mgmt.change ≠ none → Replies (taken s ask pl) t ask 8 []) ∧
      (¬lacking s kind → ¬late → ¬novote → s.mgmt.change = none →
        (s.quiescent = false → Replies { taken s ask pl with mgmt := { (taken s ask pl).mgmt with
          change := some (step, kind), priv := if kind = 0 then some .consist else s.mgmt.priv } } t ask 0 (leBytes 8 step)) ∧
        (s.quiescent = true → ∃ u, settled s u kind ∧ u.mgmt.inbox = s.mgmt.inbox.erase (ask, pl) ∧
          Replies u t ask 0 (leBytes 8 s.tender.step)))) ∧
  (∀ s, (s.mgmt.change = none ∨ s.quiescent = false) → exec .consistTakeEffect s = .next s) ∧
  ∀ s step kind, s.mgmt.change = some (step, kind) → s.quiescent = true →
    (lacking s kind → exec .consistTakeEffect s = .next { s with mgmt := { s.mgmt with change := none } }) ∧
    (¬lacking s kind → Answers .consistTakeEffect s fun t => settled s t kind)) ∧
  -- probation
  ((Serves .consistConfirm 0x32 fun s ask pl t =>
    (s.mgmt.probEnd = none → Replies (taken s ask pl) t ask 5 []) ∧
    (s.mgmt.probEnd ≠ none → Replies { taken s ask pl with mgmt := { (taken s ask pl).mgmt with probEnd := none, priv := none } } t ask 0 [])) ∧
  (∀ s : State, s.mgmt.probEnd = none → ∀ i ∈ [Instr.probationExpiry, .noCommitTimeout], exec i s = .next s) ∧
  (∀ (s : State) c, s.mgmt.probEnd = none → exec (.probationFailure c) s = .next s) ∧
  (∀ s e, s.mgmt.probEnd = some e →
    (s.time.ns < e → exec .probationExpiry s = .next s) ∧
    (e ≤ s.time.ns → exec .probationExpiry s = .next { s with mgmt := { s.mgmt with probEnd := none, priv := none } }) ∧
    (∀ cond, Answers (.probationFailure cond) s fun t => t.halt.state = 2 ∧ t.halt.source = 4 ∧ t.mgmt.probEnd = none ∧ t.mgmt.priv = none ∧
      (s.mgmt.prev = none → t.mgmt.cur = s.mgmt.cur) ∧
      (∀ c, s.mgmt.prev = some c → t.mgmt.cur = c ∧ t.mgmt.prev = none ∧ t.mgmt.change = none ∧
        Raised s t 0x0071 s.mgmt.cur.number (failCode cond))) ∧
    ((s.tender.run = false ∨ s.halt.state = 2 ∨ s.time.ns < s.mgmt.lastCommit + 120 * 10 ^ 9) → exec .noCommitTimeout s = .next s) ∧
    (s.tender.run = true → s.halt.state ≠ 2 → s.mgmt.lastCommit + 120 * 10 ^ 9 ≤ s.time.ns →
      Answers .noCommitTimeout s fun t => exec (.probationFailure .noCommit) s = .next t ∧ t.halt.state = 2 ∧ t.mgmt.probEnd = none)))

/-- R583 to R585: an image is gathered in chunks into the inactive slot, which stays empty unless it passes its checks; a component moves to its
other slot when that holds an image of a sufficient version and of the running class; it returns when its self-test fails; a commit raises
the fused minimum, which no command lowers. Choices of the model, not rules: rows 7, 60 and 70 of the assumption log. -/
def Obligations.Firmware : Prop :=
  (Serves .fwLoad 0x40 fun s ask pl t =>
    let comp := entryNat pl 0 2
    let off := entryNat pl 4 4
    let total := entryNat pl 8 4
    let bs := pl.drop 12
    let wrong := compOk comp = false ∨ total = 0 ∨ total < off + bs.length
    let k := s.fwOf comp
    let st := putChunk (if k.stageLen = total then k.staged else []) off bs
    (wrong → Replies (taken s ask pl) t ask 4 []) ∧
    (¬wrong → st.length < total → ∃ u, Replies u t ask 0 (leBytes 4 st.length) ∧
      OnlyFw (taken s ask pl) u comp { setInactive k none with staged := st, stageLen := total }) ∧
    (¬wrong → total ≤ st.length → ∃ u, OnlyFw (taken s ask pl) u comp
        { setInactive k (imageCheck s comp (chunkBytes st)).2 with staged := [], stageLen := 0 } ∧
      Replies u t ask (imageCheck s comp (chunkBytes st)).1 (if (imageCheck s comp (chunkBytes st)).1 = 0 then leBytes 4 total else []))) ∧
  (∀ s comp b,
    let right (i : Image) (sig : List Byte) : Prop := Config.parseImage b = some (i, sig) ∧
      Config.verify Config.firmwareKey b sig = true ∧ i.comp = comp ∧ shaNat (Config.imageBody b) = i.digest
    (∀ i sig, right i sig → imageCheck s comp b = if i.svn < (s.fwOf comp).minSvn then (14, none) else (0, some i)) ∧
    ((∀ i sig, ¬right i sig) → imageCheck s comp b = (13, none))) ∧
  (∀ row ∈ [(Instr.fwActivate, 0x41), (.fwRevert, 0x42)], Serves row.1 row.2 fun s ask pl t =>
    let comp := entryNat pl 0 2
    let k := s.fwOf comp
    (compOk comp = false → Replies (taken s ask pl) t ask 4 []) ∧
    (compOk comp = true → k.inactive = none → Replies (taken s ask pl) t ask 5 []) ∧
    ∀ i, compOk comp = true → k.inactive = some i →
      let blocked := ((∃ a, k.active = some a ∧ a.compat ≠ i.compat) ∧ s.halt.state ≠ 2) ∨ (comp = 2 ∧ (0xFE : BitVec 8) ∉ s.sys.posMap)
      (i.svn < k.minSvn → Replies (taken s ask pl) t ask 14 []) ∧
      (k.minSvn ≤ i.svn → blocked → Replies (taken s ask pl) t ask 5 []) ∧
      (k.minSvn ≤ i.svn → ¬blocked → t.mgmt.priv = some (.firmware comp (some ask)) ∧ t.mgmt.fw = s.mgmt.fw ∧
        t.mgmt.sessions = (if comp = 1 then [] else s.mgmt.sessions) ∧ t.coaches = s.coaches ∧ t.mem = s.mem ∧
        (comp = 2 → ∀ c, c ∈ t.mgmt.ucodeLeft ↔ c < 96 ∧ posOf s c < 100) ∧
        ∀ p, (comp < 0x20 ∨ p / 3 ≠ comp - 0x20 ∨ (s.port p).state = 0) → t.port p = s.port p)) ∧
  (∀ s comp,
    let c := compCode comp
    (activating s c = none → exec (.fwActivationComplete comp) s = .next s) ∧
    ((activating s c).isSome = true → c = 2 → s.mgmt.ucodeLeft ≠ [] → exec (.fwActivationComplete comp) s = .next s) ∧
    (∀ ask, activating s c = some ask → (c ≠ 2 ∨ s.mgmt.ucodeLeft = []) → Answers (.fwActivationComplete comp) s fun t =>
      ∃ u, OnlyFw { s with mgmt := { s.mgmt with priv := none } } u c { s.fwOf c with slotB := !(s.fwOf c).slotB } ∧
        (ask = none → t = u) ∧ ∀ a, ask = some a → Replies u t a 0
          (leBytes 4 (((s.fwOf c).inactive.map (·.version)).getD 0) ++ leBytes 1 (b2n !(s.fwOf c).slotB))) ∧
    (∀ ask, activating s c = some ask → Answers (.fwSelfTestRevert comp) s fun t => t.mgmt.priv = none ∧ t.mgmt.fw = s.mgmt.fw ∧
      t.mgmt.ucodeLeft = [] ∧ Raised s t 0x0070 c (b2n (s.fwOf c).slotB) ∧
      (∀ d < 96, (t.coach d).ucodeB = if c = 2 then (s.fwOf 2).slotB else (s.coach d).ucodeB) ∧ ∀ a, ask = some a → Answered s t a 5 []) ∧
    (activating s c = none → (s.fwOf c).inactive = none → exec (.fwSelfTestRevert comp) s = .next s) ∧
    (activating s c = none → (s.fwOf c).inactive ≠ none → Answers (.fwSelfTestRevert comp) s fun t =>
      t.fwOf c = { s.fwOf c with slotB := !(s.fwOf c).slotB } ∧ (∀ d, d ≠ c → t.fwOf d = s.fwOf d) ∧ t.outbox = s.outbox ∧
      Raised s t 0x0070 c (b2n !(s.fwOf c).slotB))) ∧
  Serves .fwCommit 0x43 fun s ask pl t =>
    let comp := entryNat pl 0 2
    let k := s.fwOf comp
    let least := max k.minSvn ((k.active.map (·.svn)).getD 0)
    (compOk comp = false → Replies (taken s ask pl) t ask 4 []) ∧
    (compOk comp = true → ∃ u, OnlyFw (taken s ask pl) u comp { k with minSvn := least } ∧ Replies u t ask 0 (leBytes 4 least))

/-- R324, R361, R595 to R597: laser retirement, retraining, sensor calibration in turn, re-trimming by 5 mV within 30 mV of the trim, and flash
blocks retired until the spares run low. R550 on a management path: an impossible flag has status 3, a time that is no whole second 4 where
the consist declares a time source; there the setting waits for an edge, and without a source it applies at once as the table of R550 gives
it. Choices of the model, not rules: rows 7, 51, 61 and 70 of the assumption log. -/
def Obligations.Maintenance : Prop :=
  -- maintenance
  ((Serves .laserRetire 0x50 fun s ask pl t =>
    let e := entryNat pl 0 1
    let u : LaserUnit := if entryNat pl 1 1 = 0 then .a else .b
    let k := s.engine e
    let both := lit (laserOf k u) = true ∧ lit (laserOf k (otherUnit u)) = true
    ((3 < e ∨ 1 < entryNat pl 1 1) → Replies (taken s ask pl) t ask 4 []) ∧
    (e ≤ 3 → entryNat pl 1 1 ≤ 1 → ¬both → Replies (taken s ask pl) t ask 5 []) ∧
    (e ≤ 3 → entryNat pl 1 1 ≤ 1 → both → ∃ v, OnlyEngine (taken s ask pl) v e (v.engine e) ∧
      laserOf (v.engine e) u = .retired ∧ laserOf (v.engine e) (otherUnit u) = .alone ∧
      Replies v t ask 0 (leBytes 1 (laserCode (v.engine e).a) ++ leBytes 1 (laserCode (v.engine e).b)))) ∧
  (Serves .retrain 0x51 fun s ask pl t =>
    let k := entryNat pl 0 1
    let c := entryNat pl 1 1
    ((7 < k ∨ 31 < c) → Replies (taken s ask pl) t ask 4 []) ∧
    (k ≤ 7 → c ≤ 31 → s.mem.retrain ≠ none → Replies (taken s ask pl) t ask 8 []) ∧
    (k ≤ 7 → c ≤ 31 → s.mem.retrain = none → t = { taken s ask pl with
      mem := { s.mem with retrain := some ⟨k, c, 0, some ask⟩ }, mgmt := { (taken s ask pl).mgmt with priv := some .retrain } })) ∧
  (Serves .recalibrate 0x52 fun s ask pl t =>
    let k := entryNat pl 0 2
    let starts (a b : Nat) : Prop := t = { taken s ask pl with mgmt := { (taken s ask pl).mgmt with
      priv := some (.calibrate a b (some ask)), sensor := some a } }
    (k = 0xFFFF → Config.sensorCount = 0 → Replies (taken s ask pl) t ask 0 []) ∧
    (k = 0xFFFF → Config.sensorCount ≠ 0 → starts 0 Config.sensorCount) ∧
    (k ≠ 0xFFFF → Config.sensorCount ≤ k → Replies (taken s ask pl) t ask 4 []) ∧
    (k ≠ 0xFFFF → k < Config.sensorCount → starts k (k + 1))) ∧
  (∀ s : State, ((s.mgmt.priv ≠ none ∨ Config.sensorCount = 0) → exec .sensorRecalTimer s = .next s) ∧
    (s.mgmt.priv = none → Config.sensorCount ≠ 0 → exec .sensorRecalTimer s = .next { s with mgmt := { s.mgmt with
      priv := some (.calibrate 0 Config.sensorCount none), sensor := some 0 } }) ∧
    ((∀ k stop ask, s.mgmt.priv ≠ some (.calibrate k stop ask)) → exec .sensorCalibrationComplete s = .next s) ∧
    ∀ k stop ask, s.mgmt.priv = some (.calibrate k stop ask) →
      (k + 1 < stop → exec .sensorCalibrationComplete s = .next { s with mgmt := { s.mgmt with
        priv := some (.calibrate (k + 1) stop ask), sensor := some (k + 1) } }) ∧
      (stop ≤ k + 1 → Answers .sensorCalibrationComplete s fun t =>
        let u : State := { s with mgmt := { s.mgmt with priv := none, sensor := none } }
        (ask = none → t = u) ∧ ∀ a, ask = some a → Replies u t a 0 [])) ∧
  (∀ trim err, -30 ≤ trim → trim ≤ 30 →
    let r := trimStep trim err
    r.1 ≤ 30 ∧ -30 ≤ r.1 ∧ (r.2 = true → r.1 = trim) ∧ (err.natAbs ≤ 10 → r = (trim, false)) ∧
    (10 < err → r = if trim < -25 then (trim, true) else (trim - 5, false)) ∧
    (err < -10 → r = if 25 < trim then (trim, true) else (trim + 5, false))) ∧
  (Serves .retrim 0x53 fun s ask pl t => ∃ u, Trimmed (taken s ask pl) u ∧
    Replies u t ask 0 (leBytes 2 (intBits 16 u.power.trimW) ++ leBytes 2 (intBits 16 u.power.trimE))) ∧
  (∀ s : State, (s.mgmt.priv ≠ none → exec .retrimTimer s = .next s) ∧ (s.mgmt.priv = none → Answers .retrimTimer s fun t => Trimmed s t)) ∧
  ∀ s (block : Word32),
    let m : Mgmt := { s.mgmt with flashBad := s.mgmt.flashBad ++ [block.toNat] }
    let left := sparesLeft m.flashBad.length
    (block.toNat ∈ s.mgmt.flashBad → exec (.flashBlockRetire block) s = .next s) ∧
    (block.toNat ∉ s.mgmt.flashBad → (50 ≤ left ∨ s.mgmt.flashRo = true) → exec (.flashBlockRetire block) s = .next { s with mgmt := m }) ∧
    (block.toNat ∉ s.mgmt.flashBad → left < 50 → s.mgmt.flashRo = false → Answers (.flashBlockRetire block) s fun t =>
      t.mgmt = { m with flashRo := true } ∧ Raised s t 0x0072 left 0 ∧ t.flash = s.flash ∧
      (s.consist.partner = none → t.halt.state = 2 ∧ t.halt.source = 4) ∧
      ∀ r, s.consist.partner = some r → t.halt = s.halt)) ∧
  -- time of day path
  (Serves .mgmtTimeOfDay 0x55 fun s ask pl t =>
    let time := entryNat pl 0 8
    let flags := entryNat pl 8 1
    let m := s.time
    let e : Int := (time : Int) - m.ns
    let u := taken s ask pl
    (2 ≤ flags → Replies u t ask 3 []) ∧
    (flags < 2 → s.consist.ppsIn = true → time % 10 ^ 9 ≠ 0 → Replies u t ask 4 []) ∧
    (flags < 2 → s.consist.ppsIn = true → time % 10 ^ 9 = 0 →
      t = { u with time := { m with tods := m.tods ++ [⟨none, some ask, time, bit flags 0, m.ns⟩] } }) ∧
    (flags < 2 → s.consist.ppsIn = false → m.tods = [] →
      (m.state = 0 → 0 < e → Replies { u with time := { m with ns := time, frac := 0, set := true, state := 1, good := 0, offset := 0 } }
        t ask 0 (leBytes 8 (intBits 64 e))) ∧
      (m.state = 0 → e ≤ 0 → Replies u t ask 4 []) ∧
      (m.state ≠ 0 → m.set = true → flags = 1 →
        (e < 0 → Replies u t ask 4 []) ∧ (0 ≤ e → s.quiescent = false → Replies u t ask 5 []) ∧
        (0 ≤ e → s.quiescent = true → Replies { u with time := { m with ns := time, offset := 0 } } t ask 0 (leBytes 8 (intBits 64 e)))) ∧
      (m.state ≠ 0 → m.set = true → flags = 0 → ∃ c, Replies { u with time := { m with slew := m.slew + e * 2000, c := c } }
        t ask 0 (leBytes 8 (intBits 64 e)) ∧ (e ≠ 0 → c = ⟨if 0 < e then 50000 else -50000, 1⟩))))

/-- R15, R28, R101, R191, R343, R511, R591, R647: a stopped coach is reported and reset, the third time within 3,600 s moved to a spare; a
substitution that is due or asked for waits for the drain and for tile transfers, and a request is answered with the new position. Choices
of the model, not rules: rows 5, 60, 62 and 70 of the assumption log. -/
def Obligations.CoachSubstitution : Prop :=
  (∀ s old p, spareFor s old = some p → p < 100 ∧ s.sys.posMap.getD p 0 = 0xFE ∧
    ∀ q < 100, s.sys.posMap.getD q 0 = 0xFE → westPos q = westPos old → westPos p = westPos old ∧ p ≤ q) ∧
  (∀ s (c : Fin 96), (s.coach c).stopped = none → exec (.coachResetReload c) s = .next s) ∧
  (∀ s (c : Fin 96) seat cause extra, (s.coach c).stopped = some (seat, cause, extra) →
    (Answers (.coachResetReload c) s fun t => Raised s t 0x0010 (c + 2 ^ 7 * seat.val + 2 ^ 9 * cause.toNat) extra ∧
      (s.mgmt.probEnd ≠ none → t.halt.state = 2 ∧ t.mgmt.probEnd = none)) ∧
    ((recent s.time.ns (s.coach c).stops).length < 2 → (s.coach c).subDue = false →
      Answers (.coachResetReload c) s fun t => (∀ d, d ≠ c.val → t.coach d = s.coach d) ∧ t.sys.posMap = s.sys.posMap ∧
        t.coach c = freshCoach { s.coach c with stops := recent s.time.ns (s.coach c).stops ++ [s.time.ns] }) ∧
    (2 ≤ (recent s.time.ns (s.coach c).stops).length ∨ (s.coach c).subDue = true → s.mgmt.probEnd = none →
      (tileInFlight s c = false → Answers (.coachResetReload c) s fun t => Moved s t c 0xFF) ∧
      (tileInFlight s c = true → Answers (.coachResetReload c) s fun t => (t.coach c).stopped = none ∧ (t.coach c).subDue = true ∧
        t.sys.posMap = s.sys.posMap))) ∧
  (∀ k : Machine.Coach, (freshCoach k).stopped = none ∧ (freshCoach k).stops = k.stops ∧ (freshCoach k).aFaults = k.aFaults ∧
    (freshCoach k).subDue = k.subDue ∧ (freshCoach k).drainAt = [] ∧
    (freshCoach k).ladds = k.ladds ∧ (freshCoach k).l1 = [] ∧ ∀ i, (freshCoach k).seat i = { remSt := ((freshCoach k).seat i).remSt }) ∧
  (∀ s (c : Fin 96),
    let due := (s.coach c).subDue = true
    let asked := (substituteAsk s c).isSome = true
    let held := mapped s c = false ∨ draining s c = true ∨ tileInFlight s c = true
    ((held ∨ (¬due ∧ ¬asked)) → exec (.coachSubstitution c) s = .next s) ∧
    (¬held → due ∨ asked → Answers (.coachSubstitution c) s fun t => Moved s t c 0xFF) ∧
    ∀ ask, ¬held → substituteAsk s c = some ask → Answers (.coachSubstitution c) s fun t => ∃ u, Moved s u c 0xFF ∧
      (mapped u c = true → Replies { u with mgmt := { u.mgmt with priv := none } } t ask 0 (leBytes 1 (posOf u c))) ∧
      (mapped u c = false → Replies { u with mgmt := { u.mgmt with priv := none } } t ask 5 [])) ∧
  (Serves .substitute 0x54 fun s ask pl t =>
    let c := entryNat pl 0 1
    ((96 ≤ c ∨ mapped s c = false) → Replies (taken s ask pl) t ask 4 []) ∧
    ∀ k : Fin 96, k.val = c → mapped s c = true → t = { taken s ask pl with
        coaches := t.coaches, mgmt := { (taken s ask pl).mgmt with priv := some (.substitute c ask) } } ∧
      (∀ d, d ≠ c → t.coach d = s.coach d) ∧ ∀ i, (t.seat ⟨k, i⟩).pend.getLsbD 3 = true) ∧
  (∀ s failed, (s.way.testDue = false ∨ s.quiescent = false) → exec (.coachSelfTest failed) s = .next s) ∧
  (∀ s failed, s.way.testDue = true → s.quiescent = true → Answers (.coachSelfTest failed) s fun t => t.way.testDue = false ∧
    t.way.suspect = (s.way.suspect || failed.isEmpty) ∧ (∀ c, failed = [c] → mapped s c = true → Moved s t c 0xFF) ∧
    ((∀ c ∈ failed, mapped s c = false) → t = { s with way := { s.way with testDue := false, suspect := t.way.suspect } })) ∧
  ∀ s (c : Fin 96),
    let held := c.val ∉ s.mgmt.ucodeLeft ∨ mapped s c = false ∨ s.mgmt.ucodeAt = some s.tender.step ∨ draining s c = true ∨
      tileInFlight s c = true ∨ spareFor s (posOf s c) = none
    (held → exec (.microcodeCoachMove c) s = .next s) ∧
    (¬held → Answers (.microcodeCoachMove c) s fun t => Moved s t c 0xFE ∧ (t.coach c).ucodeB = !(s.fwOf 2).slotB ∧
      t.mgmt.ucodeLeft = s.mgmt.ucodeLeft.filter (fun i => i != c.val) ∧ t.mgmt.ucodeAt = some s.tender.step)

/-- R543, R544, R561, R562, R598 to R602, R606, R612 to R616: writes of the set-up space: misaligned accesses, read-only registers and
unassigned offsets take nothing; the other registers act as their own rules say. Choices of the model, not rules: rows 9 and 57 of the
assumption log. -/
def Obligations.SetupRegisters : Prop :=
  (∀ s off size v, s.sys.cxlUp = false → exec (.registerWrite .bar0 off size v) s = .next s) ∧
  (∀ s (off : BitVec 40) (size : Fin 9) v,
    let o := off.toNat
    (65536 < o + size.val ∨ o % size.val ≠ 0 ∨ size.val ∉ [1, 2, 4, 8] ∨ (size.val < 4 ∧ (o < 0x1000 ∨ 0x2000 ≤ o))) →
      exec (.registerWrite .bar0 off size v) s = .next s) ∧
  (∀ s (off : BitVec 40) (size : Fin 9) v,
    (∃ r ∈ [(0x008, 0x100), (0x100, 0x108), (0x110, 0x180), (0x18C, 0x800), (0x80C, 0x1000), (0x4400, 0xF000), (0xF008, 0x10000)],
      r.1 ≤ off.toNat ∧ off.toNat + size.val ≤ r.2) → exec (.registerWrite .bar0 off size v) s = .next s) ∧
  ∀ s (v : Word), s.sys.cxlUp = true →
    (exec (.registerWrite .bar0 0x180 8 v) s = exec (.pwrRampWrite v) s ∧ exec (.registerWrite .bar0 0x180 4 v) s = .next s ∧
      exec (.registerWrite .bar0 0x184 4 v) s = .next s ∧ exec (.registerWrite .bar0 0xF000 4 v) s = .next s) ∧
    (exec (.registerWrite .bar0 0xF000 8 v) s = if bit v.toNat 0 = false then exec (.haltStore v) s
      else if bit v.toNat 3 then exec (.haltSchedule v) s else exec (.haltStopNow v) s) ∧
    (exec (.registerWrite .bar0 0x188 4 v) s = .next { s with power := { s.power with
      limited := s.power.limited && !bit v.toNat 0, short := s.power.short && !bit v.toNat 3
      trip := s.power.trip && !bit v.toNat 5, envFault := s.power.envFault && !bit v.toNat 6 } }) ∧
    (exec (.registerWrite .bar0 0x108 4 v) s = .next { s with time := { s.time with
      alarm := s.time.alarm && !bit v.toNat 3, envFault := s.time.envFault && !bit v.toNat 5
      rejected := if bit v.toNat 4 then s.time.rejected.clear else s.time.rejected } }) ∧
    exec (.registerWrite .window 0x200008 4 v) s = exec (.registerWrite .bar0 0x108 4 v) s ∧
    (exec (.registerWrite .bar0 0 8 v) s = .next { s with sys := { s.sys with
      geomWr := if bit v.toNat 63 then s.sys.geomWr.clear else s.sys.geomWr } }) ∧
    (exec (.registerWrite .bar0 0x800 4 v) s = if bit v.toNat 0 then exec (.mgmtGo (v.setWidth 32)) s
      else .next { s with mgmt := { s.mgmt with ien := bit v.toNat 1, vec := bits v.toNat 8 6 } }) ∧
    (exec (.registerWrite .bar0 0x808 4 v) s = .next { s with mgmt :=
      if s.mgmt.state = 0 then { s.mgmt with len := v.toNat % 2 ^ 13 } else { s.mgmt with reject := true } }) ∧
    (exec (.registerWrite .bar0 0x804 4 v) s =
      let m := if bit v.toNat 2 = true ∧ s.mgmt.done = true then { s.mgmt with done := false, state := 0 } else s.mgmt
      .next { s with mgmt := { m with reject := m.reject && !bit v.toNat 3 } }) ∧
    (∀ (off : BitVec 40) (size : Fin 9), 0x1000 ≤ off.toNat → off.toNat + size.val ≤ 0x2000 → off.toNat % size.val = 0 →
      size.val ∈ [1, 2, 4, 8] →
      (s.mgmt.state ≠ 0 → exec (.registerWrite .bar0 off size v) s = .next { s with mgmt := { s.mgmt with reject := true } }) ∧
      (s.mgmt.state = 0 → Answers (.registerWrite .bar0 off size v) s fun t => t = { s with mgmt := { s.mgmt with buf := t.mgmt.buf } } ∧
        ∀ i, mget 0 t.mgmt.buf i = if off.toNat ≤ i + 0x1000 ∧ i + 0x1000 < off.toNat + size.val then
          BitVec.ofNat 8 (v.toNat / 2 ^ (8 * (i + 0x1000 - off.toNat))) else mget 0 s.mgmt.buf i)) ∧
    (∀ (r : RingNo) (off : BitVec 40), off.toNat = 0x2000 + 32 * r.val + 8 → exec (.registerWrite .bar0 off 8 v) s =
      if bit v.toNat 0 then exec (.ringEnableWrite r v) s else exec (.ringDisableWrite r v) s) ∧
    (∀ (r : RingNo) (off : BitVec 40), off.toNat = 0x2000 + 32 * r.val → Answers (.registerWrite .bar0 off 8 v) s fun t =>
      OnlyPair s t r (if (s.pair r).state = 0 then { s.pair r with addr := v.toNat / 4096 } else { s.pair r with err := 5 })) ∧
    ∀ (k : Fin 64) (off : BitVec 40), off.toNat = 0x4000 + 16 * k.val + 12 → Answers (.registerWrite .bar0 off 4 v) s fun t =>
      t.rings.unmasked.getLsbD k = !bit v.toNat 0 ∧ (∀ j : Fin 64, j ≠ k → t.rings.unmasked.getLsbD j = s.rings.unmasked.getLsbD j) ∧
      (bit v.toNat 0 = false → s.rings.funcMask = false → s.rings.pba.getLsbD k = true →
        t.rings.pba.getLsbD k = false ∧ Out.msix k.val ∈ t.outbox)

/-- R26, R327, R401, R408, R409, R410, R470, R485, R551, R600, R605: a store to a window acts as the command of the register it reaches; the
geometry table only counts it, and nothing lies beyond the windows. A 4-byte read of one half of TIME_NOW or PWR_DRAW latches the other.
Choices of the model, not rules: rows 57 and 66 of the assumption log. -/
def Obligations.WindowStores : Prop :=
  (∀ s (off : BitVec 40) size v, windowEnd ≤ off.toNat → exec (.registerWrite .window off size v) s = .next s) ∧
  (∀ s (off : BitVec 40) size v,
    (off.toNat < 4096 → exec (.registerWrite .window off size v) s = .next (s.bump .sysId)) ∧
    (4096 ≤ off.toNat → off.toNat < 0x200000 → exec (.registerWrite .window off size v) s = .next s)) ∧
  (∀ s (a : Fin 240) (off : BitVec 40) v, off.toNat = 0x200100 + 16 * a.val →
    exec (.registerWrite .window off 8 v) s = exec (.epochAlarmWrite a v) s) ∧
  (∀ s (m : MoverNo) (off : BitVec 40) v, off.toNat = 0x400000 + 64 * m.val + 0xC →
    exec (.registerWrite .window off 4 v) s = exec (.moverTailWrite m (v.setWidth 32)) s) ∧
  (∀ s (q : QueueNo) (off : BitVec 40) v, off.toNat = 0x600000 + 32 * q.val + 0xC →
    exec (.registerWrite .window off 4 v) s = exec (.collectiveTailWrite q (v.setWidth 32)) s) ∧
  (∀ s (c : Fin 64) (off : BitVec 40) v, off.toNat = 0x800000 + 32 * c.val →
    exec (.registerWrite .window off 4 v) s = exec (.barrierConfigWrite c (v.setWidth 32)) s) ∧
  (∀ s (n : BitVec 12) (off : BitVec 40) (v : Word),
    (off.toNat = 0x801000 + 16 * n.toNat →
      exec (.registerWrite .window off 4 v) s = exec (.semaphoreValueWrite n (v.setWidth 32)) s ∧
      exec (.registerWrite .window off 8 v) s = exec (.semaphoreArmWrite n ((v >>> 32).setWidth 32) (some (v.setWidth 32))) s) ∧
    (off.toNat = 0x801000 + 16 * n.toNat + 4 →
      exec (.registerWrite .window off 4 v) s = exec (.semaphoreArmWrite n (v.setWidth 32) none) s)) ∧
  (∀ s v, exec (.registerWrite .window 0xC00000 4 v) s = exec (.ledgerConfigWrite (v.setWidth 32)) s ∧
    exec (.registerWrite .window 0xC00004 4 v) s = exec (.ledgerOpen (v.setWidth 32)) s ∧
    exec (.registerWrite .window 0xC00008 4 v) s = exec (.ledgerFolded (v.setWidth 32)) s ∧
    exec (.registerWrite .window 0xE00020 8 v) s = exec (.readyWrite v) s) ∧
  (∀ s who reg high, s.sys.cxlUp = false → exec (.halfReadLatch who reg high) s = .next s) ∧
  ∀ s (who : Byte) (reg : HalfReg), s.sys.cxlUp = true →
    let w := match reg with
      | .timeNow => s.time.ns
      | .pwrDraw => pwrDrawWord s
    let mine (e : Nat × HalfReg × BitVec 32) : Prop := e.1 = who.toNat ∧ e.2.1 = reg
    (Answers (.halfReadLatch who reg false) s fun t =>
      t = { s with outbox := s.outbox ++ [.data (leBytes 4 w) false], rings := { s.rings with latched := t.rings.latched } } ∧
      ∀ e, e ∈ t.rings.latched ↔ (e ∈ s.rings.latched ∧ ¬mine e) ∨ e = (who.toNat, reg, BitVec.ofNat 32 (w / 2 ^ 32))) ∧
    Answers (.halfReadLatch who reg true) s fun t =>
      t = { s with outbox := t.outbox, rings := { s.rings with latched := t.rings.latched } } ∧
      (∀ e, e ∈ t.rings.latched ↔ e ∈ s.rings.latched ∧ ¬mine e) ∧
      ((∀ e ∈ s.rings.latched, ¬mine e) → t.outbox = s.outbox ++ [.data (leBytes 4 (w / 2 ^ 32)) false]) ∧
      (∀ v, (s.rings.latched.filter fun e => e.1 = who.toNat && e.2.1 = reg) = [(who.toNat, reg, v)] →
        t.outbox = s.outbox ++ [.data (leBytes 4 v.toNat) false])

/-- One step runs the command at the front of the queue on the state that holds the queue's rest; with an empty queue the reference ticks once,
10 ns on when no correction is in force (R540; rows 1 and 6 of the log). No word spells a command. Choices of the model, not rules: rows 1
and 4 of the assumption log. -/
def Obligations.StepRunsFront : Prop :=
  (∀ s c rest, s.pending = c :: rest → step s = exec c { s with pending := rest }) ∧
  (∀ s, s.pending = [] → ∃ t, step s = .next t ∧ t = { s with time := t.time } ∧ t.time.ticks = s.time.ticks + 1 ∧
    t.time.ns * 2 ^ 32 + t.time.frac = (s.time.ns * 2 ^ 32 + s.time.frac + tickStep s.time) % 2 ^ 96) ∧
  (∀ m : Time, m.c.num = 0 → tickStep m = 10 * 2 ^ 32) ∧
  (∀ m : Time, 0 < m.c.den → m.c.num.natAbs ≤ 50000 * m.c.den → 99995 * 2 ^ 32 ≤ 10000 * tickStep m + 10000 ∧ 10000 * tickStep m ≤ 100005 * 2 ^ 32) ∧
  ∀ (s : State) nbits w, decodeTableWord nbits w = none ∧ s.withFetchWord nbits w = s

/-- Every command that is well formed goes on, in every state; one that is not cannot reach the hardware, and stops by name. Choices of the
model, not rules: rows 11 and 12 of the assumption log. -/
def Obligations.EveryCommandGoesOn : Prop :=
  ∀ c s, (wf c = true → Completes (exec c s)) ∧ (wf c = false → exec c s = .fault .illFormed)

/-- Every command leaves the rest of the queue as it is, so the queue is first in, first out, and free values are taken in order; a queue of
well-formed commands runs to its end. Choices of the model, not rules: rows 1 and 6 of the assumption log. -/
def Obligations.QueueRunsInOrder : Prop :=
  (∀ s t, step s = .next t → t.pending = s.pending.tail ∧ s.fresh ≤ t.fresh) ∧
  ∀ s, wfAll s.pending = true → ∃ t, runs s.pending.length s = some t ∧ t.pending = []

/-- Every step keeps the canonical form of host memory, flash and module memory. Choices of the model, not rules: row 3 of the assumption log. -/
def Obligations.MemoriesStayCanonical : Prop := ∀ s t, Canonical s → step s = .next t → Canonical t

/-- R541: epoch time never steps backwards, short of the counter's wrap: a tick moves it on, a setting of the time of day moves it forwards, and
every other command, a correction among them, leaves the count as it is. A power-on starts it again (R540). -/
def Obligations.EpochNeverSteps : Prop :=
  (∀ s t, s.pending.head? ≠ some .powerOn → s.time.ns + (tickStep s.time + s.time.frac) / 2 ^ 32 < 2 ^ 64 →
    step s = .next t → s.time.ns ≤ t.time.ns) ∧
  ∀ c s t, exec c s = .next t → (∀ p, c ≠ .mgmtTimeOfDay p) → (∀ r idx, c ≠ .cmdTimeOfDay r idx) → c ≠ .powerOn →
    (c = .ppsEdge → s.time.tods = []) → t.time.ns = s.time.ns ∧ t.time.frac = s.time.frac

/-- R8, R28, R413, R432, R540, R551, R607, R613: what power-on and the deassertion of HOST_RST_N leave, so far as the spec gives it, with
memories in canonical form and an empty queue. Choices of the model, not rules: rows 2, 3, 4 and 5 of the assumption log. -/
def Obligations.ResetState : Prop :=
  let s := State.reset
  Canonical s ∧ s.pending = [] ∧ s.sys.ready = false ∧ s.sys.active = 96 ∧ s.time.ns = 0 ∧ s.time.state = 0 ∧ s.time.set = false ∧
  (∀ a, (s.alarm a).armed = false ∧ (s.alarm a).fired = false) ∧ (∀ r, (s.pair r).state = 0 ∧ (s.pair r).cfg = 0) ∧
  s.mgmt.state = 0 ∧ s.mgmt.done = false ∧ s.mgmt.sessions = [] ∧ s.halt.state = 0 ∧
  (∀ c, (s.chan c).locArr = (if c = 62 ∨ c = 63 then 1 else 0)) ∧ (∀ n, (s.sem n).value = 0) ∧
  (∀ m, (s.mover m).head = 0 ∧ (s.mover m).tail = 0 ∧ (s.mover m).errors.val = 0) ∧
  (∀ r : SeatRef, (s.seat r).mask = true ∧ (s.seat r).level = .m) ∧ pwrStatusWord s = 0 ∧ timeStatusWord s = 0 ∧ mgmtStatusWord s = 0 ∧
  (s.sys.posMap.filter fun b => b = 0xFE).length = 4 ∧ ∀ c < 96, posOf s c < 100
end

