-- ==== Sys2Proof/Laws/Map.lean ====
section
/-! SUPPORT. Laws of sparse maps: reading what was written, other keys, and the canonical form. -/

namespace Sys2Proof.Machine

variable {α : Type}

theorem mget_minsert_same (d : α) (m : List (Nat × α)) (k : Nat) (v : α) : mget d (minsert m k v) k = v := by
  fun_induction minsert m k v <;> grind [mget]

theorem mget_minsert_other (d : α) (m : List (Nat × α)) {k j : Nat} (v : α) (h : j ≠ k) :
    mget d (minsert m k v) j = mget d m j := by
  fun_induction minsert m k v <;> grind [mget]

theorem mget_merase (d : α) (m : List (Nat × α)) (k j : Nat) : mget d (merase m k) j = if j = k then d else mget d m j := by
  unfold merase
  induction m <;> grind [mget]

variable [DecidableEq α]

@[simp] theorem mget_mset_same (d : α) (m : List (Nat × α)) (k : Nat) (v : α) : mget d (mset d m k v) k = v := by
  unfold mset
  split
  · next h => simp [mget_merase, h]
  · exact mget_minsert_same d m k v

theorem mget_mset_other (d : α) (m : List (Nat × α)) {k j : Nat} (v : α) (h : j ≠ k) :
    mget d (mset d m k v) j = mget d m j := by
  unfold mset
  split
  · simp [mget_merase, h]
  · exact mget_minsert_other d m v h

theorem mget_mset (d : α) (m : List (Nat × α)) (k j : Nat) (v : α) :
    mget d (mset d m k v) j = if j = k then v else mget d m j := by
  split
  · next h => rw [h, mget_mset_same]
  · next h => exact mget_mset_other d m v h

@[simp] theorem mget_mupd_same (d : α) (m : List (Nat × α)) (k : Nat) (f : α → α) :
    mget d (mupd d m k f) k = f (mget d m k) := by simp [mupd]

theorem mget_mupd_other (d : α) (m : List (Nat × α)) {k j : Nat} (f : α → α) (h : j ≠ k) :
    mget d (mupd d m k f) j = mget d m j := mget_mset_other d m _ h

theorem mget_mupd (d : α) (m : List (Nat × α)) (k j : Nat) (f : α → α) :
    mget d (mupd d m k f) j = if j = k then f (mget d m k) else mget d m j := mget_mset d m k j _

-- the canonical form

omit [DecidableEq α] in
/-- What an insertion lists is the new entry or an old one of another key. -/
theorem mem_minsert {m : List (Nat × α)} {k : Nat} {v : α} {e : Nat × α} : e ∈ minsert m k v → e = (k, v) ∨ e ∈ m := by
  fun_induction minsert m k v <;> grind

omit [DecidableEq α] in
theorem minsert_sorted {m : List (Nat × α)} {k : Nat} {v : α} (h : m.Pairwise fun a b => a.1 < b.1) :
    (minsert m k v).Pairwise fun a b => a.1 < b.1 := by
  fun_induction minsert m k v <;> grind [→ mem_minsert, List.pairwise_cons]

theorem mset_wf {d : α} {m : List (Nat × α)} (k : Nat) (v : α) (h : mwf d m) : mwf d (mset d m k v) := by
  obtain ⟨h1, h2⟩ := h
  unfold mset
  split
  · exact ⟨List.Pairwise.sublist List.filter_sublist h1, fun e he => h2 e (List.mem_filter.mp he).1⟩
  · next hv =>
    refine ⟨minsert_sorted h1, fun e he => ?_⟩
    exact (mem_minsert he).elim (fun h => h ▸ hv) (h2 e)

theorem mupd_wf {d : α} {m : List (Nat × α)} (k : Nat) (f : α → α) (h : mwf d m) : mwf d (mupd d m k f) := mset_wf k _ h

-- many keys

theorem mget_mupdAll_other (d : α) (f : α → α) (ks : List Nat) (m : List (Nat × α)) {j : Nat} (h : j ∉ ks) :
    mget d (mupdAll d m ks f) j = mget d m j :=
  List.foldlRecOn (motive := fun t => mget d t j = mget d m j) ks _ rfl fun _ ht _ hk =>
    (mget_mupd_other d _ f (ne_of_mem_of_not_mem hk h).symm).trans ht

/-- Every key among those rewritten reads as a rewritten value. -/
theorem mget_mupdAll_mem (d : α) (f : α → α) (ks : List Nat) : ∀ (m : List (Nat × α)) {j : Nat}, j ∈ ks →
    ∃ x, mget d (mupdAll d m ks f) j = f x := by
  induction ks with
  | nil => exact fun _ _ h => by simp at h
  | cons k ks ih =>
    intro m j h
    by_cases hj : j ∈ ks
    · exact ih (mupd d m k f) hj
    · obtain rfl : j = k := (List.mem_cons.mp h).resolve_right hj
      exact ⟨mget d m j, (mget_mupdAll_other d f ks (mupd d m j f) hj).trans (mget_mupd_same d m j f)⟩

/-- Where no key stands twice, each is rewritten once. -/
theorem mget_mupdAll_nodup (d : α) (f : α → α) (ks : List Nat) : ∀ (m : List (Nat × α)) {j : Nat}, ks.Nodup → j ∈ ks →
    mget d (mupdAll d m ks f) j = f (mget d m j) := by
  induction ks with
  | nil => exact fun _ _ _ h => by simp at h
  | cons k ks ih =>
    intro m j hn h
    obtain ⟨h1, h2⟩ := List.nodup_cons.mp hn
    by_cases hj : j ∈ ks
    · have : j ≠ k := fun e => h1 (e ▸ hj)
      exact (ih (mupd d m k f) h2 hj).trans (congrArg f (mget_mupd_other d m f this))
    · obtain rfl : j = k := (List.mem_cons.mp h).resolve_right hj
      exact (mget_mupdAll_other d f ks (mupd d m j f) hj).trans (mget_mupd_same d m j f)

theorem mupdAll_wf {d : α} (f : α → α) (ks : List Nat) {m : List (Nat × α)} (h : mwf d m) : mwf d (mupdAll d m ks f) :=
  List.foldlRecOn (motive := mwf d) ks _ h fun _ ht k _ => mupd_wf k f ht

omit [DecidableEq α] in
theorem mget_unlisted (d : α) {m : List (Nat × α)} {j : Nat} (h : ∀ e ∈ m, e.1 ≠ j) : mget d m j = d := by
  fun_induction mget d m j <;> simp_all

/-- Every listed key reads as a rewritten value. -/
theorem mget_mupdEach_mem (d : α) (f : α → α) (m : List (Nat × α)) {e : Nat × α} (h : e ∈ m) :
    ∃ x, mget d (mupdEach d m f) e.1 = f x := mget_mupdAll_mem d f _ m (List.mem_map_of_mem h)

/-- An unlisted key reads as the default. -/
theorem mget_mupdEach_unlisted (d : α) (f : α → α) (m : List (Nat × α)) {j : Nat} (h : ∀ e ∈ m, e.1 ≠ j) :
    mget d (mupdEach d m f) j = d := by
  have : j ∉ m.map fun e => e.1 := fun hj => by
    obtain ⟨e, he, rfl⟩ := List.mem_map.mp hj
    exact h e he rfl
  exact (mget_mupdAll_other d f _ m this).trans (mget_unlisted d h)

/-- What every rewritten value and the default have, every key has. -/
theorem mget_mupdEach_all {P : α → Prop} (d : α) (f : α → α) (m : List (Nat × α)) (hf : ∀ x, P (f x)) (hd : P d) (j : Nat) :
    P (mget d (mupdEach d m f) j) := by
  by_cases h : ∃ e ∈ m, e.1 = j
  · obtain ⟨e, he, rfl⟩ := h
    obtain ⟨x, hx⟩ := mget_mupdEach_mem d f m he
    rw [hx]; exact hf x
  · rw [mget_mupdEach_unlisted d f m fun e he hj => h ⟨e, he, hj⟩]; exact hd

theorem mupdEach_wf {d : α} {m : List (Nat × α)} (f : α → α) (h : mwf d m) : mwf d (mupdEach d m f) := mupdAll_wf f _ h

/-- In a canonical table every key is rewritten once; the default of an unlisted one stays. -/
theorem mget_mupdEach {d : α} {m : List (Nat × α)} (f : α → α) (h : mwf d m) (hd : f d = d) (j : Nat) :
    mget d (mupdEach d m f) j = f (mget d m j) := by
  by_cases hj : ∃ e ∈ m, e.1 = j
  · obtain ⟨e, he, rfl⟩ := hj
    refine mget_mupdAll_nodup d f _ m ?_ (List.mem_map_of_mem he)
    exact (List.pairwise_map.mpr h.1).imp fun hab => Nat.ne_of_lt hab
  · have hj' : ∀ e ∈ m, e.1 ≠ j := fun e he hk => hj ⟨e, he, hk⟩
    rw [mget_mupdEach_unlisted d f m hj', mget_unlisted d hj', hd]

end Sys2Proof.Machine
end

