-- ==== Sys2Proof/Laws/Memory.lean ====
section
/-! SUPPORT. Laws of byte memories: every memory operation keeps the canonical form; what is written is read back. -/

namespace Sys2Proof.Machine

theorem putCells_wf {m : List Host.Cell} (a n v : Nat) (h : Memory.wf m) : Memory.wf (putCells m a n v) :=
  List.foldlRecOn (motive := Memory.wf) _ _ h fun _ ht _ _ => mset_wf _ _ ht

theorem putBytes_wf (bs : List Byte) {m : List Host.Cell} (a : Nat) (h : Memory.wf m) : Memory.wf (putBytes m a bs) := by
  fun_induction putBytes m a bs with
  | case1 => exact h
  | case2 _ _ _ _ ih => exact ih (mset_wf _ _ h)

/-- A byte outside the written ones reads as before. -/
theorem putBytes_other (bs : List Byte) (m : List Host.Cell) (a x : Nat) (h : x < a ∨ a + bs.length ≤ x) :
    mget 0 (putBytes m a bs) x = mget 0 m x := by
  fun_induction putBytes m a bs with
  | case1 => rfl
  | case2 _ _ _ _ ih =>
    rw [List.length_cons] at h
    rw [ih (by omega), mget_mset_other _ _ _ (by omega)]

theorem storeCw_wf {s : State} (cw : Nat) (d : BitVec 256) (rel : BitVec 32) (h : Memory.wf s.mem.cells) :
    Memory.wf (storeCw s cw d rel).mem.cells := putCells_wf _ _ _ h

theorem drainPc_wf {s : State} (pc keep : Nat) (h : Memory.wf s.mem.cells) : Memory.wf (drainPc s pc keep).mem.cells :=
  List.foldlRecOn (motive := fun t : State => Memory.wf t.mem.cells) _ _ (by exact h) fun _ ht e _ => storeCw_wf e.cw e.data e.rel ht

theorem pageWritten_cells (s : State) (cw : Nat) : (pageWritten s cw).mem.cells = s.mem.cells := by
  unfold pageWritten
  dsimp only
  repeat' split
  all_goals rfl

theorem memWriteCw_wf {s : State} (cw : Nat) (d : BitVec 256) (rel : BitVec 32) (h : Memory.wf s.mem.cells) :
    Memory.wf (memWriteCw s cw d rel).mem.cells := by
  unfold memWriteCw
  split
  · exact h
  · dsimp only
    rw [pageWritten_cells]
    split
    · exact drainPc_wf _ _ h
    · exact h

theorem memWriteSeg_wf {s : State} (cw : Nat) (g : Seg) (h : Memory.wf s.mem.cells) :
    Memory.wf (memWriteSeg s cw g).mem.cells := memWriteCw_wf _ _ _ h

end Sys2Proof.Machine
end

