-- ==== Sys2Proof/Laws/State.lean ====
section
/-! SUPPORT. What each update of State leaves unchanged, and what a read of the updated part returns. -/

namespace Sys2Proof.Machine

@[simp] theorem updCoach_pending (s : State) (c : Nat) (f : Coach → Coach) : (s.updCoach c f).pending = s.pending := rfl
@[simp] theorem updCoach_fresh (s : State) (c : Nat) (f : Coach → Coach) : (s.updCoach c f).fresh = s.fresh := rfl
@[simp] theorem updCoach_sys (s : State) (c : Nat) (f : Coach → Coach) : (s.updCoach c f).sys = s.sys := rfl
@[simp] theorem updCoach_llc (s : State) (c : Nat) (f : Coach → Coach) : (s.updCoach c f).llc = s.llc := rfl
@[simp] theorem updCoach_mem (s : State) (c : Nat) (f : Coach → Coach) : (s.updCoach c f).mem = s.mem := rfl
@[simp] theorem updCoach_hostMem (s : State) (c : Nat) (f : Coach → Coach) : (s.updCoach c f).hostMem = s.hostMem := rfl
@[simp] theorem updCoach_flash (s : State) (c : Nat) (f : Coach → Coach) : (s.updCoach c f).flash = s.flash := rfl
@[simp] theorem updCoach_movers (s : State) (c : Nat) (f : Coach → Coach) : (s.updCoach c f).movers = s.movers := rfl
@[simp] theorem updCoach_engines (s : State) (c : Nat) (f : Coach → Coach) : (s.updCoach c f).engines = s.engines := rfl
@[simp] theorem updCoach_ports (s : State) (c : Nat) (f : Coach → Coach) : (s.updCoach c f).ports = s.ports := rfl
@[simp] theorem updCoach_flows (s : State) (c : Nat) (f : Coach → Coach) : (s.updCoach c f).flows = s.flows := rfl
@[simp] theorem updCoach_arrivals (s : State) (c : Nat) (f : Coach → Coach) : (s.updCoach c f).arrivals = s.arrivals := rfl
@[simp] theorem updCoach_early (s : State) (c : Nat) (f : Coach → Coach) : (s.updCoach c f).early = s.early := rfl
@[simp] theorem updCoach_colls (s : State) (c : Nat) (f : Coach → Coach) : (s.updCoach c f).colls = s.colls := rfl
@[simp] theorem updCoach_chans (s : State) (c : Nat) (f : Coach → Coach) : (s.updCoach c f).chans = s.chans := rfl
@[simp] theorem updCoach_sems (s : State) (c : Nat) (f : Coach → Coach) : (s.updCoach c f).sems = s.sems := rfl
@[simp] theorem updCoach_halt (s : State) (c : Nat) (f : Coach → Coach) : (s.updCoach c f).halt = s.halt := rfl
@[simp] theorem updCoach_watch (s : State) (c : Nat) (f : Coach → Coach) : (s.updCoach c f).watch = s.watch := rfl
@[simp] theorem updCoach_tender (s : State) (c : Nat) (f : Coach → Coach) : (s.updCoach c f).tender = s.tender := rfl
@[simp] theorem updCoach_ledger (s : State) (c : Nat) (f : Coach → Coach) : (s.updCoach c f).ledger = s.ledger := rfl
@[simp] theorem updCoach_way (s : State) (c : Nat) (f : Coach → Coach) : (s.updCoach c f).way = s.way := rfl
@[simp] theorem updCoach_rings (s : State) (c : Nat) (f : Coach → Coach) : (s.updCoach c f).rings = s.rings := rfl
@[simp] theorem updCoach_time (s : State) (c : Nat) (f : Coach → Coach) : (s.updCoach c f).time = s.time := rfl
@[simp] theorem updCoach_power (s : State) (c : Nat) (f : Coach → Coach) : (s.updCoach c f).power = s.power := rfl
@[simp] theorem updCoach_mgmt (s : State) (c : Nat) (f : Coach → Coach) : (s.updCoach c f).mgmt = s.mgmt := rfl
@[simp] theorem updCoach_outbox (s : State) (c : Nat) (f : Coach → Coach) : (s.updCoach c f).outbox = s.outbox := rfl

@[simp] theorem updSeat_pending (s : State) (r : SeatRef) (f : Seat → Seat) : (s.updSeat r f).pending = s.pending := rfl
@[simp] theorem updSeat_fresh (s : State) (r : SeatRef) (f : Seat → Seat) : (s.updSeat r f).fresh = s.fresh := rfl
@[simp] theorem updSeat_sys (s : State) (r : SeatRef) (f : Seat → Seat) : (s.updSeat r f).sys = s.sys := rfl
@[simp] theorem updSeat_llc (s : State) (r : SeatRef) (f : Seat → Seat) : (s.updSeat r f).llc = s.llc := rfl
@[simp] theorem updSeat_mem (s : State) (r : SeatRef) (f : Seat → Seat) : (s.updSeat r f).mem = s.mem := rfl
@[simp] theorem updSeat_hostMem (s : State) (r : SeatRef) (f : Seat → Seat) : (s.updSeat r f).hostMem = s.hostMem := rfl
@[simp] theorem updSeat_flash (s : State) (r : SeatRef) (f : Seat → Seat) : (s.updSeat r f).flash = s.flash := rfl
@[simp] theorem updSeat_movers (s : State) (r : SeatRef) (f : Seat → Seat) : (s.updSeat r f).movers = s.movers := rfl
@[simp] theorem updSeat_engines (s : State) (r : SeatRef) (f : Seat → Seat) : (s.updSeat r f).engines = s.engines := rfl
@[simp] theorem updSeat_ports (s : State) (r : SeatRef) (f : Seat → Seat) : (s.updSeat r f).ports = s.ports := rfl
@[simp] theorem updSeat_flows (s : State) (r : SeatRef) (f : Seat → Seat) : (s.updSeat r f).flows = s.flows := rfl
@[simp] theorem updSeat_arrivals (s : State) (r : SeatRef) (f : Seat → Seat) : (s.updSeat r f).arrivals = s.arrivals := rfl
@[simp] theorem updSeat_early (s : State) (r : SeatRef) (f : Seat → Seat) : (s.updSeat r f).early = s.early := rfl
@[simp] theorem updSeat_colls (s : State) (r : SeatRef) (f : Seat → Seat) : (s.updSeat r f).colls = s.colls := rfl
@[simp] theorem updSeat_chans (s : State) (r : SeatRef) (f : Seat → Seat) : (s.updSeat r f).chans = s.chans := rfl
@[simp] theorem updSeat_sems (s : State) (r : SeatRef) (f : Seat → Seat) : (s.updSeat r f).sems = s.sems := rfl
@[simp] theorem updSeat_halt (s : State) (r : SeatRef) (f : Seat → Seat) : (s.updSeat r f).halt = s.halt := rfl
@[simp] theorem updSeat_watch (s : State) (r : SeatRef) (f : Seat → Seat) : (s.updSeat r f).watch = s.watch := rfl
@[simp] theorem updSeat_tender (s : State) (r : SeatRef) (f : Seat → Seat) : (s.updSeat r f).tender = s.tender := rfl
@[simp] theorem updSeat_ledger (s : State) (r : SeatRef) (f : Seat → Seat) : (s.updSeat r f).ledger = s.ledger := rfl
@[simp] theorem updSeat_way (s : State) (r : SeatRef) (f : Seat → Seat) : (s.updSeat r f).way = s.way := rfl
@[simp] theorem updSeat_rings (s : State) (r : SeatRef) (f : Seat → Seat) : (s.updSeat r f).rings = s.rings := rfl
@[simp] theorem updSeat_time (s : State) (r : SeatRef) (f : Seat → Seat) : (s.updSeat r f).time = s.time := rfl
@[simp] theorem updSeat_power (s : State) (r : SeatRef) (f : Seat → Seat) : (s.updSeat r f).power = s.power := rfl
@[simp] theorem updSeat_mgmt (s : State) (r : SeatRef) (f : Seat → Seat) : (s.updSeat r f).mgmt = s.mgmt := rfl
@[simp] theorem updSeat_outbox (s : State) (r : SeatRef) (f : Seat → Seat) : (s.updSeat r f).outbox = s.outbox := rfl

@[simp] theorem updMover_pending (s : State) (k : Nat) (f : Mover → Mover) : (s.updMover k f).pending = s.pending := rfl
@[simp] theorem updMover_fresh (s : State) (k : Nat) (f : Mover → Mover) : (s.updMover k f).fresh = s.fresh := rfl
@[simp] theorem updMover_sys (s : State) (k : Nat) (f : Mover → Mover) : (s.updMover k f).sys = s.sys := rfl
@[simp] theorem updMover_coaches (s : State) (k : Nat) (f : Mover → Mover) : (s.updMover k f).coaches = s.coaches := rfl
@[simp] theorem updMover_llc (s : State) (k : Nat) (f : Mover → Mover) : (s.updMover k f).llc = s.llc := rfl
@[simp] theorem updMover_mem (s : State) (k : Nat) (f : Mover → Mover) : (s.updMover k f).mem = s.mem := rfl
@[simp] theorem updMover_hostMem (s : State) (k : Nat) (f : Mover → Mover) : (s.updMover k f).hostMem = s.hostMem := rfl
@[simp] theorem updMover_flash (s : State) (k : Nat) (f : Mover → Mover) : (s.updMover k f).flash = s.flash := rfl
@[simp] theorem updMover_engines (s : State) (k : Nat) (f : Mover → Mover) : (s.updMover k f).engines = s.engines := rfl
@[simp] theorem updMover_ports (s : State) (k : Nat) (f : Mover → Mover) : (s.updMover k f).ports = s.ports := rfl
@[simp] theorem updMover_flows (s : State) (k : Nat) (f : Mover → Mover) : (s.updMover k f).flows = s.flows := rfl
@[simp] theorem updMover_arrivals (s : State) (k : Nat) (f : Mover → Mover) : (s.updMover k f).arrivals = s.arrivals := rfl
@[simp] theorem updMover_early (s : State) (k : Nat) (f : Mover → Mover) : (s.updMover k f).early = s.early := rfl
@[simp] theorem updMover_colls (s : State) (k : Nat) (f : Mover → Mover) : (s.updMover k f).colls = s.colls := rfl
@[simp] theorem updMover_chans (s : State) (k : Nat) (f : Mover → Mover) : (s.updMover k f).chans = s.chans := rfl
@[simp] theorem updMover_sems (s : State) (k : Nat) (f : Mover → Mover) : (s.updMover k f).sems = s.sems := rfl
@[simp] theorem updMover_halt (s : State) (k : Nat) (f : Mover → Mover) : (s.updMover k f).halt = s.halt := rfl
@[simp] theorem updMover_watch (s : State) (k : Nat) (f : Mover → Mover) : (s.updMover k f).watch = s.watch := rfl
@[simp] theorem updMover_tender (s : State) (k : Nat) (f : Mover → Mover) : (s.updMover k f).tender = s.tender := rfl
@[simp] theorem updMover_ledger (s : State) (k : Nat) (f : Mover → Mover) : (s.updMover k f).ledger = s.ledger := rfl
@[simp] theorem updMover_way (s : State) (k : Nat) (f : Mover → Mover) : (s.updMover k f).way = s.way := rfl
@[simp] theorem updMover_rings (s : State) (k : Nat) (f : Mover → Mover) : (s.updMover k f).rings = s.rings := rfl
@[simp] theorem updMover_time (s : State) (k : Nat) (f : Mover → Mover) : (s.updMover k f).time = s.time := rfl
@[simp] theorem updMover_power (s : State) (k : Nat) (f : Mover → Mover) : (s.updMover k f).power = s.power := rfl
@[simp] theorem updMover_mgmt (s : State) (k : Nat) (f : Mover → Mover) : (s.updMover k f).mgmt = s.mgmt := rfl
@[simp] theorem updMover_outbox (s : State) (k : Nat) (f : Mover → Mover) : (s.updMover k f).outbox = s.outbox := rfl

@[simp] theorem updEngine_pending (s : State) (k : Nat) (f : Engine → Engine) : (s.updEngine k f).pending = s.pending := rfl
@[simp] theorem updEngine_fresh (s : State) (k : Nat) (f : Engine → Engine) : (s.updEngine k f).fresh = s.fresh := rfl
@[simp] theorem updEngine_sys (s : State) (k : Nat) (f : Engine → Engine) : (s.updEngine k f).sys = s.sys := rfl
@[simp] theorem updEngine_coaches (s : State) (k : Nat) (f : Engine → Engine) : (s.updEngine k f).coaches = s.coaches := rfl
@[simp] theorem updEngine_llc (s : State) (k : Nat) (f : Engine → Engine) : (s.updEngine k f).llc = s.llc := rfl
@[simp] theorem updEngine_mem (s : State) (k : Nat) (f : Engine → Engine) : (s.updEngine k f).mem = s.mem := rfl
@[simp] theorem updEngine_hostMem (s : State) (k : Nat) (f : Engine → Engine) : (s.updEngine k f).hostMem = s.hostMem := rfl
@[simp] theorem updEngine_flash (s : State) (k : Nat) (f : Engine → Engine) : (s.updEngine k f).flash = s.flash := rfl
@[simp] theorem updEngine_movers (s : State) (k : Nat) (f : Engine → Engine) : (s.updEngine k f).movers = s.movers := rfl
@[simp] theorem updEngine_ports (s : State) (k : Nat) (f : Engine → Engine) : (s.updEngine k f).ports = s.ports := rfl
@[simp] theorem updEngine_flows (s : State) (k : Nat) (f : Engine → Engine) : (s.updEngine k f).flows = s.flows := rfl
@[simp] theorem updEngine_arrivals (s : State) (k : Nat) (f : Engine → Engine) : (s.updEngine k f).arrivals = s.arrivals := rfl
@[simp] theorem updEngine_early (s : State) (k : Nat) (f : Engine → Engine) : (s.updEngine k f).early = s.early := rfl
@[simp] theorem updEngine_colls (s : State) (k : Nat) (f : Engine → Engine) : (s.updEngine k f).colls = s.colls := rfl
@[simp] theorem updEngine_chans (s : State) (k : Nat) (f : Engine → Engine) : (s.updEngine k f).chans = s.chans := rfl
@[simp] theorem updEngine_sems (s : State) (k : Nat) (f : Engine → Engine) : (s.updEngine k f).sems = s.sems := rfl
@[simp] theorem updEngine_halt (s : State) (k : Nat) (f : Engine → Engine) : (s.updEngine k f).halt = s.halt := rfl
@[simp] theorem updEngine_watch (s : State) (k : Nat) (f : Engine → Engine) : (s.updEngine k f).watch = s.watch := rfl
@[simp] theorem updEngine_tender (s : State) (k : Nat) (f : Engine → Engine) : (s.updEngine k f).tender = s.tender := rfl
@[simp] theorem updEngine_ledger (s : State) (k : Nat) (f : Engine → Engine) : (s.updEngine k f).ledger = s.ledger := rfl
@[simp] theorem updEngine_way (s : State) (k : Nat) (f : Engine → Engine) : (s.updEngine k f).way = s.way := rfl
@[simp] theorem updEngine_rings (s : State) (k : Nat) (f : Engine → Engine) : (s.updEngine k f).rings = s.rings := rfl
@[simp] theorem updEngine_time (s : State) (k : Nat) (f : Engine → Engine) : (s.updEngine k f).time = s.time := rfl
@[simp] theorem updEngine_power (s : State) (k : Nat) (f : Engine → Engine) : (s.updEngine k f).power = s.power := rfl
@[simp] theorem updEngine_mgmt (s : State) (k : Nat) (f : Engine → Engine) : (s.updEngine k f).mgmt = s.mgmt := rfl
@[simp] theorem updEngine_outbox (s : State) (k : Nat) (f : Engine → Engine) : (s.updEngine k f).outbox = s.outbox := rfl

@[simp] theorem updPort_pending (s : State) (k : Nat) (f : PortState → PortState) : (s.updPort k f).pending = s.pending := rfl
@[simp] theorem updPort_fresh (s : State) (k : Nat) (f : PortState → PortState) : (s.updPort k f).fresh = s.fresh := rfl
@[simp] theorem updPort_sys (s : State) (k : Nat) (f : PortState → PortState) : (s.updPort k f).sys = s.sys := rfl
@[simp] theorem updPort_coaches (s : State) (k : Nat) (f : PortState → PortState) : (s.updPort k f).coaches = s.coaches := rfl
@[simp] theorem updPort_llc (s : State) (k : Nat) (f : PortState → PortState) : (s.updPort k f).llc = s.llc := rfl
@[simp] theorem updPort_mem (s : State) (k : Nat) (f : PortState → PortState) : (s.updPort k f).mem = s.mem := rfl
@[simp] theorem updPort_hostMem (s : State) (k : Nat) (f : PortState → PortState) : (s.updPort k f).hostMem = s.hostMem := rfl
@[simp] theorem updPort_flash (s : State) (k : Nat) (f : PortState → PortState) : (s.updPort k f).flash = s.flash := rfl
@[simp] theorem updPort_movers (s : State) (k : Nat) (f : PortState → PortState) : (s.updPort k f).movers = s.movers := rfl
@[simp] theorem updPort_engines (s : State) (k : Nat) (f : PortState → PortState) : (s.updPort k f).engines = s.engines := rfl
@[simp] theorem updPort_flows (s : State) (k : Nat) (f : PortState → PortState) : (s.updPort k f).flows = s.flows := rfl
@[simp] theorem updPort_arrivals (s : State) (k : Nat) (f : PortState → PortState) : (s.updPort k f).arrivals = s.arrivals := rfl
@[simp] theorem updPort_early (s : State) (k : Nat) (f : PortState → PortState) : (s.updPort k f).early = s.early := rfl
@[simp] theorem updPort_colls (s : State) (k : Nat) (f : PortState → PortState) : (s.updPort k f).colls = s.colls := rfl
@[simp] theorem updPort_chans (s : State) (k : Nat) (f : PortState → PortState) : (s.updPort k f).chans = s.chans := rfl
@[simp] theorem updPort_sems (s : State) (k : Nat) (f : PortState → PortState) : (s.updPort k f).sems = s.sems := rfl
@[simp] theorem updPort_halt (s : State) (k : Nat) (f : PortState → PortState) : (s.updPort k f).halt = s.halt := rfl
@[simp] theorem updPort_watch (s : State) (k : Nat) (f : PortState → PortState) : (s.updPort k f).watch = s.watch := rfl
@[simp] theorem updPort_tender (s : State) (k : Nat) (f : PortState → PortState) : (s.updPort k f).tender = s.tender := rfl
@[simp] theorem updPort_ledger (s : State) (k : Nat) (f : PortState → PortState) : (s.updPort k f).ledger = s.ledger := rfl
@[simp] theorem updPort_way (s : State) (k : Nat) (f : PortState → PortState) : (s.updPort k f).way = s.way := rfl
@[simp] theorem updPort_rings (s : State) (k : Nat) (f : PortState → PortState) : (s.updPort k f).rings = s.rings := rfl
@[simp] theorem updPort_time (s : State) (k : Nat) (f : PortState → PortState) : (s.updPort k f).time = s.time := rfl
@[simp] theorem updPort_power (s : State) (k : Nat) (f : PortState → PortState) : (s.updPort k f).power = s.power := rfl
@[simp] theorem updPort_mgmt (s : State) (k : Nat) (f : PortState → PortState) : (s.updPort k f).mgmt = s.mgmt := rfl
@[simp] theorem updPort_outbox (s : State) (k : Nat) (f : PortState → PortState) : (s.updPort k f).outbox = s.outbox := rfl

@[simp] theorem updFlow_pending (s : State) (k : Nat) (f : Flow → Flow) : (s.updFlow k f).pending = s.pending := rfl
@[simp] theorem updFlow_fresh (s : State) (k : Nat) (f : Flow → Flow) : (s.updFlow k f).fresh = s.fresh := rfl
@[simp] theorem updFlow_sys (s : State) (k : Nat) (f : Flow → Flow) : (s.updFlow k f).sys = s.sys := rfl
@[simp] theorem updFlow_coaches (s : State) (k : Nat) (f : Flow → Flow) : (s.updFlow k f).coaches = s.coaches := rfl
@[simp] theorem updFlow_llc (s : State) (k : Nat) (f : Flow → Flow) : (s.updFlow k f).llc = s.llc := rfl
@[simp] theorem updFlow_mem (s : State) (k : Nat) (f : Flow → Flow) : (s.updFlow k f).mem = s.mem := rfl
@[simp] theorem updFlow_hostMem (s : State) (k : Nat) (f : Flow → Flow) : (s.updFlow k f).hostMem = s.hostMem := rfl
@[simp] theorem updFlow_flash (s : State) (k : Nat) (f : Flow → Flow) : (s.updFlow k f).flash = s.flash := rfl
@[simp] theorem updFlow_movers (s : State) (k : Nat) (f : Flow → Flow) : (s.updFlow k f).movers = s.movers := rfl
@[simp] theorem updFlow_engines (s : State) (k : Nat) (f : Flow → Flow) : (s.updFlow k f).engines = s.engines := rfl
@[simp] theorem updFlow_ports (s : State) (k : Nat) (f : Flow → Flow) : (s.updFlow k f).ports = s.ports := rfl
@[simp] theorem updFlow_arrivals (s : State) (k : Nat) (f : Flow → Flow) : (s.updFlow k f).arrivals = s.arrivals := rfl
@[simp] theorem updFlow_early (s : State) (k : Nat) (f : Flow → Flow) : (s.updFlow k f).early = s.early := rfl
@[simp] theorem updFlow_colls (s : State) (k : Nat) (f : Flow → Flow) : (s.updFlow k f).colls = s.colls := rfl
@[simp] theorem updFlow_chans (s : State) (k : Nat) (f : Flow → Flow) : (s.updFlow k f).chans = s.chans := rfl
@[simp] theorem updFlow_sems (s : State) (k : Nat) (f : Flow → Flow) : (s.updFlow k f).sems = s.sems := rfl
@[simp] theorem updFlow_halt (s : State) (k : Nat) (f : Flow → Flow) : (s.updFlow k f).halt = s.halt := rfl
@[simp] theorem updFlow_watch (s : State) (k : Nat) (f : Flow → Flow) : (s.updFlow k f).watch = s.watch := rfl
@[simp] theorem updFlow_tender (s : State) (k : Nat) (f : Flow → Flow) : (s.updFlow k f).tender = s.tender := rfl
@[simp] theorem updFlow_ledger (s : State) (k : Nat) (f : Flow → Flow) : (s.updFlow k f).ledger = s.ledger := rfl
@[simp] theorem updFlow_way (s : State) (k : Nat) (f : Flow → Flow) : (s.updFlow k f).way = s.way := rfl
@[simp] theorem updFlow_rings (s : State) (k : Nat) (f : Flow → Flow) : (s.updFlow k f).rings = s.rings := rfl
@[simp] theorem updFlow_time (s : State) (k : Nat) (f : Flow → Flow) : (s.updFlow k f).time = s.time := rfl
@[simp] theorem updFlow_power (s : State) (k : Nat) (f : Flow → Flow) : (s.updFlow k f).power = s.power := rfl
@[simp] theorem updFlow_mgmt (s : State) (k : Nat) (f : Flow → Flow) : (s.updFlow k f).mgmt = s.mgmt := rfl
@[simp] theorem updFlow_outbox (s : State) (k : Nat) (f : Flow → Flow) : (s.updFlow k f).outbox = s.outbox := rfl

@[simp] theorem updColl_pending (s : State) (k : Nat) (f : CollQ → CollQ) : (s.updColl k f).pending = s.pending := rfl
@[simp] theorem updColl_fresh (s : State) (k : Nat) (f : CollQ → CollQ) : (s.updColl k f).fresh = s.fresh := rfl
@[simp] theorem updColl_sys (s : State) (k : Nat) (f : CollQ → CollQ) : (s.updColl k f).sys = s.sys := rfl
@[simp] theorem updColl_coaches (s : State) (k : Nat) (f : CollQ → CollQ) : (s.updColl k f).coaches = s.coaches := rfl
@[simp] theorem updColl_llc (s : State) (k : Nat) (f : CollQ → CollQ) : (s.updColl k f).llc = s.llc := rfl
@[simp] theorem updColl_mem (s : State) (k : Nat) (f : CollQ → CollQ) : (s.updColl k f).mem = s.mem := rfl
@[simp] theorem updColl_hostMem (s : State) (k : Nat) (f : CollQ → CollQ) : (s.updColl k f).hostMem = s.hostMem := rfl
@[simp] theorem updColl_flash (s : State) (k : Nat) (f : CollQ → CollQ) : (s.updColl k f).flash = s.flash := rfl
@[simp] theorem updColl_movers (s : State) (k : Nat) (f : CollQ → CollQ) : (s.updColl k f).movers = s.movers := rfl
@[simp] theorem updColl_engines (s : State) (k : Nat) (f : CollQ → CollQ) : (s.updColl k f).engines = s.engines := rfl
@[simp] theorem updColl_ports (s : State) (k : Nat) (f : CollQ → CollQ) : (s.updColl k f).ports = s.ports := rfl
@[simp] theorem updColl_flows (s : State) (k : Nat) (f : CollQ → CollQ) : (s.updColl k f).flows = s.flows := rfl
@[simp] theorem updColl_arrivals (s : State) (k : Nat) (f : CollQ → CollQ) : (s.updColl k f).arrivals = s.arrivals := rfl
@[simp] theorem updColl_early (s : State) (k : Nat) (f : CollQ → CollQ) : (s.updColl k f).early = s.early := rfl
@[simp] theorem updColl_chans (s : State) (k : Nat) (f : CollQ → CollQ) : (s.updColl k f).chans = s.chans := rfl
@[simp] theorem updColl_sems (s : State) (k : Nat) (f : CollQ → CollQ) : (s.updColl k f).sems = s.sems := rfl
@[simp] theorem updColl_halt (s : State) (k : Nat) (f : CollQ → CollQ) : (s.updColl k f).halt = s.halt := rfl
@[simp] theorem updColl_watch (s : State) (k : Nat) (f : CollQ → CollQ) : (s.updColl k f).watch = s.watch := rfl
@[simp] theorem updColl_tender (s : State) (k : Nat) (f : CollQ → CollQ) : (s.updColl k f).tender = s.tender := rfl
@[simp] theorem updColl_ledger (s : State) (k : Nat) (f : CollQ → CollQ) : (s.updColl k f).ledger = s.ledger := rfl
@[simp] theorem updColl_way (s : State) (k : Nat) (f : CollQ → CollQ) : (s.updColl k f).way = s.way := rfl
@[simp] theorem updColl_rings (s : State) (k : Nat) (f : CollQ → CollQ) : (s.updColl k f).rings = s.rings := rfl
@[simp] theorem updColl_time (s : State) (k : Nat) (f : CollQ → CollQ) : (s.updColl k f).time = s.time := rfl
@[simp] theorem updColl_power (s : State) (k : Nat) (f : CollQ → CollQ) : (s.updColl k f).power = s.power := rfl
@[simp] theorem updColl_mgmt (s : State) (k : Nat) (f : CollQ → CollQ) : (s.updColl k f).mgmt = s.mgmt := rfl
@[simp] theorem updColl_outbox (s : State) (k : Nat) (f : CollQ → CollQ) : (s.updColl k f).outbox = s.outbox := rfl

@[simp] theorem updChan_pending (s : State) (k : Nat) (f : Channel → Channel) : (s.updChan k f).pending = s.pending := rfl
@[simp] theorem updChan_fresh (s : State) (k : Nat) (f : Channel → Channel) : (s.updChan k f).fresh = s.fresh := rfl
@[simp] theorem updChan_sys (s : State) (k : Nat) (f : Channel → Channel) : (s.updChan k f).sys = s.sys := rfl
@[simp] theorem updChan_coaches (s : State) (k : Nat) (f : Channel → Channel) : (s.updChan k f).coaches = s.coaches := rfl
@[simp] theorem updChan_llc (s : State) (k : Nat) (f : Channel → Channel) : (s.updChan k f).llc = s.llc := rfl
@[simp] theorem updChan_mem (s : State) (k : Nat) (f : Channel → Channel) : (s.updChan k f).mem = s.mem := rfl
@[simp] theorem updChan_hostMem (s : State) (k : Nat) (f : Channel → Channel) : (s.updChan k f).hostMem = s.hostMem := rfl
@[simp] theorem updChan_flash (s : State) (k : Nat) (f : Channel → Channel) : (s.updChan k f).flash = s.flash := rfl
@[simp] theorem updChan_movers (s : State) (k : Nat) (f : Channel → Channel) : (s.updChan k f).movers = s.movers := rfl
@[simp] theorem updChan_engines (s : State) (k : Nat) (f : Channel → Channel) : (s.updChan k f).engines = s.engines := rfl
@[simp] theorem updChan_ports (s : State) (k : Nat) (f : Channel → Channel) : (s.updChan k f).ports = s.ports := rfl
@[simp] theorem updChan_flows (s : State) (k : Nat) (f : Channel → Channel) : (s.updChan k f).flows = s.flows := rfl
@[simp] theorem updChan_arrivals (s : State) (k : Nat) (f : Channel → Channel) : (s.updChan k f).arrivals = s.arrivals := rfl
@[simp] theorem updChan_early (s : State) (k : Nat) (f : Channel → Channel) : (s.updChan k f).early = s.early := rfl
@[simp] theorem updChan_colls (s : State) (k : Nat) (f : Channel → Channel) : (s.updChan k f).colls = s.colls := rfl
@[simp] theorem updChan_sems (s : State) (k : Nat) (f : Channel → Channel) : (s.updChan k f).sems = s.sems := rfl
@[simp] theorem updChan_halt (s : State) (k : Nat) (f : Channel → Channel) : (s.updChan k f).halt = s.halt := rfl
@[simp] theorem updChan_watch (s : State) (k : Nat) (f : Channel → Channel) : (s.updChan k f).watch = s.watch := rfl
@[simp] theorem updChan_tender (s : State) (k : Nat) (f : Channel → Channel) : (s.updChan k f).tender = s.tender := rfl
@[simp] theorem updChan_ledger (s : State) (k : Nat) (f : Channel → Channel) : (s.updChan k f).ledger = s.ledger := rfl
@[simp] theorem updChan_way (s : State) (k : Nat) (f : Channel → Channel) : (s.updChan k f).way = s.way := rfl
@[simp] theorem updChan_rings (s : State) (k : Nat) (f : Channel → Channel) : (s.updChan k f).rings = s.rings := rfl
@[simp] theorem updChan_time (s : State) (k : Nat) (f : Channel → Channel) : (s.updChan k f).time = s.time := rfl
@[simp] theorem updChan_power (s : State) (k : Nat) (f : Channel → Channel) : (s.updChan k f).power = s.power := rfl
@[simp] theorem updChan_mgmt (s : State) (k : Nat) (f : Channel → Channel) : (s.updChan k f).mgmt = s.mgmt := rfl
@[simp] theorem updChan_outbox (s : State) (k : Nat) (f : Channel → Channel) : (s.updChan k f).outbox = s.outbox := rfl

@[simp] theorem updSem_pending (s : State) (k : Nat) (f : Sem → Sem) : (s.updSem k f).pending = s.pending := rfl
@[simp] theorem updSem_fresh (s : State) (k : Nat) (f : Sem → Sem) : (s.updSem k f).fresh = s.fresh := rfl
@[simp] theorem updSem_sys (s : State) (k : Nat) (f : Sem → Sem) : (s.updSem k f).sys = s.sys := rfl
@[simp] theorem updSem_coaches (s : State) (k : Nat) (f : Sem → Sem) : (s.updSem k f).coaches = s.coaches := rfl
@[simp] theorem updSem_llc (s : State) (k : Nat) (f : Sem → Sem) : (s.updSem k f).llc = s.llc := rfl
@[simp] theorem updSem_mem (s : State) (k : Nat) (f : Sem → Sem) : (s.updSem k f).mem = s.mem := rfl
@[simp] theorem updSem_hostMem (s : State) (k : Nat) (f : Sem → Sem) : (s.updSem k f).hostMem = s.hostMem := rfl
@[simp] theorem updSem_flash (s : State) (k : Nat) (f : Sem → Sem) : (s.updSem k f).flash = s.flash := rfl
@[simp] theorem updSem_movers (s : State) (k : Nat) (f : Sem → Sem) : (s.updSem k f).movers = s.movers := rfl
@[simp] theorem updSem_engines (s : State) (k : Nat) (f : Sem → Sem) : (s.updSem k f).engines = s.engines := rfl
@[simp] theorem updSem_ports (s : State) (k : Nat) (f : Sem → Sem) : (s.updSem k f).ports = s.ports := rfl
@[simp] theorem updSem_flows (s : State) (k : Nat) (f : Sem → Sem) : (s.updSem k f).flows = s.flows := rfl
@[simp] theorem updSem_arrivals (s : State) (k : Nat) (f : Sem → Sem) : (s.updSem k f).arrivals = s.arrivals := rfl
@[simp] theorem updSem_early (s : State) (k : Nat) (f : Sem → Sem) : (s.updSem k f).early = s.early := rfl
@[simp] theorem updSem_colls (s : State) (k : Nat) (f : Sem → Sem) : (s.updSem k f).colls = s.colls := rfl
@[simp] theorem updSem_chans (s : State) (k : Nat) (f : Sem → Sem) : (s.updSem k f).chans = s.chans := rfl
@[simp] theorem updSem_halt (s : State) (k : Nat) (f : Sem → Sem) : (s.updSem k f).halt = s.halt := rfl
@[simp] theorem updSem_watch (s : State) (k : Nat) (f : Sem → Sem) : (s.updSem k f).watch = s.watch := rfl
@[simp] theorem updSem_tender (s : State) (k : Nat) (f : Sem → Sem) : (s.updSem k f).tender = s.tender := rfl
@[simp] theorem updSem_ledger (s : State) (k : Nat) (f : Sem → Sem) : (s.updSem k f).ledger = s.ledger := rfl
@[simp] theorem updSem_way (s : State) (k : Nat) (f : Sem → Sem) : (s.updSem k f).way = s.way := rfl
@[simp] theorem updSem_rings (s : State) (k : Nat) (f : Sem → Sem) : (s.updSem k f).rings = s.rings := rfl
@[simp] theorem updSem_time (s : State) (k : Nat) (f : Sem → Sem) : (s.updSem k f).time = s.time := rfl
@[simp] theorem updSem_power (s : State) (k : Nat) (f : Sem → Sem) : (s.updSem k f).power = s.power := rfl
@[simp] theorem updSem_mgmt (s : State) (k : Nat) (f : Sem → Sem) : (s.updSem k f).mgmt = s.mgmt := rfl
@[simp] theorem updSem_outbox (s : State) (k : Nat) (f : Sem → Sem) : (s.updSem k f).outbox = s.outbox := rfl

@[simp] theorem updSlot_pending (s : State) (k : Nat) (f : Slot → Slot) : (s.updSlot k f).pending = s.pending := rfl
@[simp] theorem updSlot_fresh (s : State) (k : Nat) (f : Slot → Slot) : (s.updSlot k f).fresh = s.fresh := rfl
@[simp] theorem updSlot_sys (s : State) (k : Nat) (f : Slot → Slot) : (s.updSlot k f).sys = s.sys := rfl
@[simp] theorem updSlot_coaches (s : State) (k : Nat) (f : Slot → Slot) : (s.updSlot k f).coaches = s.coaches := rfl
@[simp] theorem updSlot_llc (s : State) (k : Nat) (f : Slot → Slot) : (s.updSlot k f).llc = s.llc := rfl
@[simp] theorem updSlot_mem (s : State) (k : Nat) (f : Slot → Slot) : (s.updSlot k f).mem = s.mem := rfl
@[simp] theorem updSlot_hostMem (s : State) (k : Nat) (f : Slot → Slot) : (s.updSlot k f).hostMem = s.hostMem := rfl
@[simp] theorem updSlot_flash (s : State) (k : Nat) (f : Slot → Slot) : (s.updSlot k f).flash = s.flash := rfl
@[simp] theorem updSlot_movers (s : State) (k : Nat) (f : Slot → Slot) : (s.updSlot k f).movers = s.movers := rfl
@[simp] theorem updSlot_engines (s : State) (k : Nat) (f : Slot → Slot) : (s.updSlot k f).engines = s.engines := rfl
@[simp] theorem updSlot_ports (s : State) (k : Nat) (f : Slot → Slot) : (s.updSlot k f).ports = s.ports := rfl
@[simp] theorem updSlot_flows (s : State) (k : Nat) (f : Slot → Slot) : (s.updSlot k f).flows = s.flows := rfl
@[simp] theorem updSlot_arrivals (s : State) (k : Nat) (f : Slot → Slot) : (s.updSlot k f).arrivals = s.arrivals := rfl
@[simp] theorem updSlot_early (s : State) (k : Nat) (f : Slot → Slot) : (s.updSlot k f).early = s.early := rfl
@[simp] theorem updSlot_colls (s : State) (k : Nat) (f : Slot → Slot) : (s.updSlot k f).colls = s.colls := rfl
@[simp] theorem updSlot_chans (s : State) (k : Nat) (f : Slot → Slot) : (s.updSlot k f).chans = s.chans := rfl
@[simp] theorem updSlot_sems (s : State) (k : Nat) (f : Slot → Slot) : (s.updSlot k f).sems = s.sems := rfl
@[simp] theorem updSlot_halt (s : State) (k : Nat) (f : Slot → Slot) : (s.updSlot k f).halt = s.halt := rfl
@[simp] theorem updSlot_tender (s : State) (k : Nat) (f : Slot → Slot) : (s.updSlot k f).tender = s.tender := rfl
@[simp] theorem updSlot_ledger (s : State) (k : Nat) (f : Slot → Slot) : (s.updSlot k f).ledger = s.ledger := rfl
@[simp] theorem updSlot_way (s : State) (k : Nat) (f : Slot → Slot) : (s.updSlot k f).way = s.way := rfl
@[simp] theorem updSlot_rings (s : State) (k : Nat) (f : Slot → Slot) : (s.updSlot k f).rings = s.rings := rfl
@[simp] theorem updSlot_time (s : State) (k : Nat) (f : Slot → Slot) : (s.updSlot k f).time = s.time := rfl
@[simp] theorem updSlot_power (s : State) (k : Nat) (f : Slot → Slot) : (s.updSlot k f).power = s.power := rfl
@[simp] theorem updSlot_mgmt (s : State) (k : Nat) (f : Slot → Slot) : (s.updSlot k f).mgmt = s.mgmt := rfl
@[simp] theorem updSlot_outbox (s : State) (k : Nat) (f : Slot → Slot) : (s.updSlot k f).outbox = s.outbox := rfl

@[simp] theorem updAgree_pending (s : State) (k : Nat) (f : Agree → Agree) : (s.updAgree k f).pending = s.pending := rfl
@[simp] theorem updAgree_fresh (s : State) (k : Nat) (f : Agree → Agree) : (s.updAgree k f).fresh = s.fresh := rfl
@[simp] theorem updAgree_sys (s : State) (k : Nat) (f : Agree → Agree) : (s.updAgree k f).sys = s.sys := rfl
@[simp] theorem updAgree_coaches (s : State) (k : Nat) (f : Agree → Agree) : (s.updAgree k f).coaches = s.coaches := rfl
@[simp] theorem updAgree_llc (s : State) (k : Nat) (f : Agree → Agree) : (s.updAgree k f).llc = s.llc := rfl
@[simp] theorem updAgree_mem (s : State) (k : Nat) (f : Agree → Agree) : (s.updAgree k f).mem = s.mem := rfl
@[simp] theorem updAgree_hostMem (s : State) (k : Nat) (f : Agree → Agree) : (s.updAgree k f).hostMem = s.hostMem := rfl
@[simp] theorem updAgree_flash (s : State) (k : Nat) (f : Agree → Agree) : (s.updAgree k f).flash = s.flash := rfl
@[simp] theorem updAgree_movers (s : State) (k : Nat) (f : Agree → Agree) : (s.updAgree k f).movers = s.movers := rfl
@[simp] theorem updAgree_engines (s : State) (k : Nat) (f : Agree → Agree) : (s.updAgree k f).engines = s.engines := rfl
@[simp] theorem updAgree_ports (s : State) (k : Nat) (f : Agree → Agree) : (s.updAgree k f).ports = s.ports := rfl
@[simp] theorem updAgree_flows (s : State) (k : Nat) (f : Agree → Agree) : (s.updAgree k f).flows = s.flows := rfl
@[simp] theorem updAgree_arrivals (s : State) (k : Nat) (f : Agree → Agree) : (s.updAgree k f).arrivals = s.arrivals := rfl
@[simp] theorem updAgree_early (s : State) (k : Nat) (f : Agree → Agree) : (s.updAgree k f).early = s.early := rfl
@[simp] theorem updAgree_colls (s : State) (k : Nat) (f : Agree → Agree) : (s.updAgree k f).colls = s.colls := rfl
@[simp] theorem updAgree_chans (s : State) (k : Nat) (f : Agree → Agree) : (s.updAgree k f).chans = s.chans := rfl
@[simp] theorem updAgree_sems (s : State) (k : Nat) (f : Agree → Agree) : (s.updAgree k f).sems = s.sems := rfl
@[simp] theorem updAgree_halt (s : State) (k : Nat) (f : Agree → Agree) : (s.updAgree k f).halt = s.halt := rfl
@[simp] theorem updAgree_tender (s : State) (k : Nat) (f : Agree → Agree) : (s.updAgree k f).tender = s.tender := rfl
@[simp] theorem updAgree_ledger (s : State) (k : Nat) (f : Agree → Agree) : (s.updAgree k f).ledger = s.ledger := rfl
@[simp] theorem updAgree_way (s : State) (k : Nat) (f : Agree → Agree) : (s.updAgree k f).way = s.way := rfl
@[simp] theorem updAgree_rings (s : State) (k : Nat) (f : Agree → Agree) : (s.updAgree k f).rings = s.rings := rfl
@[simp] theorem updAgree_time (s : State) (k : Nat) (f : Agree → Agree) : (s.updAgree k f).time = s.time := rfl
@[simp] theorem updAgree_power (s : State) (k : Nat) (f : Agree → Agree) : (s.updAgree k f).power = s.power := rfl
@[simp] theorem updAgree_mgmt (s : State) (k : Nat) (f : Agree → Agree) : (s.updAgree k f).mgmt = s.mgmt := rfl
@[simp] theorem updAgree_outbox (s : State) (k : Nat) (f : Agree → Agree) : (s.updAgree k f).outbox = s.outbox := rfl

@[simp] theorem updStack_pending (s : State) (k : Nat) (f : StackState → StackState) : (s.updStack k f).pending = s.pending := rfl
@[simp] theorem updStack_fresh (s : State) (k : Nat) (f : StackState → StackState) : (s.updStack k f).fresh = s.fresh := rfl
@[simp] theorem updStack_sys (s : State) (k : Nat) (f : StackState → StackState) : (s.updStack k f).sys = s.sys := rfl
@[simp] theorem updStack_coaches (s : State) (k : Nat) (f : StackState → StackState) : (s.updStack k f).coaches = s.coaches := rfl
@[simp] theorem updStack_llc (s : State) (k : Nat) (f : StackState → StackState) : (s.updStack k f).llc = s.llc := rfl
@[simp] theorem updStack_hostMem (s : State) (k : Nat) (f : StackState → StackState) : (s.updStack k f).hostMem = s.hostMem := rfl
@[simp] theorem updStack_flash (s : State) (k : Nat) (f : StackState → StackState) : (s.updStack k f).flash = s.flash := rfl
@[simp] theorem updStack_movers (s : State) (k : Nat) (f : StackState → StackState) : (s.updStack k f).movers = s.movers := rfl
@[simp] theorem updStack_engines (s : State) (k : Nat) (f : StackState → StackState) : (s.updStack k f).engines = s.engines := rfl
@[simp] theorem updStack_ports (s : State) (k : Nat) (f : StackState → StackState) : (s.updStack k f).ports = s.ports := rfl
@[simp] theorem updStack_flows (s : State) (k : Nat) (f : StackState → StackState) : (s.updStack k f).flows = s.flows := rfl
@[simp] theorem updStack_arrivals (s : State) (k : Nat) (f : StackState → StackState) : (s.updStack k f).arrivals = s.arrivals := rfl
@[simp] theorem updStack_early (s : State) (k : Nat) (f : StackState → StackState) : (s.updStack k f).early = s.early := rfl
@[simp] theorem updStack_colls (s : State) (k : Nat) (f : StackState → StackState) : (s.updStack k f).colls = s.colls := rfl
@[simp] theorem updStack_chans (s : State) (k : Nat) (f : StackState → StackState) : (s.updStack k f).chans = s.chans := rfl
@[simp] theorem updStack_sems (s : State) (k : Nat) (f : StackState → StackState) : (s.updStack k f).sems = s.sems := rfl
@[simp] theorem updStack_halt (s : State) (k : Nat) (f : StackState → StackState) : (s.updStack k f).halt = s.halt := rfl
@[simp] theorem updStack_watch (s : State) (k : Nat) (f : StackState → StackState) : (s.updStack k f).watch = s.watch := rfl
@[simp] theorem updStack_tender (s : State) (k : Nat) (f : StackState → StackState) : (s.updStack k f).tender = s.tender := rfl
@[simp] theorem updStack_ledger (s : State) (k : Nat) (f : StackState → StackState) : (s.updStack k f).ledger = s.ledger := rfl
@[simp] theorem updStack_way (s : State) (k : Nat) (f : StackState → StackState) : (s.updStack k f).way = s.way := rfl
@[simp] theorem updStack_rings (s : State) (k : Nat) (f : StackState → StackState) : (s.updStack k f).rings = s.rings := rfl
@[simp] theorem updStack_time (s : State) (k : Nat) (f : StackState → StackState) : (s.updStack k f).time = s.time := rfl
@[simp] theorem updStack_power (s : State) (k : Nat) (f : StackState → StackState) : (s.updStack k f).power = s.power := rfl
@[simp] theorem updStack_mgmt (s : State) (k : Nat) (f : StackState → StackState) : (s.updStack k f).mgmt = s.mgmt := rfl
@[simp] theorem updStack_outbox (s : State) (k : Nat) (f : StackState → StackState) : (s.updStack k f).outbox = s.outbox := rfl

@[simp] theorem updPseudo_pending (s : State) (k : Nat) (f : PcStats → PcStats) : (s.updPseudo k f).pending = s.pending := rfl
@[simp] theorem updPseudo_fresh (s : State) (k : Nat) (f : PcStats → PcStats) : (s.updPseudo k f).fresh = s.fresh := rfl
@[simp] theorem updPseudo_sys (s : State) (k : Nat) (f : PcStats → PcStats) : (s.updPseudo k f).sys = s.sys := rfl
@[simp] theorem updPseudo_coaches (s : State) (k : Nat) (f : PcStats → PcStats) : (s.updPseudo k f).coaches = s.coaches := rfl
@[simp] theorem updPseudo_llc (s : State) (k : Nat) (f : PcStats → PcStats) : (s.updPseudo k f).llc = s.llc := rfl
@[simp] theorem updPseudo_hostMem (s : State) (k : Nat) (f : PcStats → PcStats) : (s.updPseudo k f).hostMem = s.hostMem := rfl
@[simp] theorem updPseudo_flash (s : State) (k : Nat) (f : PcStats → PcStats) : (s.updPseudo k f).flash = s.flash := rfl
@[simp] theorem updPseudo_movers (s : State) (k : Nat) (f : PcStats → PcStats) : (s.updPseudo k f).movers = s.movers := rfl
@[simp] theorem updPseudo_engines (s : State) (k : Nat) (f : PcStats → PcStats) : (s.updPseudo k f).engines = s.engines := rfl
@[simp] theorem updPseudo_ports (s : State) (k : Nat) (f : PcStats → PcStats) : (s.updPseudo k f).ports = s.ports := rfl
@[simp] theorem updPseudo_flows (s : State) (k : Nat) (f : PcStats → PcStats) : (s.updPseudo k f).flows = s.flows := rfl
@[simp] theorem updPseudo_arrivals (s : State) (k : Nat) (f : PcStats → PcStats) : (s.updPseudo k f).arrivals = s.arrivals := rfl
@[simp] theorem updPseudo_early (s : State) (k : Nat) (f : PcStats → PcStats) : (s.updPseudo k f).early = s.early := rfl
@[simp] theorem updPseudo_colls (s : State) (k : Nat) (f : PcStats → PcStats) : (s.updPseudo k f).colls = s.colls := rfl
@[simp] theorem updPseudo_chans (s : State) (k : Nat) (f : PcStats → PcStats) : (s.updPseudo k f).chans = s.chans := rfl
@[simp] theorem updPseudo_sems (s : State) (k : Nat) (f : PcStats → PcStats) : (s.updPseudo k f).sems = s.sems := rfl
@[simp] theorem updPseudo_halt (s : State) (k : Nat) (f : PcStats → PcStats) : (s.updPseudo k f).halt = s.halt := rfl
@[simp] theorem updPseudo_watch (s : State) (k : Nat) (f : PcStats → PcStats) : (s.updPseudo k f).watch = s.watch := rfl
@[simp] theorem updPseudo_tender (s : State) (k : Nat) (f : PcStats → PcStats) : (s.updPseudo k f).tender = s.tender := rfl
@[simp] theorem updPseudo_ledger (s : State) (k : Nat) (f : PcStats → PcStats) : (s.updPseudo k f).ledger = s.ledger := rfl
@[simp] theorem updPseudo_way (s : State) (k : Nat) (f : PcStats → PcStats) : (s.updPseudo k f).way = s.way := rfl
@[simp] theorem updPseudo_rings (s : State) (k : Nat) (f : PcStats → PcStats) : (s.updPseudo k f).rings = s.rings := rfl
@[simp] theorem updPseudo_time (s : State) (k : Nat) (f : PcStats → PcStats) : (s.updPseudo k f).time = s.time := rfl
@[simp] theorem updPseudo_power (s : State) (k : Nat) (f : PcStats → PcStats) : (s.updPseudo k f).power = s.power := rfl
@[simp] theorem updPseudo_mgmt (s : State) (k : Nat) (f : PcStats → PcStats) : (s.updPseudo k f).mgmt = s.mgmt := rfl
@[simp] theorem updPseudo_outbox (s : State) (k : Nat) (f : PcStats → PcStats) : (s.updPseudo k f).outbox = s.outbox := rfl

@[simp] theorem updSlice_pending (s : State) (k : Nat) (f : SliceStats → SliceStats) : (s.updSlice k f).pending = s.pending := rfl
@[simp] theorem updSlice_fresh (s : State) (k : Nat) (f : SliceStats → SliceStats) : (s.updSlice k f).fresh = s.fresh := rfl
@[simp] theorem updSlice_sys (s : State) (k : Nat) (f : SliceStats → SliceStats) : (s.updSlice k f).sys = s.sys := rfl
@[simp] theorem updSlice_coaches (s : State) (k : Nat) (f : SliceStats → SliceStats) : (s.updSlice k f).coaches = s.coaches := rfl
@[simp] theorem updSlice_mem (s : State) (k : Nat) (f : SliceStats → SliceStats) : (s.updSlice k f).mem = s.mem := rfl
@[simp] theorem updSlice_hostMem (s : State) (k : Nat) (f : SliceStats → SliceStats) : (s.updSlice k f).hostMem = s.hostMem := rfl
@[simp] theorem updSlice_flash (s : State) (k : Nat) (f : SliceStats → SliceStats) : (s.updSlice k f).flash = s.flash := rfl
@[simp] theorem updSlice_movers (s : State) (k : Nat) (f : SliceStats → SliceStats) : (s.updSlice k f).movers = s.movers := rfl
@[simp] theorem updSlice_engines (s : State) (k : Nat) (f : SliceStats → SliceStats) : (s.updSlice k f).engines = s.engines := rfl
@[simp] theorem updSlice_ports (s : State) (k : Nat) (f : SliceStats → SliceStats) : (s.updSlice k f).ports = s.ports := rfl
@[simp] theorem updSlice_flows (s : State) (k : Nat) (f : SliceStats → SliceStats) : (s.updSlice k f).flows = s.flows := rfl
@[simp] theorem updSlice_arrivals (s : State) (k : Nat) (f : SliceStats → SliceStats) : (s.updSlice k f).arrivals = s.arrivals := rfl
@[simp] theorem updSlice_early (s : State) (k : Nat) (f : SliceStats → SliceStats) : (s.updSlice k f).early = s.early := rfl
@[simp] theorem updSlice_colls (s : State) (k : Nat) (f : SliceStats → SliceStats) : (s.updSlice k f).colls = s.colls := rfl
@[simp] theorem updSlice_chans (s : State) (k : Nat) (f : SliceStats → SliceStats) : (s.updSlice k f).chans = s.chans := rfl
@[simp] theorem updSlice_sems (s : State) (k : Nat) (f : SliceStats → SliceStats) : (s.updSlice k f).sems = s.sems := rfl
@[simp] theorem updSlice_halt (s : State) (k : Nat) (f : SliceStats → SliceStats) : (s.updSlice k f).halt = s.halt := rfl
@[simp] theorem updSlice_watch (s : State) (k : Nat) (f : SliceStats → SliceStats) : (s.updSlice k f).watch = s.watch := rfl
@[simp] theorem updSlice_tender (s : State) (k : Nat) (f : SliceStats → SliceStats) : (s.updSlice k f).tender = s.tender := rfl
@[simp] theorem updSlice_ledger (s : State) (k : Nat) (f : SliceStats → SliceStats) : (s.updSlice k f).ledger = s.ledger := rfl
@[simp] theorem updSlice_way (s : State) (k : Nat) (f : SliceStats → SliceStats) : (s.updSlice k f).way = s.way := rfl
@[simp] theorem updSlice_rings (s : State) (k : Nat) (f : SliceStats → SliceStats) : (s.updSlice k f).rings = s.rings := rfl
@[simp] theorem updSlice_time (s : State) (k : Nat) (f : SliceStats → SliceStats) : (s.updSlice k f).time = s.time := rfl
@[simp] theorem updSlice_power (s : State) (k : Nat) (f : SliceStats → SliceStats) : (s.updSlice k f).power = s.power := rfl
@[simp] theorem updSlice_mgmt (s : State) (k : Nat) (f : SliceStats → SliceStats) : (s.updSlice k f).mgmt = s.mgmt := rfl
@[simp] theorem updSlice_outbox (s : State) (k : Nat) (f : SliceStats → SliceStats) : (s.updSlice k f).outbox = s.outbox := rfl

@[simp] theorem updPair_pending (s : State) (k : Nat) (f : Pair → Pair) : (s.updPair k f).pending = s.pending := rfl
@[simp] theorem updPair_fresh (s : State) (k : Nat) (f : Pair → Pair) : (s.updPair k f).fresh = s.fresh := rfl
@[simp] theorem updPair_sys (s : State) (k : Nat) (f : Pair → Pair) : (s.updPair k f).sys = s.sys := rfl
@[simp] theorem updPair_coaches (s : State) (k : Nat) (f : Pair → Pair) : (s.updPair k f).coaches = s.coaches := rfl
@[simp] theorem updPair_llc (s : State) (k : Nat) (f : Pair → Pair) : (s.updPair k f).llc = s.llc := rfl
@[simp] theorem updPair_mem (s : State) (k : Nat) (f : Pair → Pair) : (s.updPair k f).mem = s.mem := rfl
@[simp] theorem updPair_hostMem (s : State) (k : Nat) (f : Pair → Pair) : (s.updPair k f).hostMem = s.hostMem := rfl
@[simp] theorem updPair_flash (s : State) (k : Nat) (f : Pair → Pair) : (s.updPair k f).flash = s.flash := rfl
@[simp] theorem updPair_movers (s : State) (k : Nat) (f : Pair → Pair) : (s.updPair k f).movers = s.movers := rfl
@[simp] theorem updPair_engines (s : State) (k : Nat) (f : Pair → Pair) : (s.updPair k f).engines = s.engines := rfl
@[simp] theorem updPair_ports (s : State) (k : Nat) (f : Pair → Pair) : (s.updPair k f).ports = s.ports := rfl
@[simp] theorem updPair_flows (s : State) (k : Nat) (f : Pair → Pair) : (s.updPair k f).flows = s.flows := rfl
@[simp] theorem updPair_arrivals (s : State) (k : Nat) (f : Pair → Pair) : (s.updPair k f).arrivals = s.arrivals := rfl
@[simp] theorem updPair_early (s : State) (k : Nat) (f : Pair → Pair) : (s.updPair k f).early = s.early := rfl
@[simp] theorem updPair_colls (s : State) (k : Nat) (f : Pair → Pair) : (s.updPair k f).colls = s.colls := rfl
@[simp] theorem updPair_chans (s : State) (k : Nat) (f : Pair → Pair) : (s.updPair k f).chans = s.chans := rfl
@[simp] theorem updPair_sems (s : State) (k : Nat) (f : Pair → Pair) : (s.updPair k f).sems = s.sems := rfl
@[simp] theorem updPair_halt (s : State) (k : Nat) (f : Pair → Pair) : (s.updPair k f).halt = s.halt := rfl
@[simp] theorem updPair_watch (s : State) (k : Nat) (f : Pair → Pair) : (s.updPair k f).watch = s.watch := rfl
@[simp] theorem updPair_tender (s : State) (k : Nat) (f : Pair → Pair) : (s.updPair k f).tender = s.tender := rfl
@[simp] theorem updPair_ledger (s : State) (k : Nat) (f : Pair → Pair) : (s.updPair k f).ledger = s.ledger := rfl
@[simp] theorem updPair_way (s : State) (k : Nat) (f : Pair → Pair) : (s.updPair k f).way = s.way := rfl
@[simp] theorem updPair_time (s : State) (k : Nat) (f : Pair → Pair) : (s.updPair k f).time = s.time := rfl
@[simp] theorem updPair_power (s : State) (k : Nat) (f : Pair → Pair) : (s.updPair k f).power = s.power := rfl
@[simp] theorem updPair_mgmt (s : State) (k : Nat) (f : Pair → Pair) : (s.updPair k f).mgmt = s.mgmt := rfl
@[simp] theorem updPair_outbox (s : State) (k : Nat) (f : Pair → Pair) : (s.updPair k f).outbox = s.outbox := rfl

@[simp] theorem updFw_pending (s : State) (k : Nat) (f : Fw → Fw) : (s.updFw k f).pending = s.pending := rfl
@[simp] theorem updFw_fresh (s : State) (k : Nat) (f : Fw → Fw) : (s.updFw k f).fresh = s.fresh := rfl
@[simp] theorem updFw_sys (s : State) (k : Nat) (f : Fw → Fw) : (s.updFw k f).sys = s.sys := rfl
@[simp] theorem updFw_coaches (s : State) (k : Nat) (f : Fw → Fw) : (s.updFw k f).coaches = s.coaches := rfl
@[simp] theorem updFw_llc (s : State) (k : Nat) (f : Fw → Fw) : (s.updFw k f).llc = s.llc := rfl
@[simp] theorem updFw_mem (s : State) (k : Nat) (f : Fw → Fw) : (s.updFw k f).mem = s.mem := rfl
@[simp] theorem updFw_hostMem (s : State) (k : Nat) (f : Fw → Fw) : (s.updFw k f).hostMem = s.hostMem := rfl
@[simp] theorem updFw_flash (s : State) (k : Nat) (f : Fw → Fw) : (s.updFw k f).flash = s.flash := rfl
@[simp] theorem updFw_movers (s : State) (k : Nat) (f : Fw → Fw) : (s.updFw k f).movers = s.movers := rfl
@[simp] theorem updFw_engines (s : State) (k : Nat) (f : Fw → Fw) : (s.updFw k f).engines = s.engines := rfl
@[simp] theorem updFw_ports (s : State) (k : Nat) (f : Fw → Fw) : (s.updFw k f).ports = s.ports := rfl
@[simp] theorem updFw_flows (s : State) (k : Nat) (f : Fw → Fw) : (s.updFw k f).flows = s.flows := rfl
@[simp] theorem updFw_arrivals (s : State) (k : Nat) (f : Fw → Fw) : (s.updFw k f).arrivals = s.arrivals := rfl
@[simp] theorem updFw_early (s : State) (k : Nat) (f : Fw → Fw) : (s.updFw k f).early = s.early := rfl
@[simp] theorem updFw_colls (s : State) (k : Nat) (f : Fw → Fw) : (s.updFw k f).colls = s.colls := rfl
@[simp] theorem updFw_chans (s : State) (k : Nat) (f : Fw → Fw) : (s.updFw k f).chans = s.chans := rfl
@[simp] theorem updFw_sems (s : State) (k : Nat) (f : Fw → Fw) : (s.updFw k f).sems = s.sems := rfl
@[simp] theorem updFw_halt (s : State) (k : Nat) (f : Fw → Fw) : (s.updFw k f).halt = s.halt := rfl
@[simp] theorem updFw_watch (s : State) (k : Nat) (f : Fw → Fw) : (s.updFw k f).watch = s.watch := rfl
@[simp] theorem updFw_tender (s : State) (k : Nat) (f : Fw → Fw) : (s.updFw k f).tender = s.tender := rfl
@[simp] theorem updFw_ledger (s : State) (k : Nat) (f : Fw → Fw) : (s.updFw k f).ledger = s.ledger := rfl
@[simp] theorem updFw_way (s : State) (k : Nat) (f : Fw → Fw) : (s.updFw k f).way = s.way := rfl
@[simp] theorem updFw_rings (s : State) (k : Nat) (f : Fw → Fw) : (s.updFw k f).rings = s.rings := rfl
@[simp] theorem updFw_time (s : State) (k : Nat) (f : Fw → Fw) : (s.updFw k f).time = s.time := rfl
@[simp] theorem updFw_power (s : State) (k : Nat) (f : Fw → Fw) : (s.updFw k f).power = s.power := rfl
@[simp] theorem updFw_outbox (s : State) (k : Nat) (f : Fw → Fw) : (s.updFw k f).outbox = s.outbox := rfl

@[simp] theorem updAlarm_pending (s : State) (k : Nat) (f : Alarm → Alarm) : (s.updAlarm k f).pending = s.pending := rfl
@[simp] theorem updAlarm_fresh (s : State) (k : Nat) (f : Alarm → Alarm) : (s.updAlarm k f).fresh = s.fresh := rfl
@[simp] theorem updAlarm_sys (s : State) (k : Nat) (f : Alarm → Alarm) : (s.updAlarm k f).sys = s.sys := rfl
@[simp] theorem updAlarm_coaches (s : State) (k : Nat) (f : Alarm → Alarm) : (s.updAlarm k f).coaches = s.coaches := rfl
@[simp] theorem updAlarm_llc (s : State) (k : Nat) (f : Alarm → Alarm) : (s.updAlarm k f).llc = s.llc := rfl
@[simp] theorem updAlarm_mem (s : State) (k : Nat) (f : Alarm → Alarm) : (s.updAlarm k f).mem = s.mem := rfl
@[simp] theorem updAlarm_hostMem (s : State) (k : Nat) (f : Alarm → Alarm) : (s.updAlarm k f).hostMem = s.hostMem := rfl
@[simp] theorem updAlarm_flash (s : State) (k : Nat) (f : Alarm → Alarm) : (s.updAlarm k f).flash = s.flash := rfl
@[simp] theorem updAlarm_movers (s : State) (k : Nat) (f : Alarm → Alarm) : (s.updAlarm k f).movers = s.movers := rfl
@[simp] theorem updAlarm_engines (s : State) (k : Nat) (f : Alarm → Alarm) : (s.updAlarm k f).engines = s.engines := rfl
@[simp] theorem updAlarm_ports (s : State) (k : Nat) (f : Alarm → Alarm) : (s.updAlarm k f).ports = s.ports := rfl
@[simp] theorem updAlarm_flows (s : State) (k : Nat) (f : Alarm → Alarm) : (s.updAlarm k f).flows = s.flows := rfl
@[simp] theorem updAlarm_arrivals (s : State) (k : Nat) (f : Alarm → Alarm) : (s.updAlarm k f).arrivals = s.arrivals := rfl
@[simp] theorem updAlarm_early (s : State) (k : Nat) (f : Alarm → Alarm) : (s.updAlarm k f).early = s.early := rfl
@[simp] theorem updAlarm_colls (s : State) (k : Nat) (f : Alarm → Alarm) : (s.updAlarm k f).colls = s.colls := rfl
@[simp] theorem updAlarm_chans (s : State) (k : Nat) (f : Alarm → Alarm) : (s.updAlarm k f).chans = s.chans := rfl
@[simp] theorem updAlarm_sems (s : State) (k : Nat) (f : Alarm → Alarm) : (s.updAlarm k f).sems = s.sems := rfl
@[simp] theorem updAlarm_halt (s : State) (k : Nat) (f : Alarm → Alarm) : (s.updAlarm k f).halt = s.halt := rfl
@[simp] theorem updAlarm_watch (s : State) (k : Nat) (f : Alarm → Alarm) : (s.updAlarm k f).watch = s.watch := rfl
@[simp] theorem updAlarm_tender (s : State) (k : Nat) (f : Alarm → Alarm) : (s.updAlarm k f).tender = s.tender := rfl
@[simp] theorem updAlarm_ledger (s : State) (k : Nat) (f : Alarm → Alarm) : (s.updAlarm k f).ledger = s.ledger := rfl
@[simp] theorem updAlarm_way (s : State) (k : Nat) (f : Alarm → Alarm) : (s.updAlarm k f).way = s.way := rfl
@[simp] theorem updAlarm_rings (s : State) (k : Nat) (f : Alarm → Alarm) : (s.updAlarm k f).rings = s.rings := rfl
@[simp] theorem updAlarm_power (s : State) (k : Nat) (f : Alarm → Alarm) : (s.updAlarm k f).power = s.power := rfl
@[simp] theorem updAlarm_mgmt (s : State) (k : Nat) (f : Alarm → Alarm) : (s.updAlarm k f).mgmt = s.mgmt := rfl
@[simp] theorem updAlarm_outbox (s : State) (k : Nat) (f : Alarm → Alarm) : (s.updAlarm k f).outbox = s.outbox := rfl

@[simp] theorem updTender_pending (s : State) (f : Tender → Tender) : (s.updTender f).pending = s.pending := rfl
@[simp] theorem updTender_fresh (s : State) (f : Tender → Tender) : (s.updTender f).fresh = s.fresh := rfl
@[simp] theorem updTender_sys (s : State) (f : Tender → Tender) : (s.updTender f).sys = s.sys := rfl
@[simp] theorem updTender_coaches (s : State) (f : Tender → Tender) : (s.updTender f).coaches = s.coaches := rfl
@[simp] theorem updTender_llc (s : State) (f : Tender → Tender) : (s.updTender f).llc = s.llc := rfl
@[simp] theorem updTender_mem (s : State) (f : Tender → Tender) : (s.updTender f).mem = s.mem := rfl
@[simp] theorem updTender_hostMem (s : State) (f : Tender → Tender) : (s.updTender f).hostMem = s.hostMem := rfl
@[simp] theorem updTender_flash (s : State) (f : Tender → Tender) : (s.updTender f).flash = s.flash := rfl
@[simp] theorem updTender_movers (s : State) (f : Tender → Tender) : (s.updTender f).movers = s.movers := rfl
@[simp] theorem updTender_engines (s : State) (f : Tender → Tender) : (s.updTender f).engines = s.engines := rfl
@[simp] theorem updTender_ports (s : State) (f : Tender → Tender) : (s.updTender f).ports = s.ports := rfl
@[simp] theorem updTender_flows (s : State) (f : Tender → Tender) : (s.updTender f).flows = s.flows := rfl
@[simp] theorem updTender_arrivals (s : State) (f : Tender → Tender) : (s.updTender f).arrivals = s.arrivals := rfl
@[simp] theorem updTender_early (s : State) (f : Tender → Tender) : (s.updTender f).early = s.early := rfl
@[simp] theorem updTender_colls (s : State) (f : Tender → Tender) : (s.updTender f).colls = s.colls := rfl
@[simp] theorem updTender_chans (s : State) (f : Tender → Tender) : (s.updTender f).chans = s.chans := rfl
@[simp] theorem updTender_sems (s : State) (f : Tender → Tender) : (s.updTender f).sems = s.sems := rfl
@[simp] theorem updTender_halt (s : State) (f : Tender → Tender) : (s.updTender f).halt = s.halt := rfl
@[simp] theorem updTender_watch (s : State) (f : Tender → Tender) : (s.updTender f).watch = s.watch := rfl
@[simp] theorem updTender_ledger (s : State) (f : Tender → Tender) : (s.updTender f).ledger = s.ledger := rfl
@[simp] theorem updTender_way (s : State) (f : Tender → Tender) : (s.updTender f).way = s.way := rfl
@[simp] theorem updTender_rings (s : State) (f : Tender → Tender) : (s.updTender f).rings = s.rings := rfl
@[simp] theorem updTender_time (s : State) (f : Tender → Tender) : (s.updTender f).time = s.time := rfl
@[simp] theorem updTender_power (s : State) (f : Tender → Tender) : (s.updTender f).power = s.power := rfl
@[simp] theorem updTender_mgmt (s : State) (f : Tender → Tender) : (s.updTender f).mgmt = s.mgmt := rfl
@[simp] theorem updTender_outbox (s : State) (f : Tender → Tender) : (s.updTender f).outbox = s.outbox := rfl
@[simp] theorem updTender_tender (s : State) (f : Tender → Tender) : (s.updTender f).tender = f s.tender := rfl

@[simp] theorem updWay_pending (s : State) (f : Waybill → Waybill) : (s.updWay f).pending = s.pending := rfl
@[simp] theorem updWay_fresh (s : State) (f : Waybill → Waybill) : (s.updWay f).fresh = s.fresh := rfl
@[simp] theorem updWay_sys (s : State) (f : Waybill → Waybill) : (s.updWay f).sys = s.sys := rfl
@[simp] theorem updWay_coaches (s : State) (f : Waybill → Waybill) : (s.updWay f).coaches = s.coaches := rfl
@[simp] theorem updWay_llc (s : State) (f : Waybill → Waybill) : (s.updWay f).llc = s.llc := rfl
@[simp] theorem updWay_mem (s : State) (f : Waybill → Waybill) : (s.updWay f).mem = s.mem := rfl
@[simp] theorem updWay_hostMem (s : State) (f : Waybill → Waybill) : (s.updWay f).hostMem = s.hostMem := rfl
@[simp] theorem updWay_flash (s : State) (f : Waybill → Waybill) : (s.updWay f).flash = s.flash := rfl
@[simp] theorem updWay_movers (s : State) (f : Waybill → Waybill) : (s.updWay f).movers = s.movers := rfl
@[simp] theorem updWay_engines (s : State) (f : Waybill → Waybill) : (s.updWay f).engines = s.engines := rfl
@[simp] theorem updWay_ports (s : State) (f : Waybill → Waybill) : (s.updWay f).ports = s.ports := rfl
@[simp] theorem updWay_flows (s : State) (f : Waybill → Waybill) : (s.updWay f).flows = s.flows := rfl
@[simp] theorem updWay_arrivals (s : State) (f : Waybill → Waybill) : (s.updWay f).arrivals = s.arrivals := rfl
@[simp] theorem updWay_early (s : State) (f : Waybill → Waybill) : (s.updWay f).early = s.early := rfl
@[simp] theorem updWay_colls (s : State) (f : Waybill → Waybill) : (s.updWay f).colls = s.colls := rfl
@[simp] theorem updWay_chans (s : State) (f : Waybill → Waybill) : (s.updWay f).chans = s.chans := rfl
@[simp] theorem updWay_sems (s : State) (f : Waybill → Waybill) : (s.updWay f).sems = s.sems := rfl
@[simp] theorem updWay_halt (s : State) (f : Waybill → Waybill) : (s.updWay f).halt = s.halt := rfl
@[simp] theorem updWay_watch (s : State) (f : Waybill → Waybill) : (s.updWay f).watch = s.watch := rfl
@[simp] theorem updWay_tender (s : State) (f : Waybill → Waybill) : (s.updWay f).tender = s.tender := rfl
@[simp] theorem updWay_ledger (s : State) (f : Waybill → Waybill) : (s.updWay f).ledger = s.ledger := rfl
@[simp] theorem updWay_rings (s : State) (f : Waybill → Waybill) : (s.updWay f).rings = s.rings := rfl
@[simp] theorem updWay_time (s : State) (f : Waybill → Waybill) : (s.updWay f).time = s.time := rfl
@[simp] theorem updWay_power (s : State) (f : Waybill → Waybill) : (s.updWay f).power = s.power := rfl
@[simp] theorem updWay_mgmt (s : State) (f : Waybill → Waybill) : (s.updWay f).mgmt = s.mgmt := rfl
@[simp] theorem updWay_outbox (s : State) (f : Waybill → Waybill) : (s.updWay f).outbox = s.outbox := rfl
@[simp] theorem updWay_way (s : State) (f : Waybill → Waybill) : (s.updWay f).way = f s.way := rfl

@[simp] theorem updMem_pending (s : State) (f : Mem → Mem) : (s.updMem f).pending = s.pending := rfl
@[simp] theorem updMem_fresh (s : State) (f : Mem → Mem) : (s.updMem f).fresh = s.fresh := rfl
@[simp] theorem updMem_sys (s : State) (f : Mem → Mem) : (s.updMem f).sys = s.sys := rfl
@[simp] theorem updMem_coaches (s : State) (f : Mem → Mem) : (s.updMem f).coaches = s.coaches := rfl
@[simp] theorem updMem_llc (s : State) (f : Mem → Mem) : (s.updMem f).llc = s.llc := rfl
@[simp] theorem updMem_hostMem (s : State) (f : Mem → Mem) : (s.updMem f).hostMem = s.hostMem := rfl
@[simp] theorem updMem_flash (s : State) (f : Mem → Mem) : (s.updMem f).flash = s.flash := rfl
@[simp] theorem updMem_movers (s : State) (f : Mem → Mem) : (s.updMem f).movers = s.movers := rfl
@[simp] theorem updMem_engines (s : State) (f : Mem → Mem) : (s.updMem f).engines = s.engines := rfl
@[simp] theorem updMem_ports (s : State) (f : Mem → Mem) : (s.updMem f).ports = s.ports := rfl
@[simp] theorem updMem_flows (s : State) (f : Mem → Mem) : (s.updMem f).flows = s.flows := rfl
@[simp] theorem updMem_arrivals (s : State) (f : Mem → Mem) : (s.updMem f).arrivals = s.arrivals := rfl
@[simp] theorem updMem_early (s : State) (f : Mem → Mem) : (s.updMem f).early = s.early := rfl
@[simp] theorem updMem_colls (s : State) (f : Mem → Mem) : (s.updMem f).colls = s.colls := rfl
@[simp] theorem updMem_chans (s : State) (f : Mem → Mem) : (s.updMem f).chans = s.chans := rfl
@[simp] theorem updMem_sems (s : State) (f : Mem → Mem) : (s.updMem f).sems = s.sems := rfl
@[simp] theorem updMem_halt (s : State) (f : Mem → Mem) : (s.updMem f).halt = s.halt := rfl
@[simp] theorem updMem_watch (s : State) (f : Mem → Mem) : (s.updMem f).watch = s.watch := rfl
@[simp] theorem updMem_tender (s : State) (f : Mem → Mem) : (s.updMem f).tender = s.tender := rfl
@[simp] theorem updMem_ledger (s : State) (f : Mem → Mem) : (s.updMem f).ledger = s.ledger := rfl
@[simp] theorem updMem_way (s : State) (f : Mem → Mem) : (s.updMem f).way = s.way := rfl
@[simp] theorem updMem_rings (s : State) (f : Mem → Mem) : (s.updMem f).rings = s.rings := rfl
@[simp] theorem updMem_time (s : State) (f : Mem → Mem) : (s.updMem f).time = s.time := rfl
@[simp] theorem updMem_power (s : State) (f : Mem → Mem) : (s.updMem f).power = s.power := rfl
@[simp] theorem updMem_mgmt (s : State) (f : Mem → Mem) : (s.updMem f).mgmt = s.mgmt := rfl
@[simp] theorem updMem_outbox (s : State) (f : Mem → Mem) : (s.updMem f).outbox = s.outbox := rfl
@[simp] theorem updMem_mem (s : State) (f : Mem → Mem) : (s.updMem f).mem = f s.mem := rfl

@[simp] theorem updLlc_pending (s : State) (f : Llc → Llc) : (s.updLlc f).pending = s.pending := rfl
@[simp] theorem updLlc_fresh (s : State) (f : Llc → Llc) : (s.updLlc f).fresh = s.fresh := rfl
@[simp] theorem updLlc_sys (s : State) (f : Llc → Llc) : (s.updLlc f).sys = s.sys := rfl
@[simp] theorem updLlc_coaches (s : State) (f : Llc → Llc) : (s.updLlc f).coaches = s.coaches := rfl
@[simp] theorem updLlc_mem (s : State) (f : Llc → Llc) : (s.updLlc f).mem = s.mem := rfl
@[simp] theorem updLlc_hostMem (s : State) (f : Llc → Llc) : (s.updLlc f).hostMem = s.hostMem := rfl
@[simp] theorem updLlc_flash (s : State) (f : Llc → Llc) : (s.updLlc f).flash = s.flash := rfl
@[simp] theorem updLlc_movers (s : State) (f : Llc → Llc) : (s.updLlc f).movers = s.movers := rfl
@[simp] theorem updLlc_engines (s : State) (f : Llc → Llc) : (s.updLlc f).engines = s.engines := rfl
@[simp] theorem updLlc_ports (s : State) (f : Llc → Llc) : (s.updLlc f).ports = s.ports := rfl
@[simp] theorem updLlc_flows (s : State) (f : Llc → Llc) : (s.updLlc f).flows = s.flows := rfl
@[simp] theorem updLlc_arrivals (s : State) (f : Llc → Llc) : (s.updLlc f).arrivals = s.arrivals := rfl
@[simp] theorem updLlc_early (s : State) (f : Llc → Llc) : (s.updLlc f).early = s.early := rfl
@[simp] theorem updLlc_colls (s : State) (f : Llc → Llc) : (s.updLlc f).colls = s.colls := rfl
@[simp] theorem updLlc_chans (s : State) (f : Llc → Llc) : (s.updLlc f).chans = s.chans := rfl
@[simp] theorem updLlc_sems (s : State) (f : Llc → Llc) : (s.updLlc f).sems = s.sems := rfl
@[simp] theorem updLlc_halt (s : State) (f : Llc → Llc) : (s.updLlc f).halt = s.halt := rfl
@[simp] theorem updLlc_watch (s : State) (f : Llc → Llc) : (s.updLlc f).watch = s.watch := rfl
@[simp] theorem updLlc_tender (s : State) (f : Llc → Llc) : (s.updLlc f).tender = s.tender := rfl
@[simp] theorem updLlc_ledger (s : State) (f : Llc → Llc) : (s.updLlc f).ledger = s.ledger := rfl
@[simp] theorem updLlc_way (s : State) (f : Llc → Llc) : (s.updLlc f).way = s.way := rfl
@[simp] theorem updLlc_rings (s : State) (f : Llc → Llc) : (s.updLlc f).rings = s.rings := rfl
@[simp] theorem updLlc_time (s : State) (f : Llc → Llc) : (s.updLlc f).time = s.time := rfl
@[simp] theorem updLlc_power (s : State) (f : Llc → Llc) : (s.updLlc f).power = s.power := rfl
@[simp] theorem updLlc_mgmt (s : State) (f : Llc → Llc) : (s.updLlc f).mgmt = s.mgmt := rfl
@[simp] theorem updLlc_outbox (s : State) (f : Llc → Llc) : (s.updLlc f).outbox = s.outbox := rfl
@[simp] theorem updLlc_llc (s : State) (f : Llc → Llc) : (s.updLlc f).llc = f s.llc := rfl

@[simp] theorem updMgmt_pending (s : State) (f : Mgmt → Mgmt) : (s.updMgmt f).pending = s.pending := rfl
@[simp] theorem updMgmt_fresh (s : State) (f : Mgmt → Mgmt) : (s.updMgmt f).fresh = s.fresh := rfl
@[simp] theorem updMgmt_sys (s : State) (f : Mgmt → Mgmt) : (s.updMgmt f).sys = s.sys := rfl
@[simp] theorem updMgmt_coaches (s : State) (f : Mgmt → Mgmt) : (s.updMgmt f).coaches = s.coaches := rfl
@[simp] theorem updMgmt_llc (s : State) (f : Mgmt → Mgmt) : (s.updMgmt f).llc = s.llc := rfl
@[simp] theorem updMgmt_mem (s : State) (f : Mgmt → Mgmt) : (s.updMgmt f).mem = s.mem := rfl
@[simp] theorem updMgmt_hostMem (s : State) (f : Mgmt → Mgmt) : (s.updMgmt f).hostMem = s.hostMem := rfl
@[simp] theorem updMgmt_flash (s : State) (f : Mgmt → Mgmt) : (s.updMgmt f).flash = s.flash := rfl
@[simp] theorem updMgmt_movers (s : State) (f : Mgmt → Mgmt) : (s.updMgmt f).movers = s.movers := rfl
@[simp] theorem updMgmt_engines (s : State) (f : Mgmt → Mgmt) : (s.updMgmt f).engines = s.engines := rfl
@[simp] theorem updMgmt_ports (s : State) (f : Mgmt → Mgmt) : (s.updMgmt f).ports = s.ports := rfl
@[simp] theorem updMgmt_flows (s : State) (f : Mgmt → Mgmt) : (s.updMgmt f).flows = s.flows := rfl
@[simp] theorem updMgmt_arrivals (s : State) (f : Mgmt → Mgmt) : (s.updMgmt f).arrivals = s.arrivals := rfl
@[simp] theorem updMgmt_early (s : State) (f : Mgmt → Mgmt) : (s.updMgmt f).early = s.early := rfl
@[simp] theorem updMgmt_colls (s : State) (f : Mgmt → Mgmt) : (s.updMgmt f).colls = s.colls := rfl
@[simp] theorem updMgmt_chans (s : State) (f : Mgmt → Mgmt) : (s.updMgmt f).chans = s.chans := rfl
@[simp] theorem updMgmt_sems (s : State) (f : Mgmt → Mgmt) : (s.updMgmt f).sems = s.sems := rfl
@[simp] theorem updMgmt_halt (s : State) (f : Mgmt → Mgmt) : (s.updMgmt f).halt = s.halt := rfl
@[simp] theorem updMgmt_watch (s : State) (f : Mgmt → Mgmt) : (s.updMgmt f).watch = s.watch := rfl
@[simp] theorem updMgmt_tender (s : State) (f : Mgmt → Mgmt) : (s.updMgmt f).tender = s.tender := rfl
@[simp] theorem updMgmt_ledger (s : State) (f : Mgmt → Mgmt) : (s.updMgmt f).ledger = s.ledger := rfl
@[simp] theorem updMgmt_way (s : State) (f : Mgmt → Mgmt) : (s.updMgmt f).way = s.way := rfl
@[simp] theorem updMgmt_rings (s : State) (f : Mgmt → Mgmt) : (s.updMgmt f).rings = s.rings := rfl
@[simp] theorem updMgmt_time (s : State) (f : Mgmt → Mgmt) : (s.updMgmt f).time = s.time := rfl
@[simp] theorem updMgmt_power (s : State) (f : Mgmt → Mgmt) : (s.updMgmt f).power = s.power := rfl
@[simp] theorem updMgmt_outbox (s : State) (f : Mgmt → Mgmt) : (s.updMgmt f).outbox = s.outbox := rfl
@[simp] theorem updMgmt_mgmt (s : State) (f : Mgmt → Mgmt) : (s.updMgmt f).mgmt = f s.mgmt := rfl

@[simp] theorem updPower_pending (s : State) (f : Power → Power) : (s.updPower f).pending = s.pending := rfl
@[simp] theorem updPower_fresh (s : State) (f : Power → Power) : (s.updPower f).fresh = s.fresh := rfl
@[simp] theorem updPower_sys (s : State) (f : Power → Power) : (s.updPower f).sys = s.sys := rfl
@[simp] theorem updPower_coaches (s : State) (f : Power → Power) : (s.updPower f).coaches = s.coaches := rfl
@[simp] theorem updPower_llc (s : State) (f : Power → Power) : (s.updPower f).llc = s.llc := rfl
@[simp] theorem updPower_mem (s : State) (f : Power → Power) : (s.updPower f).mem = s.mem := rfl
@[simp] theorem updPower_hostMem (s : State) (f : Power → Power) : (s.updPower f).hostMem = s.hostMem := rfl
@[simp] theorem updPower_flash (s : State) (f : Power → Power) : (s.updPower f).flash = s.flash := rfl
@[simp] theorem updPower_movers (s : State) (f : Power → Power) : (s.updPower f).movers = s.movers := rfl
@[simp] theorem updPower_engines (s : State) (f : Power → Power) : (s.updPower f).engines = s.engines := rfl
@[simp] theorem updPower_ports (s : State) (f : Power → Power) : (s.updPower f).ports = s.ports := rfl
@[simp] theorem updPower_flows (s : State) (f : Power → Power) : (s.updPower f).flows = s.flows := rfl
@[simp] theorem updPower_arrivals (s : State) (f : Power → Power) : (s.updPower f).arrivals = s.arrivals := rfl
@[simp] theorem updPower_early (s : State) (f : Power → Power) : (s.updPower f).early = s.early := rfl
@[simp] theorem updPower_colls (s : State) (f : Power → Power) : (s.updPower f).colls = s.colls := rfl
@[simp] theorem updPower_chans (s : State) (f : Power → Power) : (s.updPower f).chans = s.chans := rfl
@[simp] theorem updPower_sems (s : State) (f : Power → Power) : (s.updPower f).sems = s.sems := rfl
@[simp] theorem updPower_halt (s : State) (f : Power → Power) : (s.updPower f).halt = s.halt := rfl
@[simp] theorem updPower_watch (s : State) (f : Power → Power) : (s.updPower f).watch = s.watch := rfl
@[simp] theorem updPower_tender (s : State) (f : Power → Power) : (s.updPower f).tender = s.tender := rfl
@[simp] theorem updPower_ledger (s : State) (f : Power → Power) : (s.updPower f).ledger = s.ledger := rfl
@[simp] theorem updPower_way (s : State) (f : Power → Power) : (s.updPower f).way = s.way := rfl
@[simp] theorem updPower_rings (s : State) (f : Power → Power) : (s.updPower f).rings = s.rings := rfl
@[simp] theorem updPower_time (s : State) (f : Power → Power) : (s.updPower f).time = s.time := rfl
@[simp] theorem updPower_mgmt (s : State) (f : Power → Power) : (s.updPower f).mgmt = s.mgmt := rfl
@[simp] theorem updPower_outbox (s : State) (f : Power → Power) : (s.updPower f).outbox = s.outbox := rfl
@[simp] theorem updPower_power (s : State) (f : Power → Power) : (s.updPower f).power = f s.power := rfl

@[simp] theorem updTime_pending (s : State) (f : Time → Time) : (s.updTime f).pending = s.pending := rfl
@[simp] theorem updTime_fresh (s : State) (f : Time → Time) : (s.updTime f).fresh = s.fresh := rfl
@[simp] theorem updTime_sys (s : State) (f : Time → Time) : (s.updTime f).sys = s.sys := rfl
@[simp] theorem updTime_coaches (s : State) (f : Time → Time) : (s.updTime f).coaches = s.coaches := rfl
@[simp] theorem updTime_llc (s : State) (f : Time → Time) : (s.updTime f).llc = s.llc := rfl
@[simp] theorem updTime_mem (s : State) (f : Time → Time) : (s.updTime f).mem = s.mem := rfl
@[simp] theorem updTime_hostMem (s : State) (f : Time → Time) : (s.updTime f).hostMem = s.hostMem := rfl
@[simp] theorem updTime_flash (s : State) (f : Time → Time) : (s.updTime f).flash = s.flash := rfl
@[simp] theorem updTime_movers (s : State) (f : Time → Time) : (s.updTime f).movers = s.movers := rfl
@[simp] theorem updTime_engines (s : State) (f : Time → Time) : (s.updTime f).engines = s.engines := rfl
@[simp] theorem updTime_ports (s : State) (f : Time → Time) : (s.updTime f).ports = s.ports := rfl
@[simp] theorem updTime_flows (s : State) (f : Time → Time) : (s.updTime f).flows = s.flows := rfl
@[simp] theorem updTime_arrivals (s : State) (f : Time → Time) : (s.updTime f).arrivals = s.arrivals := rfl
@[simp] theorem updTime_early (s : State) (f : Time → Time) : (s.updTime f).early = s.early := rfl
@[simp] theorem updTime_colls (s : State) (f : Time → Time) : (s.updTime f).colls = s.colls := rfl
@[simp] theorem updTime_chans (s : State) (f : Time → Time) : (s.updTime f).chans = s.chans := rfl
@[simp] theorem updTime_sems (s : State) (f : Time → Time) : (s.updTime f).sems = s.sems := rfl
@[simp] theorem updTime_halt (s : State) (f : Time → Time) : (s.updTime f).halt = s.halt := rfl
@[simp] theorem updTime_watch (s : State) (f : Time → Time) : (s.updTime f).watch = s.watch := rfl
@[simp] theorem updTime_tender (s : State) (f : Time → Time) : (s.updTime f).tender = s.tender := rfl
@[simp] theorem updTime_ledger (s : State) (f : Time → Time) : (s.updTime f).ledger = s.ledger := rfl
@[simp] theorem updTime_way (s : State) (f : Time → Time) : (s.updTime f).way = s.way := rfl
@[simp] theorem updTime_rings (s : State) (f : Time → Time) : (s.updTime f).rings = s.rings := rfl
@[simp] theorem updTime_power (s : State) (f : Time → Time) : (s.updTime f).power = s.power := rfl
@[simp] theorem updTime_mgmt (s : State) (f : Time → Time) : (s.updTime f).mgmt = s.mgmt := rfl
@[simp] theorem updTime_outbox (s : State) (f : Time → Time) : (s.updTime f).outbox = s.outbox := rfl
@[simp] theorem updTime_time (s : State) (f : Time → Time) : (s.updTime f).time = f s.time := rfl

@[simp] theorem updSys_pending (s : State) (f : Sys → Sys) : (s.updSys f).pending = s.pending := rfl
@[simp] theorem updSys_fresh (s : State) (f : Sys → Sys) : (s.updSys f).fresh = s.fresh := rfl
@[simp] theorem updSys_coaches (s : State) (f : Sys → Sys) : (s.updSys f).coaches = s.coaches := rfl
@[simp] theorem updSys_llc (s : State) (f : Sys → Sys) : (s.updSys f).llc = s.llc := rfl
@[simp] theorem updSys_mem (s : State) (f : Sys → Sys) : (s.updSys f).mem = s.mem := rfl
@[simp] theorem updSys_hostMem (s : State) (f : Sys → Sys) : (s.updSys f).hostMem = s.hostMem := rfl
@[simp] theorem updSys_flash (s : State) (f : Sys → Sys) : (s.updSys f).flash = s.flash := rfl
@[simp] theorem updSys_movers (s : State) (f : Sys → Sys) : (s.updSys f).movers = s.movers := rfl
@[simp] theorem updSys_engines (s : State) (f : Sys → Sys) : (s.updSys f).engines = s.engines := rfl
@[simp] theorem updSys_ports (s : State) (f : Sys → Sys) : (s.updSys f).ports = s.ports := rfl
@[simp] theorem updSys_flows (s : State) (f : Sys → Sys) : (s.updSys f).flows = s.flows := rfl
@[simp] theorem updSys_arrivals (s : State) (f : Sys → Sys) : (s.updSys f).arrivals = s.arrivals := rfl
@[simp] theorem updSys_early (s : State) (f : Sys → Sys) : (s.updSys f).early = s.early := rfl
@[simp] theorem updSys_colls (s : State) (f : Sys → Sys) : (s.updSys f).colls = s.colls := rfl
@[simp] theorem updSys_chans (s : State) (f : Sys → Sys) : (s.updSys f).chans = s.chans := rfl
@[simp] theorem updSys_sems (s : State) (f : Sys → Sys) : (s.updSys f).sems = s.sems := rfl
@[simp] theorem updSys_halt (s : State) (f : Sys → Sys) : (s.updSys f).halt = s.halt := rfl
@[simp] theorem updSys_watch (s : State) (f : Sys → Sys) : (s.updSys f).watch = s.watch := rfl
@[simp] theorem updSys_tender (s : State) (f : Sys → Sys) : (s.updSys f).tender = s.tender := rfl
@[simp] theorem updSys_ledger (s : State) (f : Sys → Sys) : (s.updSys f).ledger = s.ledger := rfl
@[simp] theorem updSys_way (s : State) (f : Sys → Sys) : (s.updSys f).way = s.way := rfl
@[simp] theorem updSys_rings (s : State) (f : Sys → Sys) : (s.updSys f).rings = s.rings := rfl
@[simp] theorem updSys_time (s : State) (f : Sys → Sys) : (s.updSys f).time = s.time := rfl
@[simp] theorem updSys_power (s : State) (f : Sys → Sys) : (s.updSys f).power = s.power := rfl
@[simp] theorem updSys_mgmt (s : State) (f : Sys → Sys) : (s.updSys f).mgmt = s.mgmt := rfl
@[simp] theorem updSys_outbox (s : State) (f : Sys → Sys) : (s.updSys f).outbox = s.outbox := rfl
@[simp] theorem updSys_sys (s : State) (f : Sys → Sys) : (s.updSys f).sys = f s.sys := rfl

@[simp] theorem updHalt_pending (s : State) (f : Halt → Halt) : (s.updHalt f).pending = s.pending := rfl
@[simp] theorem updHalt_fresh (s : State) (f : Halt → Halt) : (s.updHalt f).fresh = s.fresh := rfl
@[simp] theorem updHalt_sys (s : State) (f : Halt → Halt) : (s.updHalt f).sys = s.sys := rfl
@[simp] theorem updHalt_coaches (s : State) (f : Halt → Halt) : (s.updHalt f).coaches = s.coaches := rfl
@[simp] theorem updHalt_llc (s : State) (f : Halt → Halt) : (s.updHalt f).llc = s.llc := rfl
@[simp] theorem updHalt_mem (s : State) (f : Halt → Halt) : (s.updHalt f).mem = s.mem := rfl
@[simp] theorem updHalt_hostMem (s : State) (f : Halt → Halt) : (s.updHalt f).hostMem = s.hostMem := rfl
@[simp] theorem updHalt_flash (s : State) (f : Halt → Halt) : (s.updHalt f).flash = s.flash := rfl
@[simp] theorem updHalt_movers (s : State) (f : Halt → Halt) : (s.updHalt f).movers = s.movers := rfl
@[simp] theorem updHalt_engines (s : State) (f : Halt → Halt) : (s.updHalt f).engines = s.engines := rfl
@[simp] theorem updHalt_ports (s : State) (f : Halt → Halt) : (s.updHalt f).ports = s.ports := rfl
@[simp] theorem updHalt_flows (s : State) (f : Halt → Halt) : (s.updHalt f).flows = s.flows := rfl
@[simp] theorem updHalt_arrivals (s : State) (f : Halt → Halt) : (s.updHalt f).arrivals = s.arrivals := rfl
@[simp] theorem updHalt_early (s : State) (f : Halt → Halt) : (s.updHalt f).early = s.early := rfl
@[simp] theorem updHalt_colls (s : State) (f : Halt → Halt) : (s.updHalt f).colls = s.colls := rfl
@[simp] theorem updHalt_chans (s : State) (f : Halt → Halt) : (s.updHalt f).chans = s.chans := rfl
@[simp] theorem updHalt_sems (s : State) (f : Halt → Halt) : (s.updHalt f).sems = s.sems := rfl
@[simp] theorem updHalt_watch (s : State) (f : Halt → Halt) : (s.updHalt f).watch = s.watch := rfl
@[simp] theorem updHalt_tender (s : State) (f : Halt → Halt) : (s.updHalt f).tender = s.tender := rfl
@[simp] theorem updHalt_ledger (s : State) (f : Halt → Halt) : (s.updHalt f).ledger = s.ledger := rfl
@[simp] theorem updHalt_way (s : State) (f : Halt → Halt) : (s.updHalt f).way = s.way := rfl
@[simp] theorem updHalt_rings (s : State) (f : Halt → Halt) : (s.updHalt f).rings = s.rings := rfl
@[simp] theorem updHalt_time (s : State) (f : Halt → Halt) : (s.updHalt f).time = s.time := rfl
@[simp] theorem updHalt_power (s : State) (f : Halt → Halt) : (s.updHalt f).power = s.power := rfl
@[simp] theorem updHalt_mgmt (s : State) (f : Halt → Halt) : (s.updHalt f).mgmt = s.mgmt := rfl
@[simp] theorem updHalt_outbox (s : State) (f : Halt → Halt) : (s.updHalt f).outbox = s.outbox := rfl
@[simp] theorem updHalt_halt (s : State) (f : Halt → Halt) : (s.updHalt f).halt = f s.halt := rfl

@[simp] theorem updLedger_pending (s : State) (f : Ledger → Ledger) : (s.updLedger f).pending = s.pending := rfl
@[simp] theorem updLedger_fresh (s : State) (f : Ledger → Ledger) : (s.updLedger f).fresh = s.fresh := rfl
@[simp] theorem updLedger_sys (s : State) (f : Ledger → Ledger) : (s.updLedger f).sys = s.sys := rfl
@[simp] theorem updLedger_coaches (s : State) (f : Ledger → Ledger) : (s.updLedger f).coaches = s.coaches := rfl
@[simp] theorem updLedger_llc (s : State) (f : Ledger → Ledger) : (s.updLedger f).llc = s.llc := rfl
@[simp] theorem updLedger_mem (s : State) (f : Ledger → Ledger) : (s.updLedger f).mem = s.mem := rfl
@[simp] theorem updLedger_hostMem (s : State) (f : Ledger → Ledger) : (s.updLedger f).hostMem = s.hostMem := rfl
@[simp] theorem updLedger_flash (s : State) (f : Ledger → Ledger) : (s.updLedger f).flash = s.flash := rfl
@[simp] theorem updLedger_movers (s : State) (f : Ledger → Ledger) : (s.updLedger f).movers = s.movers := rfl
@[simp] theorem updLedger_engines (s : State) (f : Ledger → Ledger) : (s.updLedger f).engines = s.engines := rfl
@[simp] theorem updLedger_ports (s : State) (f : Ledger → Ledger) : (s.updLedger f).ports = s.ports := rfl
@[simp] theorem updLedger_flows (s : State) (f : Ledger → Ledger) : (s.updLedger f).flows = s.flows := rfl
@[simp] theorem updLedger_arrivals (s : State) (f : Ledger → Ledger) : (s.updLedger f).arrivals = s.arrivals := rfl
@[simp] theorem updLedger_early (s : State) (f : Ledger → Ledger) : (s.updLedger f).early = s.early := rfl
@[simp] theorem updLedger_colls (s : State) (f : Ledger → Ledger) : (s.updLedger f).colls = s.colls := rfl
@[simp] theorem updLedger_chans (s : State) (f : Ledger → Ledger) : (s.updLedger f).chans = s.chans := rfl
@[simp] theorem updLedger_sems (s : State) (f : Ledger → Ledger) : (s.updLedger f).sems = s.sems := rfl
@[simp] theorem updLedger_halt (s : State) (f : Ledger → Ledger) : (s.updLedger f).halt = s.halt := rfl
@[simp] theorem updLedger_watch (s : State) (f : Ledger → Ledger) : (s.updLedger f).watch = s.watch := rfl
@[simp] theorem updLedger_tender (s : State) (f : Ledger → Ledger) : (s.updLedger f).tender = s.tender := rfl
@[simp] theorem updLedger_way (s : State) (f : Ledger → Ledger) : (s.updLedger f).way = s.way := rfl
@[simp] theorem updLedger_rings (s : State) (f : Ledger → Ledger) : (s.updLedger f).rings = s.rings := rfl
@[simp] theorem updLedger_time (s : State) (f : Ledger → Ledger) : (s.updLedger f).time = s.time := rfl
@[simp] theorem updLedger_power (s : State) (f : Ledger → Ledger) : (s.updLedger f).power = s.power := rfl
@[simp] theorem updLedger_mgmt (s : State) (f : Ledger → Ledger) : (s.updLedger f).mgmt = s.mgmt := rfl
@[simp] theorem updLedger_outbox (s : State) (f : Ledger → Ledger) : (s.updLedger f).outbox = s.outbox := rfl
@[simp] theorem updLedger_ledger (s : State) (f : Ledger → Ledger) : (s.updLedger f).ledger = f s.ledger := rfl

@[simp] theorem updWatch_pending (s : State) (f : Watch → Watch) : (s.updWatch f).pending = s.pending := rfl
@[simp] theorem updWatch_fresh (s : State) (f : Watch → Watch) : (s.updWatch f).fresh = s.fresh := rfl
@[simp] theorem updWatch_sys (s : State) (f : Watch → Watch) : (s.updWatch f).sys = s.sys := rfl
@[simp] theorem updWatch_coaches (s : State) (f : Watch → Watch) : (s.updWatch f).coaches = s.coaches := rfl
@[simp] theorem updWatch_llc (s : State) (f : Watch → Watch) : (s.updWatch f).llc = s.llc := rfl
@[simp] theorem updWatch_mem (s : State) (f : Watch → Watch) : (s.updWatch f).mem = s.mem := rfl
@[simp] theorem updWatch_hostMem (s : State) (f : Watch → Watch) : (s.updWatch f).hostMem = s.hostMem := rfl
@[simp] theorem updWatch_flash (s : State) (f : Watch → Watch) : (s.updWatch f).flash = s.flash := rfl
@[simp] theorem updWatch_movers (s : State) (f : Watch → Watch) : (s.updWatch f).movers = s.movers := rfl
@[simp] theorem updWatch_engines (s : State) (f : Watch → Watch) : (s.updWatch f).engines = s.engines := rfl
@[simp] theorem updWatch_ports (s : State) (f : Watch → Watch) : (s.updWatch f).ports = s.ports := rfl
@[simp] theorem updWatch_flows (s : State) (f : Watch → Watch) : (s.updWatch f).flows = s.flows := rfl
@[simp] theorem updWatch_arrivals (s : State) (f : Watch → Watch) : (s.updWatch f).arrivals = s.arrivals := rfl
@[simp] theorem updWatch_early (s : State) (f : Watch → Watch) : (s.updWatch f).early = s.early := rfl
@[simp] theorem updWatch_colls (s : State) (f : Watch → Watch) : (s.updWatch f).colls = s.colls := rfl
@[simp] theorem updWatch_chans (s : State) (f : Watch → Watch) : (s.updWatch f).chans = s.chans := rfl
@[simp] theorem updWatch_sems (s : State) (f : Watch → Watch) : (s.updWatch f).sems = s.sems := rfl
@[simp] theorem updWatch_halt (s : State) (f : Watch → Watch) : (s.updWatch f).halt = s.halt := rfl
@[simp] theorem updWatch_tender (s : State) (f : Watch → Watch) : (s.updWatch f).tender = s.tender := rfl
@[simp] theorem updWatch_ledger (s : State) (f : Watch → Watch) : (s.updWatch f).ledger = s.ledger := rfl
@[simp] theorem updWatch_way (s : State) (f : Watch → Watch) : (s.updWatch f).way = s.way := rfl
@[simp] theorem updWatch_rings (s : State) (f : Watch → Watch) : (s.updWatch f).rings = s.rings := rfl
@[simp] theorem updWatch_time (s : State) (f : Watch → Watch) : (s.updWatch f).time = s.time := rfl
@[simp] theorem updWatch_power (s : State) (f : Watch → Watch) : (s.updWatch f).power = s.power := rfl
@[simp] theorem updWatch_mgmt (s : State) (f : Watch → Watch) : (s.updWatch f).mgmt = s.mgmt := rfl
@[simp] theorem updWatch_outbox (s : State) (f : Watch → Watch) : (s.updWatch f).outbox = s.outbox := rfl
@[simp] theorem updWatch_watch (s : State) (f : Watch → Watch) : (s.updWatch f).watch = f s.watch := rfl

@[simp] theorem updRings_pending (s : State) (f : Rings → Rings) : (s.updRings f).pending = s.pending := rfl
@[simp] theorem updRings_fresh (s : State) (f : Rings → Rings) : (s.updRings f).fresh = s.fresh := rfl
@[simp] theorem updRings_sys (s : State) (f : Rings → Rings) : (s.updRings f).sys = s.sys := rfl
@[simp] theorem updRings_coaches (s : State) (f : Rings → Rings) : (s.updRings f).coaches = s.coaches := rfl
@[simp] theorem updRings_llc (s : State) (f : Rings → Rings) : (s.updRings f).llc = s.llc := rfl
@[simp] theorem updRings_mem (s : State) (f : Rings → Rings) : (s.updRings f).mem = s.mem := rfl
@[simp] theorem updRings_hostMem (s : State) (f : Rings → Rings) : (s.updRings f).hostMem = s.hostMem := rfl
@[simp] theorem updRings_flash (s : State) (f : Rings → Rings) : (s.updRings f).flash = s.flash := rfl
@[simp] theorem updRings_movers (s : State) (f : Rings → Rings) : (s.updRings f).movers = s.movers := rfl
@[simp] theorem updRings_engines (s : State) (f : Rings → Rings) : (s.updRings f).engines = s.engines := rfl
@[simp] theorem updRings_ports (s : State) (f : Rings → Rings) : (s.updRings f).ports = s.ports := rfl
@[simp] theorem updRings_flows (s : State) (f : Rings → Rings) : (s.updRings f).flows = s.flows := rfl
@[simp] theorem updRings_arrivals (s : State) (f : Rings → Rings) : (s.updRings f).arrivals = s.arrivals := rfl
@[simp] theorem updRings_early (s : State) (f : Rings → Rings) : (s.updRings f).early = s.early := rfl
@[simp] theorem updRings_colls (s : State) (f : Rings → Rings) : (s.updRings f).colls = s.colls := rfl
@[simp] theorem updRings_chans (s : State) (f : Rings → Rings) : (s.updRings f).chans = s.chans := rfl
@[simp] theorem updRings_sems (s : State) (f : Rings → Rings) : (s.updRings f).sems = s.sems := rfl
@[simp] theorem updRings_halt (s : State) (f : Rings → Rings) : (s.updRings f).halt = s.halt := rfl
@[simp] theorem updRings_watch (s : State) (f : Rings → Rings) : (s.updRings f).watch = s.watch := rfl
@[simp] theorem updRings_tender (s : State) (f : Rings → Rings) : (s.updRings f).tender = s.tender := rfl
@[simp] theorem updRings_ledger (s : State) (f : Rings → Rings) : (s.updRings f).ledger = s.ledger := rfl
@[simp] theorem updRings_way (s : State) (f : Rings → Rings) : (s.updRings f).way = s.way := rfl
@[simp] theorem updRings_time (s : State) (f : Rings → Rings) : (s.updRings f).time = s.time := rfl
@[simp] theorem updRings_power (s : State) (f : Rings → Rings) : (s.updRings f).power = s.power := rfl
@[simp] theorem updRings_mgmt (s : State) (f : Rings → Rings) : (s.updRings f).mgmt = s.mgmt := rfl
@[simp] theorem updRings_outbox (s : State) (f : Rings → Rings) : (s.updRings f).outbox = s.outbox := rfl
@[simp] theorem updRings_rings (s : State) (f : Rings → Rings) : (s.updRings f).rings = f s.rings := rfl

@[simp] theorem updCoach_coach_same (s : State) (k : Nat) (f : Coach → Coach) : (s.updCoach k f).coach k = f (s.coach k) := mget_mupd_same _ _ _ _
theorem updCoach_coach_other (s : State) {k j : Nat} (f : Coach → Coach) (h : j ≠ k) : (s.updCoach k f).coach j = s.coach j := mget_mupd_other _ _ _ h
theorem updCoach_coach (s : State) (k j : Nat) (f : Coach → Coach) : (s.updCoach k f).coach j = if j = k then f (s.coach k) else s.coach j := mget_mupd _ _ _ _ _
@[simp] theorem updMover_mover_same (s : State) (k : Nat) (f : Mover → Mover) : (s.updMover k f).mover k = f (s.mover k) := mget_mupd_same _ _ _ _
theorem updMover_mover_other (s : State) {k j : Nat} (f : Mover → Mover) (h : j ≠ k) : (s.updMover k f).mover j = s.mover j := mget_mupd_other _ _ _ h
theorem updMover_mover (s : State) (k j : Nat) (f : Mover → Mover) : (s.updMover k f).mover j = if j = k then f (s.mover k) else s.mover j := mget_mupd _ _ _ _ _
@[simp] theorem updEngine_engine_same (s : State) (k : Nat) (f : Engine → Engine) : (s.updEngine k f).engine k = f (s.engine k) := mget_mupd_same _ _ _ _
theorem updEngine_engine_other (s : State) {k j : Nat} (f : Engine → Engine) (h : j ≠ k) : (s.updEngine k f).engine j = s.engine j := mget_mupd_other _ _ _ h
theorem updEngine_engine (s : State) (k j : Nat) (f : Engine → Engine) : (s.updEngine k f).engine j = if j = k then f (s.engine k) else s.engine j := mget_mupd _ _ _ _ _
@[simp] theorem updPort_port_same (s : State) (k : Nat) (f : PortState → PortState) : (s.updPort k f).port k = f (s.port k) := mget_mupd_same _ _ _ _
theorem updPort_port_other (s : State) {k j : Nat} (f : PortState → PortState) (h : j ≠ k) : (s.updPort k f).port j = s.port j := mget_mupd_other _ _ _ h
theorem updPort_port (s : State) (k j : Nat) (f : PortState → PortState) : (s.updPort k f).port j = if j = k then f (s.port k) else s.port j := mget_mupd _ _ _ _ _
@[simp] theorem updFlow_flow_same (s : State) (k : Nat) (f : Flow → Flow) : (s.updFlow k f).flow k = f (s.flow k) := mget_mupd_same _ _ _ _
theorem updFlow_flow_other (s : State) {k j : Nat} (f : Flow → Flow) (h : j ≠ k) : (s.updFlow k f).flow j = s.flow j := mget_mupd_other _ _ _ h
theorem updFlow_flow (s : State) (k j : Nat) (f : Flow → Flow) : (s.updFlow k f).flow j = if j = k then f (s.flow k) else s.flow j := mget_mupd _ _ _ _ _
@[simp] theorem updColl_coll_same (s : State) (k : Nat) (f : CollQ → CollQ) : (s.updColl k f).coll k = f (s.coll k) := mget_mupd_same _ _ _ _
theorem updColl_coll_other (s : State) {k j : Nat} (f : CollQ → CollQ) (h : j ≠ k) : (s.updColl k f).coll j = s.coll j := mget_mupd_other _ _ _ h
theorem updColl_coll (s : State) (k j : Nat) (f : CollQ → CollQ) : (s.updColl k f).coll j = if j = k then f (s.coll k) else s.coll j := mget_mupd _ _ _ _ _
@[simp] theorem updChan_chan_same (s : State) (k : Nat) (f : Channel → Channel) : (s.updChan k f).chan k = f (s.chan k) := mget_mupd_same _ _ _ _
theorem updChan_chan_other (s : State) {k j : Nat} (f : Channel → Channel) (h : j ≠ k) : (s.updChan k f).chan j = s.chan j := mget_mupd_other _ _ _ h
theorem updChan_chan (s : State) (k j : Nat) (f : Channel → Channel) : (s.updChan k f).chan j = if j = k then f (s.chan k) else s.chan j := mget_mupd _ _ _ _ _
@[simp] theorem updSem_sem_same (s : State) (k : Nat) (f : Sem → Sem) : (s.updSem k f).sem k = f (s.sem k) := mget_mupd_same _ _ _ _
theorem updSem_sem_other (s : State) {k j : Nat} (f : Sem → Sem) (h : j ≠ k) : (s.updSem k f).sem j = s.sem j := mget_mupd_other _ _ _ h
theorem updSem_sem (s : State) (k j : Nat) (f : Sem → Sem) : (s.updSem k f).sem j = if j = k then f (s.sem k) else s.sem j := mget_mupd _ _ _ _ _
@[simp] theorem updSlot_slot_same (s : State) (k : Nat) (f : Slot → Slot) : (s.updSlot k f).slot k = f (s.slot k) := mget_mupd_same _ _ _ _
theorem updSlot_slot_other (s : State) {k j : Nat} (f : Slot → Slot) (h : j ≠ k) : (s.updSlot k f).slot j = s.slot j := mget_mupd_other _ _ _ h
theorem updSlot_slot (s : State) (k j : Nat) (f : Slot → Slot) : (s.updSlot k f).slot j = if j = k then f (s.slot k) else s.slot j := mget_mupd _ _ _ _ _
@[simp] theorem updAgree_agree_same (s : State) (k : Nat) (f : Agree → Agree) : (s.updAgree k f).agree k = f (s.agree k) := mget_mupd_same _ _ _ _
theorem updAgree_agree_other (s : State) {k j : Nat} (f : Agree → Agree) (h : j ≠ k) : (s.updAgree k f).agree j = s.agree j := mget_mupd_other _ _ _ h
theorem updAgree_agree (s : State) (k j : Nat) (f : Agree → Agree) : (s.updAgree k f).agree j = if j = k then f (s.agree k) else s.agree j := mget_mupd _ _ _ _ _
@[simp] theorem updStack_stack_same (s : State) (k : Nat) (f : StackState → StackState) : (s.updStack k f).stack k = f (s.stack k) := mget_mupd_same _ _ _ _
theorem updStack_stack_other (s : State) {k j : Nat} (f : StackState → StackState) (h : j ≠ k) : (s.updStack k f).stack j = s.stack j := mget_mupd_other _ _ _ h
theorem updStack_stack (s : State) (k j : Nat) (f : StackState → StackState) : (s.updStack k f).stack j = if j = k then f (s.stack k) else s.stack j := mget_mupd _ _ _ _ _
@[simp] theorem updPseudo_pseudo_same (s : State) (k : Nat) (f : PcStats → PcStats) : (s.updPseudo k f).pseudo k = f (s.pseudo k) := mget_mupd_same _ _ _ _
theorem updPseudo_pseudo_other (s : State) {k j : Nat} (f : PcStats → PcStats) (h : j ≠ k) : (s.updPseudo k f).pseudo j = s.pseudo j := mget_mupd_other _ _ _ h
theorem updPseudo_pseudo (s : State) (k j : Nat) (f : PcStats → PcStats) : (s.updPseudo k f).pseudo j = if j = k then f (s.pseudo k) else s.pseudo j := mget_mupd _ _ _ _ _
@[simp] theorem updSlice_slice_same (s : State) (k : Nat) (f : SliceStats → SliceStats) : (s.updSlice k f).slice k = f (s.slice k) := mget_mupd_same _ _ _ _
theorem updSlice_slice_other (s : State) {k j : Nat} (f : SliceStats → SliceStats) (h : j ≠ k) : (s.updSlice k f).slice j = s.slice j := mget_mupd_other _ _ _ h
theorem updSlice_slice (s : State) (k j : Nat) (f : SliceStats → SliceStats) : (s.updSlice k f).slice j = if j = k then f (s.slice k) else s.slice j := mget_mupd _ _ _ _ _
@[simp] theorem updPair_pair_same (s : State) (k : Nat) (f : Pair → Pair) : (s.updPair k f).pair k = f (s.pair k) := mget_mupd_same _ _ _ _
theorem updPair_pair_other (s : State) {k j : Nat} (f : Pair → Pair) (h : j ≠ k) : (s.updPair k f).pair j = s.pair j := mget_mupd_other _ _ _ h
theorem updPair_pair (s : State) (k j : Nat) (f : Pair → Pair) : (s.updPair k f).pair j = if j = k then f (s.pair k) else s.pair j := mget_mupd _ _ _ _ _
@[simp] theorem updFw_fwOf_same (s : State) (k : Nat) (f : Fw → Fw) : (s.updFw k f).fwOf k = f (s.fwOf k) := mget_mupd_same _ _ _ _
theorem updFw_fwOf_other (s : State) {k j : Nat} (f : Fw → Fw) (h : j ≠ k) : (s.updFw k f).fwOf j = s.fwOf j := mget_mupd_other _ _ _ h
theorem updFw_fwOf (s : State) (k j : Nat) (f : Fw → Fw) : (s.updFw k f).fwOf j = if j = k then f (s.fwOf k) else s.fwOf j := mget_mupd _ _ _ _ _
@[simp] theorem updAlarm_alarm_same (s : State) (k : Nat) (f : Alarm → Alarm) : (s.updAlarm k f).alarm k = f (s.alarm k) := mget_mupd_same _ _ _ _
theorem updAlarm_alarm_other (s : State) {k j : Nat} (f : Alarm → Alarm) (h : j ≠ k) : (s.updAlarm k f).alarm j = s.alarm j := mget_mupd_other _ _ _ h
theorem updAlarm_alarm (s : State) (k j : Nat) (f : Alarm → Alarm) : (s.updAlarm k f).alarm j = if j = k then f (s.alarm k) else s.alarm j := mget_mupd _ _ _ _ _

@[simp] theorem updSeat_seat_same (s : State) (r : SeatRef) (f : Seat → Seat) : (s.updSeat r f).seat r = f (s.seat r) := by
  simp [State.updSeat, State.seat, Coach.seat]

/-- Another seat, of the same or another coach, is unchanged. -/
theorem updSeat_seat_other (s : State) {r q : SeatRef} (f : Seat → Seat) (h : q ≠ r) : (s.updSeat r f).seat q = s.seat q := by
  unfold State.updSeat State.seat
  by_cases hc : q.coach = r.coach
  · have ht : (q.seat : Nat) ≠ r.seat := by
      intro he
      apply h
      cases q; cases r
      simp_all [Fin.ext_iff]
    rw [hc, updCoach_coach_same]
    exact mget_mupd_other _ _ _ ht
  · rw [updCoach_coach_other]
    exact fun he => hc (Fin.ext he)

/-- Another coach is unchanged. -/
theorem updSeat_coach_other (s : State) (r : SeatRef) {c : Nat} (f : Seat → Seat) (h : c ≠ r.coach) :
    (s.updSeat r f).coach c = s.coach c := updCoach_coach_other s _ h

@[simp] theorem raise_pending (s : State) (a b c : Nat) : (s.raise a b c).pending = s.pending := by unfold State.raise; dsimp only; split <;> rfl
@[simp] theorem raise_fresh (s : State) (a b c : Nat) : (s.raise a b c).fresh = s.fresh := by unfold State.raise; dsimp only; split <;> rfl
@[simp] theorem raise_sys (s : State) (a b c : Nat) : (s.raise a b c).sys = s.sys := by unfold State.raise; dsimp only; split <;> rfl
@[simp] theorem raise_coaches (s : State) (a b c : Nat) : (s.raise a b c).coaches = s.coaches := by unfold State.raise; dsimp only; split <;> rfl
@[simp] theorem raise_llc (s : State) (a b c : Nat) : (s.raise a b c).llc = s.llc := by unfold State.raise; dsimp only; split <;> rfl
@[simp] theorem raise_mem (s : State) (a b c : Nat) : (s.raise a b c).mem = s.mem := by unfold State.raise; dsimp only; split <;> rfl
@[simp] theorem raise_hostMem (s : State) (a b c : Nat) : (s.raise a b c).hostMem = s.hostMem := by unfold State.raise; dsimp only; split <;> rfl
@[simp] theorem raise_flash (s : State) (a b c : Nat) : (s.raise a b c).flash = s.flash := by unfold State.raise; dsimp only; split <;> rfl
@[simp] theorem raise_movers (s : State) (a b c : Nat) : (s.raise a b c).movers = s.movers := by unfold State.raise; dsimp only; split <;> rfl
@[simp] theorem raise_engines (s : State) (a b c : Nat) : (s.raise a b c).engines = s.engines := by unfold State.raise; dsimp only; split <;> rfl
@[simp] theorem raise_ports (s : State) (a b c : Nat) : (s.raise a b c).ports = s.ports := by unfold State.raise; dsimp only; split <;> rfl
@[simp] theorem raise_flows (s : State) (a b c : Nat) : (s.raise a b c).flows = s.flows := by unfold State.raise; dsimp only; split <;> rfl
@[simp] theorem raise_arrivals (s : State) (a b c : Nat) : (s.raise a b c).arrivals = s.arrivals := by unfold State.raise; dsimp only; split <;> rfl
@[simp] theorem raise_early (s : State) (a b c : Nat) : (s.raise a b c).early = s.early := by unfold State.raise; dsimp only; split <;> rfl
@[simp] theorem raise_colls (s : State) (a b c : Nat) : (s.raise a b c).colls = s.colls := by unfold State.raise; dsimp only; split <;> rfl
@[simp] theorem raise_chans (s : State) (a b c : Nat) : (s.raise a b c).chans = s.chans := by unfold State.raise; dsimp only; split <;> rfl
@[simp] theorem raise_sems (s : State) (a b c : Nat) : (s.raise a b c).sems = s.sems := by unfold State.raise; dsimp only; split <;> rfl
@[simp] theorem raise_halt (s : State) (a b c : Nat) : (s.raise a b c).halt = s.halt := by unfold State.raise; dsimp only; split <;> rfl
@[simp] theorem raise_watch (s : State) (a b c : Nat) : (s.raise a b c).watch = s.watch := by unfold State.raise; dsimp only; split <;> rfl
@[simp] theorem raise_tender (s : State) (a b c : Nat) : (s.raise a b c).tender = s.tender := by unfold State.raise; dsimp only; split <;> rfl
@[simp] theorem raise_ledger (s : State) (a b c : Nat) : (s.raise a b c).ledger = s.ledger := by unfold State.raise; dsimp only; split <;> rfl
@[simp] theorem raise_way (s : State) (a b c : Nat) : (s.raise a b c).way = s.way := by unfold State.raise; dsimp only; split <;> rfl
@[simp] theorem raise_time (s : State) (a b c : Nat) : (s.raise a b c).time = s.time := by unfold State.raise; dsimp only; split <;> rfl
@[simp] theorem raise_power (s : State) (a b c : Nat) : (s.raise a b c).power = s.power := by unfold State.raise; dsimp only; split <;> rfl
@[simp] theorem raise_mgmt (s : State) (a b c : Nat) : (s.raise a b c).mgmt = s.mgmt := by unfold State.raise; dsimp only; split <;> rfl
@[simp] theorem raise_outbox (s : State) (a b c : Nat) : (s.raise a b c).outbox = s.outbox := by unfold State.raise; dsimp only; split <;> rfl
@[simp] theorem send_pending (s : State) (o : Out) : (s.send o).pending = s.pending := rfl
@[simp] theorem send_fresh (s : State) (o : Out) : (s.send o).fresh = s.fresh := rfl
@[simp] theorem send_sys (s : State) (o : Out) : (s.send o).sys = s.sys := rfl
@[simp] theorem send_coaches (s : State) (o : Out) : (s.send o).coaches = s.coaches := rfl
@[simp] theorem send_llc (s : State) (o : Out) : (s.send o).llc = s.llc := rfl
@[simp] theorem send_mem (s : State) (o : Out) : (s.send o).mem = s.mem := rfl
@[simp] theorem send_hostMem (s : State) (o : Out) : (s.send o).hostMem = s.hostMem := rfl
@[simp] theorem send_flash (s : State) (o : Out) : (s.send o).flash = s.flash := rfl
@[simp] theorem send_movers (s : State) (o : Out) : (s.send o).movers = s.movers := rfl
@[simp] theorem send_engines (s : State) (o : Out) : (s.send o).engines = s.engines := rfl
@[simp] theorem send_ports (s : State) (o : Out) : (s.send o).ports = s.ports := rfl
@[simp] theorem send_flows (s : State) (o : Out) : (s.send o).flows = s.flows := rfl
@[simp] theorem send_arrivals (s : State) (o : Out) : (s.send o).arrivals = s.arrivals := rfl
@[simp] theorem send_early (s : State) (o : Out) : (s.send o).early = s.early := rfl
@[simp] theorem send_colls (s : State) (o : Out) : (s.send o).colls = s.colls := rfl
@[simp] theorem send_chans (s : State) (o : Out) : (s.send o).chans = s.chans := rfl
@[simp] theorem send_sems (s : State) (o : Out) : (s.send o).sems = s.sems := rfl
@[simp] theorem send_halt (s : State) (o : Out) : (s.send o).halt = s.halt := rfl
@[simp] theorem send_watch (s : State) (o : Out) : (s.send o).watch = s.watch := rfl
@[simp] theorem send_tender (s : State) (o : Out) : (s.send o).tender = s.tender := rfl
@[simp] theorem send_ledger (s : State) (o : Out) : (s.send o).ledger = s.ledger := rfl
@[simp] theorem send_way (s : State) (o : Out) : (s.send o).way = s.way := rfl
@[simp] theorem send_rings (s : State) (o : Out) : (s.send o).rings = s.rings := rfl
@[simp] theorem send_time (s : State) (o : Out) : (s.send o).time = s.time := rfl
@[simp] theorem send_power (s : State) (o : Out) : (s.send o).power = s.power := rfl
@[simp] theorem send_mgmt (s : State) (o : Out) : (s.send o).mgmt = s.mgmt := rfl
@[simp] theorem send_outbox (s : State) (o : Out) : (s.send o).outbox = s.outbox ++ [o] := rfl
@[simp] theorem free_pending (s : State) : s.free.2.pending = s.pending := rfl
@[simp] theorem free_sys (s : State) : s.free.2.sys = s.sys := rfl
@[simp] theorem free_coaches (s : State) : s.free.2.coaches = s.coaches := rfl
@[simp] theorem free_llc (s : State) : s.free.2.llc = s.llc := rfl
@[simp] theorem free_mem (s : State) : s.free.2.mem = s.mem := rfl
@[simp] theorem free_hostMem (s : State) : s.free.2.hostMem = s.hostMem := rfl
@[simp] theorem free_flash (s : State) : s.free.2.flash = s.flash := rfl
@[simp] theorem free_movers (s : State) : s.free.2.movers = s.movers := rfl
@[simp] theorem free_engines (s : State) : s.free.2.engines = s.engines := rfl
@[simp] theorem free_ports (s : State) : s.free.2.ports = s.ports := rfl
@[simp] theorem free_flows (s : State) : s.free.2.flows = s.flows := rfl
@[simp] theorem free_arrivals (s : State) : s.free.2.arrivals = s.arrivals := rfl
@[simp] theorem free_early (s : State) : s.free.2.early = s.early := rfl
@[simp] theorem free_colls (s : State) : s.free.2.colls = s.colls := rfl
@[simp] theorem free_chans (s : State) : s.free.2.chans = s.chans := rfl
@[simp] theorem free_sems (s : State) : s.free.2.sems = s.sems := rfl
@[simp] theorem free_halt (s : State) : s.free.2.halt = s.halt := rfl
@[simp] theorem free_watch (s : State) : s.free.2.watch = s.watch := rfl
@[simp] theorem free_tender (s : State) : s.free.2.tender = s.tender := rfl
@[simp] theorem free_ledger (s : State) : s.free.2.ledger = s.ledger := rfl
@[simp] theorem free_way (s : State) : s.free.2.way = s.way := rfl
@[simp] theorem free_rings (s : State) : s.free.2.rings = s.rings := rfl
@[simp] theorem free_time (s : State) : s.free.2.time = s.time := rfl
@[simp] theorem free_power (s : State) : s.free.2.power = s.power := rfl
@[simp] theorem free_mgmt (s : State) : s.free.2.mgmt = s.mgmt := rfl
@[simp] theorem free_outbox (s : State) : s.free.2.outbox = s.outbox := rfl
@[simp] theorem pendInt_pending (s : State) (r : SeatRef) (k d : Nat) : (s.pendInt r k d).pending = s.pending := by
  unfold State.pendInt; split; all_goals (dsimp only; try split) <;> rfl
@[simp] theorem pendInt_fresh (s : State) (r : SeatRef) (k d : Nat) : (s.pendInt r k d).fresh = s.fresh := by
  unfold State.pendInt; split; all_goals (dsimp only; try split) <;> rfl
@[simp] theorem pendInt_sys (s : State) (r : SeatRef) (k d : Nat) : (s.pendInt r k d).sys = s.sys := by
  unfold State.pendInt; split; all_goals (dsimp only; try split) <;> rfl
@[simp] theorem pendInt_llc (s : State) (r : SeatRef) (k d : Nat) : (s.pendInt r k d).llc = s.llc := by
  unfold State.pendInt; split; all_goals (dsimp only; try split) <;> rfl
@[simp] theorem pendInt_mem (s : State) (r : SeatRef) (k d : Nat) : (s.pendInt r k d).mem = s.mem := by
  unfold State.pendInt; split; all_goals (dsimp only; try split) <;> rfl
@[simp] theorem pendInt_hostMem (s : State) (r : SeatRef) (k d : Nat) : (s.pendInt r k d).hostMem = s.hostMem := by
  unfold State.pendInt; split; all_goals (dsimp only; try split) <;> rfl
@[simp] theorem pendInt_flash (s : State) (r : SeatRef) (k d : Nat) : (s.pendInt r k d).flash = s.flash := by
  unfold State.pendInt; split; all_goals (dsimp only; try split) <;> rfl
@[simp] theorem pendInt_movers (s : State) (r : SeatRef) (k d : Nat) : (s.pendInt r k d).movers = s.movers := by
  unfold State.pendInt; split; all_goals (dsimp only; try split) <;> rfl
@[simp] theorem pendInt_engines (s : State) (r : SeatRef) (k d : Nat) : (s.pendInt r k d).engines = s.engines := by
  unfold State.pendInt; split; all_goals (dsimp only; try split) <;> rfl
@[simp] theorem pendInt_ports (s : State) (r : SeatRef) (k d : Nat) : (s.pendInt r k d).ports = s.ports := by
  unfold State.pendInt; split; all_goals (dsimp only; try split) <;> rfl
@[simp] theorem pendInt_flows (s : State) (r : SeatRef) (k d : Nat) : (s.pendInt r k d).flows = s.flows := by
  unfold State.pendInt; split; all_goals (dsimp only; try split) <;> rfl
@[simp] theorem pendInt_arrivals (s : State) (r : SeatRef) (k d : Nat) : (s.pendInt r k d).arrivals = s.arrivals := by
  unfold State.pendInt; split; all_goals (dsimp only; try split) <;> rfl
@[simp] theorem pendInt_early (s : State) (r : SeatRef) (k d : Nat) : (s.pendInt r k d).early = s.early := by
  unfold State.pendInt; split; all_goals (dsimp only; try split) <;> rfl
@[simp] theorem pendInt_colls (s : State) (r : SeatRef) (k d : Nat) : (s.pendInt r k d).colls = s.colls := by
  unfold State.pendInt; split; all_goals (dsimp only; try split) <;> rfl
@[simp] theorem pendInt_chans (s : State) (r : SeatRef) (k d : Nat) : (s.pendInt r k d).chans = s.chans := by
  unfold State.pendInt; split; all_goals (dsimp only; try split) <;> rfl
@[simp] theorem pendInt_sems (s : State) (r : SeatRef) (k d : Nat) : (s.pendInt r k d).sems = s.sems := by
  unfold State.pendInt; split; all_goals (dsimp only; try split) <;> rfl
@[simp] theorem pendInt_halt (s : State) (r : SeatRef) (k d : Nat) : (s.pendInt r k d).halt = s.halt := by
  unfold State.pendInt; split; all_goals (dsimp only; try split) <;> rfl
@[simp] theorem pendInt_watch (s : State) (r : SeatRef) (k d : Nat) : (s.pendInt r k d).watch = s.watch := by
  unfold State.pendInt; split; all_goals (dsimp only; try split) <;> rfl
@[simp] theorem pendInt_tender (s : State) (r : SeatRef) (k d : Nat) : (s.pendInt r k d).tender = s.tender := by
  unfold State.pendInt; split; all_goals (dsimp only; try split) <;> rfl
@[simp] theorem pendInt_ledger (s : State) (r : SeatRef) (k d : Nat) : (s.pendInt r k d).ledger = s.ledger := by
  unfold State.pendInt; split; all_goals (dsimp only; try split) <;> rfl
@[simp] theorem pendInt_way (s : State) (r : SeatRef) (k d : Nat) : (s.pendInt r k d).way = s.way := by
  unfold State.pendInt; split; all_goals (dsimp only; try split) <;> rfl
@[simp] theorem pendInt_rings (s : State) (r : SeatRef) (k d : Nat) : (s.pendInt r k d).rings = s.rings := by
  unfold State.pendInt; split; all_goals (dsimp only; try split) <;> rfl
@[simp] theorem pendInt_time (s : State) (r : SeatRef) (k d : Nat) : (s.pendInt r k d).time = s.time := by
  unfold State.pendInt; split; all_goals (dsimp only; try split) <;> rfl
@[simp] theorem pendInt_power (s : State) (r : SeatRef) (k d : Nat) : (s.pendInt r k d).power = s.power := by
  unfold State.pendInt; split; all_goals (dsimp only; try split) <;> rfl
@[simp] theorem pendInt_mgmt (s : State) (r : SeatRef) (k d : Nat) : (s.pendInt r k d).mgmt = s.mgmt := by
  unfold State.pendInt; split; all_goals (dsimp only; try split) <;> rfl
@[simp] theorem pendInt_outbox (s : State) (r : SeatRef) (k d : Nat) : (s.pendInt r k d).outbox = s.outbox := by
  unfold State.pendInt; split; all_goals (dsimp only; try split) <;> rfl
@[simp] theorem notify_pending (s : State) (n k d : Nat) : (s.notify n k d).pending = s.pending := by unfold State.notify; split <;> simp
@[simp] theorem notify_fresh (s : State) (n k d : Nat) : (s.notify n k d).fresh = s.fresh := by unfold State.notify; split <;> simp
@[simp] theorem notify_sys (s : State) (n k d : Nat) : (s.notify n k d).sys = s.sys := by unfold State.notify; split <;> simp
@[simp] theorem notify_llc (s : State) (n k d : Nat) : (s.notify n k d).llc = s.llc := by unfold State.notify; split <;> simp
@[simp] theorem notify_mem (s : State) (n k d : Nat) : (s.notify n k d).mem = s.mem := by unfold State.notify; split <;> simp
@[simp] theorem notify_hostMem (s : State) (n k d : Nat) : (s.notify n k d).hostMem = s.hostMem := by unfold State.notify; split <;> simp
@[simp] theorem notify_flash (s : State) (n k d : Nat) : (s.notify n k d).flash = s.flash := by unfold State.notify; split <;> simp
@[simp] theorem notify_movers (s : State) (n k d : Nat) : (s.notify n k d).movers = s.movers := by unfold State.notify; split <;> simp
@[simp] theorem notify_engines (s : State) (n k d : Nat) : (s.notify n k d).engines = s.engines := by unfold State.notify; split <;> simp
@[simp] theorem notify_ports (s : State) (n k d : Nat) : (s.notify n k d).ports = s.ports := by unfold State.notify; split <;> simp
@[simp] theorem notify_flows (s : State) (n k d : Nat) : (s.notify n k d).flows = s.flows := by unfold State.notify; split <;> simp
@[simp] theorem notify_arrivals (s : State) (n k d : Nat) : (s.notify n k d).arrivals = s.arrivals := by unfold State.notify; split <;> simp
@[simp] theorem notify_early (s : State) (n k d : Nat) : (s.notify n k d).early = s.early := by unfold State.notify; split <;> simp
@[simp] theorem notify_colls (s : State) (n k d : Nat) : (s.notify n k d).colls = s.colls := by unfold State.notify; split <;> simp
@[simp] theorem notify_chans (s : State) (n k d : Nat) : (s.notify n k d).chans = s.chans := by unfold State.notify; split <;> simp
@[simp] theorem notify_sems (s : State) (n k d : Nat) : (s.notify n k d).sems = s.sems := by unfold State.notify; split <;> simp
@[simp] theorem notify_halt (s : State) (n k d : Nat) : (s.notify n k d).halt = s.halt := by unfold State.notify; split <;> simp
@[simp] theorem notify_watch (s : State) (n k d : Nat) : (s.notify n k d).watch = s.watch := by unfold State.notify; split <;> simp
@[simp] theorem notify_tender (s : State) (n k d : Nat) : (s.notify n k d).tender = s.tender := by unfold State.notify; split <;> simp
@[simp] theorem notify_ledger (s : State) (n k d : Nat) : (s.notify n k d).ledger = s.ledger := by unfold State.notify; split <;> simp
@[simp] theorem notify_way (s : State) (n k d : Nat) : (s.notify n k d).way = s.way := by unfold State.notify; split <;> simp
@[simp] theorem notify_rings (s : State) (n k d : Nat) : (s.notify n k d).rings = s.rings := by unfold State.notify; split <;> simp
@[simp] theorem notify_time (s : State) (n k d : Nat) : (s.notify n k d).time = s.time := by unfold State.notify; split <;> simp
@[simp] theorem notify_power (s : State) (n k d : Nat) : (s.notify n k d).power = s.power := by unfold State.notify; split <;> simp
@[simp] theorem notify_mgmt (s : State) (n k d : Nat) : (s.notify n k d).mgmt = s.mgmt := by unfold State.notify; split <;> simp
@[simp] theorem notify_outbox (s : State) (n k d : Nat) : (s.notify n k d).outbox = s.outbox := by unfold State.notify; split <;> simp

end Sys2Proof.Machine
end

