-- ==== Sys2Proof/Laws/Only.lean ====
section
/-! SUPPORT. An update of one record of the state changes that record and nothing else. -/

namespace Sys2Proof.Machine

theorem coach_updCoach (s : State) (c d : Nat) (f : Coach → Coach) : (s.updCoach c f).coach d = if d = c then f (s.coach c) else s.coach d := by
  simp [State.coach, State.updCoach, mget_mupd]

/-- The updated record is the one that is stated, and no other changes. -/
@[simp] theorem onlyCoach_updCoach (s : State) (c : Nat) (f : Coach → Coach) (k : Coach) :
    OnlyCoach s (s.updCoach c f) c k ↔ f (s.coach c) = k := by
  constructor
  · rintro ⟨-, h, -⟩; simpa using h
  · rintro rfl; exact ⟨rfl, by simp, fun d hd => by simp [coach_updCoach, hd]⟩

theorem onlyCoach_refl (s : State) (c : Nat) (k : Coach) : OnlyCoach s s c k ↔ s.coach c = k :=
  ⟨fun h => h.2.1, fun h => ⟨rfl, h, fun _ _ => rfl⟩⟩

theorem OnlyCoach.trans {s t u : State} {c : Nat} {k l : Coach} (h : OnlyCoach s t c k) (h' : OnlyCoach t u c l) : OnlyCoach s u c l :=
  ⟨h'.1.trans (by rw [h.1]), h'.2.1, fun d hd => (h'.2.2 d hd).trans (h.2.2 d hd)⟩

theorem mover_updMover (s : State) (m d : Nat) (f : Mover → Mover) : (s.updMover m f).mover d = if d = m then f (s.mover m) else s.mover d := by
  simp [State.mover, State.updMover, mget_mupd]

/-- The updated record is the one that is stated, and no other changes. -/
@[simp] theorem onlyMover_updMover (s : State) (m : Nat) (f : Mover → Mover) (k : Mover) :
    OnlyMover s (s.updMover m f) m k ↔ f (s.mover m) = k := by
  constructor
  · rintro ⟨-, h, -⟩; simpa using h
  · rintro rfl; exact ⟨rfl, by simp, fun d hd => by simp [mover_updMover, hd]⟩

theorem onlyMover_refl (s : State) (m : Nat) (k : Mover) : OnlyMover s s m k ↔ s.mover m = k :=
  ⟨fun h => h.2.1, fun h => ⟨rfl, h, fun _ _ => rfl⟩⟩

theorem OnlyMover.trans {s t u : State} {m : Nat} {k l : Mover} (h : OnlyMover s t m k) (h' : OnlyMover t u m l) : OnlyMover s u m l :=
  ⟨h'.1.trans (by rw [h.1]), h'.2.1, fun d hd => (h'.2.2 d hd).trans (h.2.2 d hd)⟩

theorem engine_updEngine (s : State) (e d : Nat) (f : Engine → Engine) : (s.updEngine e f).engine d = if d = e then f (s.engine e) else s.engine d := by
  simp [State.engine, State.updEngine, mget_mupd]

/-- The updated record is the one that is stated, and no other changes. -/
@[simp] theorem onlyEngine_updEngine (s : State) (e : Nat) (f : Engine → Engine) (k : Engine) :
    OnlyEngine s (s.updEngine e f) e k ↔ f (s.engine e) = k := by
  constructor
  · rintro ⟨-, h, -⟩; simpa using h
  · rintro rfl; exact ⟨rfl, by simp, fun d hd => by simp [engine_updEngine, hd]⟩

theorem onlyEngine_refl (s : State) (e : Nat) (k : Engine) : OnlyEngine s s e k ↔ s.engine e = k :=
  ⟨fun h => h.2.1, fun h => ⟨rfl, h, fun _ _ => rfl⟩⟩

theorem OnlyEngine.trans {s t u : State} {e : Nat} {k l : Engine} (h : OnlyEngine s t e k) (h' : OnlyEngine t u e l) : OnlyEngine s u e l :=
  ⟨h'.1.trans (by rw [h.1]), h'.2.1, fun d hd => (h'.2.2 d hd).trans (h.2.2 d hd)⟩

theorem port_updPort (s : State) (p d : Nat) (f : PortState → PortState) : (s.updPort p f).port d = if d = p then f (s.port p) else s.port d := by
  simp [State.port, State.updPort, mget_mupd]

/-- The updated record is the one that is stated, and no other changes. -/
@[simp] theorem onlyPort_updPort (s : State) (p : Nat) (f : PortState → PortState) (k : PortState) :
    OnlyPort s (s.updPort p f) p k ↔ f (s.port p) = k := by
  constructor
  · rintro ⟨-, h, -⟩; simpa using h
  · rintro rfl; exact ⟨rfl, by simp, fun d hd => by simp [port_updPort, hd]⟩

theorem onlyPort_refl (s : State) (p : Nat) (k : PortState) : OnlyPort s s p k ↔ s.port p = k :=
  ⟨fun h => h.2.1, fun h => ⟨rfl, h, fun _ _ => rfl⟩⟩

theorem OnlyPort.trans {s t u : State} {p : Nat} {k l : PortState} (h : OnlyPort s t p k) (h' : OnlyPort t u p l) : OnlyPort s u p l :=
  ⟨h'.1.trans (by rw [h.1]), h'.2.1, fun d hd => (h'.2.2 d hd).trans (h.2.2 d hd)⟩

theorem flow_updFlow (s : State) (n d : Nat) (f : Flow → Flow) : (s.updFlow n f).flow d = if d = n then f (s.flow n) else s.flow d := by
  simp [State.flow, State.updFlow, mget_mupd]

/-- The updated record is the one that is stated, and no other changes. -/
@[simp] theorem onlyFlow_updFlow (s : State) (n : Nat) (f : Flow → Flow) (k : Flow) :
    OnlyFlow s (s.updFlow n f) n k ↔ f (s.flow n) = k := by
  constructor
  · rintro ⟨-, h, -⟩; simpa using h
  · rintro rfl; exact ⟨rfl, by simp, fun d hd => by simp [flow_updFlow, hd]⟩

theorem onlyFlow_refl (s : State) (n : Nat) (k : Flow) : OnlyFlow s s n k ↔ s.flow n = k :=
  ⟨fun h => h.2.1, fun h => ⟨rfl, h, fun _ _ => rfl⟩⟩

theorem OnlyFlow.trans {s t u : State} {n : Nat} {k l : Flow} (h : OnlyFlow s t n k) (h' : OnlyFlow t u n l) : OnlyFlow s u n l :=
  ⟨h'.1.trans (by rw [h.1]), h'.2.1, fun d hd => (h'.2.2 d hd).trans (h.2.2 d hd)⟩

theorem pair_updPair (s : State) (r d : Nat) (f : Pair → Pair) : (s.updPair r f).pair d = if d = r then f (s.pair r) else s.pair d := by
  simp [State.pair, State.updPair, mget_mupd]

/-- The updated record is the one that is stated, and no other changes. -/
@[simp] theorem onlyPair_updPair (s : State) (r : Nat) (f : Pair → Pair) (k : Pair) :
    OnlyPair s (s.updPair r f) r k ↔ f (s.pair r) = k := by
  constructor
  · rintro ⟨-, h, -⟩; simpa using h
  · rintro rfl; exact ⟨rfl, by simp, fun d hd => by simp [pair_updPair, hd]⟩

theorem onlyPair_refl (s : State) (r : Nat) (k : Pair) : OnlyPair s s r k ↔ s.pair r = k :=
  ⟨fun h => h.2.1, fun h => ⟨rfl, h, fun _ _ => rfl⟩⟩

theorem OnlyPair.trans {s t u : State} {r : Nat} {k l : Pair} (h : OnlyPair s t r k) (h' : OnlyPair t u r l) : OnlyPair s u r l :=
  ⟨h'.1.trans (by rw [h.1]), h'.2.1, fun d hd => (h'.2.2 d hd).trans (h.2.2 d hd)⟩

theorem fwOf_updFw (s : State) (c d : Nat) (f : Fw → Fw) : (s.updFw c f).fwOf d = if d = c then f (s.fwOf c) else s.fwOf d := by
  simp [State.fwOf, State.updFw, mget_mupd]

/-- The updated record is the one that is stated, and no other changes. -/
@[simp] theorem onlyFw_updFw (s : State) (c : Nat) (f : Fw → Fw) (k : Fw) :
    OnlyFw s (s.updFw c f) c k ↔ f (s.fwOf c) = k := by
  constructor
  · rintro ⟨-, h, -⟩; simpa using h
  · rintro rfl; exact ⟨rfl, by simp, fun d hd => by simp [fwOf_updFw, hd]⟩

theorem onlyFw_refl (s : State) (c : Nat) (k : Fw) : OnlyFw s s c k ↔ s.fwOf c = k :=
  ⟨fun h => h.2.1, fun h => ⟨rfl, h, fun _ _ => rfl⟩⟩

theorem OnlyFw.trans {s t u : State} {c : Nat} {k l : Fw} (h : OnlyFw s t c k) (h' : OnlyFw t u c l) : OnlyFw s u c l :=
  ⟨h'.1.trans (by rw [h.1]), h'.2.1, fun d hd => (h'.2.2 d hd).trans (h.2.2 d hd)⟩

theorem seat_updSeat (s : State) (r q : SeatRef) (f : Seat → Seat) :
    (s.updSeat r f).seat q = if q = r then f (s.seat r) else s.seat q := by
  obtain ⟨rc, rs⟩ := r
  obtain ⟨qc, qs⟩ := q
  by_cases hc : (qc : Nat) = rc
  · have hc' : qc = rc := Fin.ext hc
    subst hc'
    by_cases hs : (qs : Nat) = rs
    · have hs' : qs = rs := Fin.ext hs
      subst hs'
      simp [State.seat, State.updSeat, State.coach, State.updCoach, Coach.seat]
    · have : qs ≠ rs := fun h => hs (by rw [h])
      simp [State.seat, State.updSeat, State.coach, State.updCoach, Coach.seat, mget_mupd, hs, this]
  · have : qc ≠ rc := fun h => hc (by rw [h])
    simp [State.seat, State.updSeat, State.coach, State.updCoach, Coach.seat, mget_mupd, hc, this]

theorem sameCoach_updSeat (s : State) (r : SeatRef) (f : Seat → Seat) (c : Nat) : SameCoach (s.coach c) ((s.updSeat r f).coach c) := by
  unfold SameCoach State.updSeat
  rw [coach_updCoach]
  split <;> simp_all

theorem SameCoach.trans {k l m : Coach} (h : SameCoach k l) (h' : SameCoach l m) : SameCoach k m := by
  unfold SameCoach at *
  rw [h', h]

/-- The updated seat is the one that is stated, and nothing else changes. -/
@[simp] theorem onlySeat_updSeat (s : State) (r : SeatRef) (f : Seat → Seat) (q : Seat) :
    OnlySeat s (s.updSeat r f) r q ↔ f (s.seat r) = q := by
  constructor
  · rintro ⟨-, -, h, -⟩; simpa using h
  · rintro rfl
    exact ⟨rfl, sameCoach_updSeat s r f, by simp, fun q hq => by simp [seat_updSeat, hq]⟩

theorem onlySeat_refl (s : State) (r : SeatRef) (q : Seat) : OnlySeat s s r q ↔ s.seat r = q :=
  ⟨fun h => h.2.2.1, fun h => ⟨rfl, fun _ => rfl, h, fun _ _ => rfl⟩⟩

theorem OnlySeat.trans {s t u : State} {r : SeatRef} {q q' : Seat} (h : OnlySeat s t r q) (h' : OnlySeat t u r q') : OnlySeat s u r q' :=
  ⟨h'.1.trans (by rw [h.1]), fun c => (h.2.1 c).trans (h'.2.1 c), h'.2.2.1, fun d hd => (h'.2.2.2 d hd).trans (h.2.2.2 d hd)⟩

end Sys2Proof.Machine
end

