-- ==== Sys2Proof/Laws/Ops.lean ====
section
/-! SUPPORT. What the shared operations on the state leave unchanged, one lemma per operation and part, and what they do. -/

namespace Sys2Proof.Machine

theorem foldl_proj {α β γ : Type} (g : β → γ) (f : β → α → β) (h : ∀ t a, g (f t a) = g t) (l : List α) :
    ∀ s, g (l.foldl f s) = g s := fun s =>
  List.foldlRecOn (motive := fun t => g t = g s) l f rfl fun _ ht a _ => (h _ a).trans ht







@[simp] theorem semSet_pending (s : State) (n : Nat) (v : BitVec 32) : (s.semSet n v).pending = s.pending := by unfold State.semSet; dsimp only; split <;> simp
@[simp] theorem semSet_fresh (s : State) (n : Nat) (v : BitVec 32) : (s.semSet n v).fresh = s.fresh := by unfold State.semSet; dsimp only; split <;> simp
@[simp] theorem semSet_sys (s : State) (n : Nat) (v : BitVec 32) : (s.semSet n v).sys = s.sys := by unfold State.semSet; dsimp only; split <;> simp
@[simp] theorem semSet_llc (s : State) (n : Nat) (v : BitVec 32) : (s.semSet n v).llc = s.llc := by unfold State.semSet; dsimp only; split <;> simp
@[simp] theorem semSet_mem (s : State) (n : Nat) (v : BitVec 32) : (s.semSet n v).mem = s.mem := by unfold State.semSet; dsimp only; split <;> simp
@[simp] theorem semSet_hostMem (s : State) (n : Nat) (v : BitVec 32) : (s.semSet n v).hostMem = s.hostMem := by unfold State.semSet; dsimp only; split <;> simp
@[simp] theorem semSet_flash (s : State) (n : Nat) (v : BitVec 32) : (s.semSet n v).flash = s.flash := by unfold State.semSet; dsimp only; split <;> simp
@[simp] theorem semSet_movers (s : State) (n : Nat) (v : BitVec 32) : (s.semSet n v).movers = s.movers := by unfold State.semSet; dsimp only; split <;> simp
@[simp] theorem semSet_engines (s : State) (n : Nat) (v : BitVec 32) : (s.semSet n v).engines = s.engines := by unfold State.semSet; dsimp only; split <;> simp
@[simp] theorem semSet_ports (s : State) (n : Nat) (v : BitVec 32) : (s.semSet n v).ports = s.ports := by unfold State.semSet; dsimp only; split <;> simp
@[simp] theorem semSet_flows (s : State) (n : Nat) (v : BitVec 32) : (s.semSet n v).flows = s.flows := by unfold State.semSet; dsimp only; split <;> simp
@[simp] theorem semSet_arrivals (s : State) (n : Nat) (v : BitVec 32) : (s.semSet n v).arrivals = s.arrivals := by unfold State.semSet; dsimp only; split <;> simp
@[simp] theorem semSet_early (s : State) (n : Nat) (v : BitVec 32) : (s.semSet n v).early = s.early := by unfold State.semSet; dsimp only; split <;> simp
@[simp] theorem semSet_colls (s : State) (n : Nat) (v : BitVec 32) : (s.semSet n v).colls = s.colls := by unfold State.semSet; dsimp only; split <;> simp
@[simp] theorem semSet_chans (s : State) (n : Nat) (v : BitVec 32) : (s.semSet n v).chans = s.chans := by unfold State.semSet; dsimp only; split <;> simp
@[simp] theorem semSet_halt (s : State) (n : Nat) (v : BitVec 32) : (s.semSet n v).halt = s.halt := by unfold State.semSet; dsimp only; split <;> simp
@[simp] theorem semSet_watch (s : State) (n : Nat) (v : BitVec 32) : (s.semSet n v).watch = s.watch := by unfold State.semSet; dsimp only; split <;> simp
@[simp] theorem semSet_tender (s : State) (n : Nat) (v : BitVec 32) : (s.semSet n v).tender = s.tender := by unfold State.semSet; dsimp only; split <;> simp
@[simp] theorem semSet_ledger (s : State) (n : Nat) (v : BitVec 32) : (s.semSet n v).ledger = s.ledger := by unfold State.semSet; dsimp only; split <;> simp
@[simp] theorem semSet_way (s : State) (n : Nat) (v : BitVec 32) : (s.semSet n v).way = s.way := by unfold State.semSet; dsimp only; split <;> simp
@[simp] theorem semSet_rings (s : State) (n : Nat) (v : BitVec 32) : (s.semSet n v).rings = s.rings := by unfold State.semSet; dsimp only; split <;> simp
@[simp] theorem semSet_time (s : State) (n : Nat) (v : BitVec 32) : (s.semSet n v).time = s.time := by unfold State.semSet; dsimp only; split <;> simp
@[simp] theorem semSet_power (s : State) (n : Nat) (v : BitVec 32) : (s.semSet n v).power = s.power := by unfold State.semSet; dsimp only; split <;> simp
@[simp] theorem semSet_mgmt (s : State) (n : Nat) (v : BitVec 32) : (s.semSet n v).mgmt = s.mgmt := by unfold State.semSet; dsimp only; split <;> simp
@[simp] theorem semSet_outbox (s : State) (n : Nat) (v : BitVec 32) : (s.semSet n v).outbox = s.outbox := by unfold State.semSet; dsimp only; split <;> simp

@[simp] theorem ringsHalt_pending (s : State)  : (s.ringsHalt).pending = s.pending := rfl
@[simp] theorem ringsHalt_fresh (s : State)  : (s.ringsHalt).fresh = s.fresh := rfl
@[simp] theorem ringsHalt_sys (s : State)  : (s.ringsHalt).sys = s.sys := rfl
@[simp] theorem ringsHalt_coaches (s : State)  : (s.ringsHalt).coaches = s.coaches := rfl
@[simp] theorem ringsHalt_llc (s : State)  : (s.ringsHalt).llc = s.llc := rfl
@[simp] theorem ringsHalt_mem (s : State)  : (s.ringsHalt).mem = s.mem := rfl
@[simp] theorem ringsHalt_hostMem (s : State)  : (s.ringsHalt).hostMem = s.hostMem := rfl
@[simp] theorem ringsHalt_flash (s : State)  : (s.ringsHalt).flash = s.flash := rfl
@[simp] theorem ringsHalt_movers (s : State)  : (s.ringsHalt).movers = s.movers := rfl
@[simp] theorem ringsHalt_engines (s : State)  : (s.ringsHalt).engines = s.engines := rfl
@[simp] theorem ringsHalt_ports (s : State)  : (s.ringsHalt).ports = s.ports := rfl
@[simp] theorem ringsHalt_flows (s : State)  : (s.ringsHalt).flows = s.flows := rfl
@[simp] theorem ringsHalt_arrivals (s : State)  : (s.ringsHalt).arrivals = s.arrivals := rfl
@[simp] theorem ringsHalt_early (s : State)  : (s.ringsHalt).early = s.early := rfl
@[simp] theorem ringsHalt_colls (s : State)  : (s.ringsHalt).colls = s.colls := rfl
@[simp] theorem ringsHalt_chans (s : State)  : (s.ringsHalt).chans = s.chans := rfl
@[simp] theorem ringsHalt_sems (s : State)  : (s.ringsHalt).sems = s.sems := rfl
@[simp] theorem ringsHalt_halt (s : State)  : (s.ringsHalt).halt = s.halt := rfl
@[simp] theorem ringsHalt_watch (s : State)  : (s.ringsHalt).watch = s.watch := rfl
@[simp] theorem ringsHalt_tender (s : State)  : (s.ringsHalt).tender = s.tender := rfl
@[simp] theorem ringsHalt_ledger (s : State)  : (s.ringsHalt).ledger = s.ledger := rfl
@[simp] theorem ringsHalt_way (s : State)  : (s.ringsHalt).way = s.way := rfl
@[simp] theorem ringsHalt_time (s : State)  : (s.ringsHalt).time = s.time := rfl
@[simp] theorem ringsHalt_power (s : State)  : (s.ringsHalt).power = s.power := rfl
@[simp] theorem ringsHalt_mgmt (s : State)  : (s.ringsHalt).mgmt = s.mgmt := rfl
@[simp] theorem ringsHalt_outbox (s : State)  : (s.ringsHalt).outbox = s.outbox := rfl

@[simp] theorem stopModule_pending (s : State) (n : Nat) : (s.stopModule n).pending = s.pending := by unfold State.stopModule; dsimp only; split <;> rfl
@[simp] theorem stopModule_fresh (s : State) (n : Nat) : (s.stopModule n).fresh = s.fresh := by unfold State.stopModule; dsimp only; split <;> rfl
@[simp] theorem stopModule_sys (s : State) (n : Nat) : (s.stopModule n).sys = s.sys := by unfold State.stopModule; dsimp only; split <;> rfl
@[simp] theorem stopModule_coaches (s : State) (n : Nat) : (s.stopModule n).coaches = s.coaches := by unfold State.stopModule; dsimp only; split <;> rfl
@[simp] theorem stopModule_llc (s : State) (n : Nat) : (s.stopModule n).llc = s.llc := by unfold State.stopModule; dsimp only; split <;> rfl
@[simp] theorem stopModule_mem (s : State) (n : Nat) : (s.stopModule n).mem = s.mem := by unfold State.stopModule; dsimp only; split <;> rfl
@[simp] theorem stopModule_hostMem (s : State) (n : Nat) : (s.stopModule n).hostMem = s.hostMem := by unfold State.stopModule; dsimp only; split <;> rfl
@[simp] theorem stopModule_flash (s : State) (n : Nat) : (s.stopModule n).flash = s.flash := by unfold State.stopModule; dsimp only; split <;> rfl
@[simp] theorem stopModule_engines (s : State) (n : Nat) : (s.stopModule n).engines = s.engines := by unfold State.stopModule; dsimp only; split <;> rfl
@[simp] theorem stopModule_ports (s : State) (n : Nat) : (s.stopModule n).ports = s.ports := by unfold State.stopModule; dsimp only; split <;> rfl
@[simp] theorem stopModule_flows (s : State) (n : Nat) : (s.stopModule n).flows = s.flows := by unfold State.stopModule; dsimp only; split <;> rfl
@[simp] theorem stopModule_chans (s : State) (n : Nat) : (s.stopModule n).chans = s.chans := by unfold State.stopModule; dsimp only; split <;> rfl
@[simp] theorem stopModule_sems (s : State) (n : Nat) : (s.stopModule n).sems = s.sems := by unfold State.stopModule; dsimp only; split <;> rfl
@[simp] theorem stopModule_watch (s : State) (n : Nat) : (s.stopModule n).watch = s.watch := by unfold State.stopModule; dsimp only; split <;> rfl
@[simp] theorem stopModule_ledger (s : State) (n : Nat) : (s.stopModule n).ledger = s.ledger := by unfold State.stopModule; dsimp only; split <;> rfl
@[simp] theorem stopModule_time (s : State) (n : Nat) : (s.stopModule n).time = s.time := by unfold State.stopModule; dsimp only; split <;> rfl
@[simp] theorem stopModule_power (s : State) (n : Nat) : (s.stopModule n).power = s.power := by unfold State.stopModule; dsimp only; split <;> rfl
@[simp] theorem stopModule_mgmt (s : State) (n : Nat) : (s.stopModule n).mgmt = s.mgmt := by unfold State.stopModule; dsimp only; split <;> rfl
@[simp] theorem stopModule_outbox (s : State) (n : Nat) : (s.stopModule n).outbox = s.outbox := by unfold State.stopModule; dsimp only; split <;> rfl

@[simp] theorem enqueueFrame_pending (s : State) (f : Frame) : (enqueueFrame s f).pending = s.pending := rfl
@[simp] theorem enqueueFrame_fresh (s : State) (f : Frame) : (enqueueFrame s f).fresh = s.fresh := rfl
@[simp] theorem enqueueFrame_sys (s : State) (f : Frame) : (enqueueFrame s f).sys = s.sys := rfl
@[simp] theorem enqueueFrame_coaches (s : State) (f : Frame) : (enqueueFrame s f).coaches = s.coaches := rfl
@[simp] theorem enqueueFrame_llc (s : State) (f : Frame) : (enqueueFrame s f).llc = s.llc := rfl
@[simp] theorem enqueueFrame_mem (s : State) (f : Frame) : (enqueueFrame s f).mem = s.mem := rfl
@[simp] theorem enqueueFrame_hostMem (s : State) (f : Frame) : (enqueueFrame s f).hostMem = s.hostMem := rfl
@[simp] theorem enqueueFrame_flash (s : State) (f : Frame) : (enqueueFrame s f).flash = s.flash := rfl
@[simp] theorem enqueueFrame_movers (s : State) (f : Frame) : (enqueueFrame s f).movers = s.movers := rfl
@[simp] theorem enqueueFrame_engines (s : State) (f : Frame) : (enqueueFrame s f).engines = s.engines := rfl
@[simp] theorem enqueueFrame_flows (s : State) (f : Frame) : (enqueueFrame s f).flows = s.flows := rfl
@[simp] theorem enqueueFrame_arrivals (s : State) (f : Frame) : (enqueueFrame s f).arrivals = s.arrivals := rfl
@[simp] theorem enqueueFrame_early (s : State) (f : Frame) : (enqueueFrame s f).early = s.early := rfl
@[simp] theorem enqueueFrame_colls (s : State) (f : Frame) : (enqueueFrame s f).colls = s.colls := rfl
@[simp] theorem enqueueFrame_chans (s : State) (f : Frame) : (enqueueFrame s f).chans = s.chans := rfl
@[simp] theorem enqueueFrame_sems (s : State) (f : Frame) : (enqueueFrame s f).sems = s.sems := rfl
@[simp] theorem enqueueFrame_halt (s : State) (f : Frame) : (enqueueFrame s f).halt = s.halt := rfl
@[simp] theorem enqueueFrame_watch (s : State) (f : Frame) : (enqueueFrame s f).watch = s.watch := rfl
@[simp] theorem enqueueFrame_tender (s : State) (f : Frame) : (enqueueFrame s f).tender = s.tender := rfl
@[simp] theorem enqueueFrame_ledger (s : State) (f : Frame) : (enqueueFrame s f).ledger = s.ledger := rfl
@[simp] theorem enqueueFrame_way (s : State) (f : Frame) : (enqueueFrame s f).way = s.way := rfl
@[simp] theorem enqueueFrame_rings (s : State) (f : Frame) : (enqueueFrame s f).rings = s.rings := rfl
@[simp] theorem enqueueFrame_time (s : State) (f : Frame) : (enqueueFrame s f).time = s.time := rfl
@[simp] theorem enqueueFrame_power (s : State) (f : Frame) : (enqueueFrame s f).power = s.power := rfl
@[simp] theorem enqueueFrame_mgmt (s : State) (f : Frame) : (enqueueFrame s f).mgmt = s.mgmt := rfl
@[simp] theorem enqueueFrame_outbox (s : State) (f : Frame) : (enqueueFrame s f).outbox = s.outbox := rfl

@[simp] theorem sendFlit_pending (s : State) (p : Nat) (w : Word) : (s.sendFlit p w).pending = s.pending := by unfold State.sendFlit; dsimp only; split <;> rfl
@[simp] theorem sendFlit_fresh (s : State) (p : Nat) (w : Word) : (s.sendFlit p w).fresh = s.fresh := by unfold State.sendFlit; dsimp only; split <;> rfl
@[simp] theorem sendFlit_sys (s : State) (p : Nat) (w : Word) : (s.sendFlit p w).sys = s.sys := by unfold State.sendFlit; dsimp only; split <;> rfl
@[simp] theorem sendFlit_coaches (s : State) (p : Nat) (w : Word) : (s.sendFlit p w).coaches = s.coaches := by unfold State.sendFlit; dsimp only; split <;> rfl
@[simp] theorem sendFlit_llc (s : State) (p : Nat) (w : Word) : (s.sendFlit p w).llc = s.llc := by unfold State.sendFlit; dsimp only; split <;> rfl
@[simp] theorem sendFlit_mem (s : State) (p : Nat) (w : Word) : (s.sendFlit p w).mem = s.mem := by unfold State.sendFlit; dsimp only; split <;> rfl
@[simp] theorem sendFlit_hostMem (s : State) (p : Nat) (w : Word) : (s.sendFlit p w).hostMem = s.hostMem := by unfold State.sendFlit; dsimp only; split <;> rfl
@[simp] theorem sendFlit_flash (s : State) (p : Nat) (w : Word) : (s.sendFlit p w).flash = s.flash := by unfold State.sendFlit; dsimp only; split <;> rfl
@[simp] theorem sendFlit_movers (s : State) (p : Nat) (w : Word) : (s.sendFlit p w).movers = s.movers := by unfold State.sendFlit; dsimp only; split <;> rfl
@[simp] theorem sendFlit_engines (s : State) (p : Nat) (w : Word) : (s.sendFlit p w).engines = s.engines := by unfold State.sendFlit; dsimp only; split <;> rfl
@[simp] theorem sendFlit_flows (s : State) (p : Nat) (w : Word) : (s.sendFlit p w).flows = s.flows := by unfold State.sendFlit; dsimp only; split <;> rfl
@[simp] theorem sendFlit_arrivals (s : State) (p : Nat) (w : Word) : (s.sendFlit p w).arrivals = s.arrivals := by unfold State.sendFlit; dsimp only; split <;> rfl
@[simp] theorem sendFlit_early (s : State) (p : Nat) (w : Word) : (s.sendFlit p w).early = s.early := by unfold State.sendFlit; dsimp only; split <;> rfl
@[simp] theorem sendFlit_colls (s : State) (p : Nat) (w : Word) : (s.sendFlit p w).colls = s.colls := by unfold State.sendFlit; dsimp only; split <;> rfl
@[simp] theorem sendFlit_chans (s : State) (p : Nat) (w : Word) : (s.sendFlit p w).chans = s.chans := by unfold State.sendFlit; dsimp only; split <;> rfl
@[simp] theorem sendFlit_sems (s : State) (p : Nat) (w : Word) : (s.sendFlit p w).sems = s.sems := by unfold State.sendFlit; dsimp only; split <;> rfl
@[simp] theorem sendFlit_halt (s : State) (p : Nat) (w : Word) : (s.sendFlit p w).halt = s.halt := by unfold State.sendFlit; dsimp only; split <;> rfl
@[simp] theorem sendFlit_watch (s : State) (p : Nat) (w : Word) : (s.sendFlit p w).watch = s.watch := by unfold State.sendFlit; dsimp only; split <;> rfl
@[simp] theorem sendFlit_tender (s : State) (p : Nat) (w : Word) : (s.sendFlit p w).tender = s.tender := by unfold State.sendFlit; dsimp only; split <;> rfl
@[simp] theorem sendFlit_ledger (s : State) (p : Nat) (w : Word) : (s.sendFlit p w).ledger = s.ledger := by unfold State.sendFlit; dsimp only; split <;> rfl
@[simp] theorem sendFlit_way (s : State) (p : Nat) (w : Word) : (s.sendFlit p w).way = s.way := by unfold State.sendFlit; dsimp only; split <;> rfl
@[simp] theorem sendFlit_rings (s : State) (p : Nat) (w : Word) : (s.sendFlit p w).rings = s.rings := by unfold State.sendFlit; dsimp only; split <;> rfl
@[simp] theorem sendFlit_time (s : State) (p : Nat) (w : Word) : (s.sendFlit p w).time = s.time := by unfold State.sendFlit; dsimp only; split <;> rfl
@[simp] theorem sendFlit_power (s : State) (p : Nat) (w : Word) : (s.sendFlit p w).power = s.power := by unfold State.sendFlit; dsimp only; split <;> rfl
@[simp] theorem sendFlit_mgmt (s : State) (p : Nat) (w : Word) : (s.sendFlit p w).mgmt = s.mgmt := by unfold State.sendFlit; dsimp only; split <;> rfl

@[simp] theorem flitTo_pending (s : State) (rs : List Nat) (w : Word) : (s.flitTo rs w).pending = s.pending := foldl_proj State.pending _ (fun t r => by repeat' (first | rfl | split | simp)) rs s
@[simp] theorem flitTo_fresh (s : State) (rs : List Nat) (w : Word) : (s.flitTo rs w).fresh = s.fresh := foldl_proj State.fresh _ (fun t r => by repeat' (first | rfl | split | simp)) rs s
@[simp] theorem flitTo_sys (s : State) (rs : List Nat) (w : Word) : (s.flitTo rs w).sys = s.sys := foldl_proj State.sys _ (fun t r => by repeat' (first | rfl | split | simp)) rs s
@[simp] theorem flitTo_coaches (s : State) (rs : List Nat) (w : Word) : (s.flitTo rs w).coaches = s.coaches := foldl_proj State.coaches _ (fun t r => by repeat' (first | rfl | split | simp)) rs s
@[simp] theorem flitTo_llc (s : State) (rs : List Nat) (w : Word) : (s.flitTo rs w).llc = s.llc := foldl_proj State.llc _ (fun t r => by repeat' (first | rfl | split | simp)) rs s
@[simp] theorem flitTo_mem (s : State) (rs : List Nat) (w : Word) : (s.flitTo rs w).mem = s.mem := foldl_proj State.mem _ (fun t r => by repeat' (first | rfl | split | simp)) rs s
@[simp] theorem flitTo_hostMem (s : State) (rs : List Nat) (w : Word) : (s.flitTo rs w).hostMem = s.hostMem := foldl_proj State.hostMem _ (fun t r => by repeat' (first | rfl | split | simp)) rs s
@[simp] theorem flitTo_flash (s : State) (rs : List Nat) (w : Word) : (s.flitTo rs w).flash = s.flash := foldl_proj State.flash _ (fun t r => by repeat' (first | rfl | split | simp)) rs s
@[simp] theorem flitTo_movers (s : State) (rs : List Nat) (w : Word) : (s.flitTo rs w).movers = s.movers := foldl_proj State.movers _ (fun t r => by repeat' (first | rfl | split | simp)) rs s
@[simp] theorem flitTo_engines (s : State) (rs : List Nat) (w : Word) : (s.flitTo rs w).engines = s.engines := foldl_proj State.engines _ (fun t r => by repeat' (first | rfl | split | simp)) rs s
@[simp] theorem flitTo_flows (s : State) (rs : List Nat) (w : Word) : (s.flitTo rs w).flows = s.flows := foldl_proj State.flows _ (fun t r => by repeat' (first | rfl | split | simp)) rs s
@[simp] theorem flitTo_arrivals (s : State) (rs : List Nat) (w : Word) : (s.flitTo rs w).arrivals = s.arrivals := foldl_proj State.arrivals _ (fun t r => by repeat' (first | rfl | split | simp)) rs s
@[simp] theorem flitTo_early (s : State) (rs : List Nat) (w : Word) : (s.flitTo rs w).early = s.early := foldl_proj State.early _ (fun t r => by repeat' (first | rfl | split | simp)) rs s
@[simp] theorem flitTo_colls (s : State) (rs : List Nat) (w : Word) : (s.flitTo rs w).colls = s.colls := foldl_proj State.colls _ (fun t r => by repeat' (first | rfl | split | simp)) rs s
@[simp] theorem flitTo_chans (s : State) (rs : List Nat) (w : Word) : (s.flitTo rs w).chans = s.chans := foldl_proj State.chans _ (fun t r => by repeat' (first | rfl | split | simp)) rs s
@[simp] theorem flitTo_sems (s : State) (rs : List Nat) (w : Word) : (s.flitTo rs w).sems = s.sems := foldl_proj State.sems _ (fun t r => by repeat' (first | rfl | split | simp)) rs s
@[simp] theorem flitTo_halt (s : State) (rs : List Nat) (w : Word) : (s.flitTo rs w).halt = s.halt := foldl_proj State.halt _ (fun t r => by repeat' (first | rfl | split | simp)) rs s
@[simp] theorem flitTo_watch (s : State) (rs : List Nat) (w : Word) : (s.flitTo rs w).watch = s.watch := foldl_proj State.watch _ (fun t r => by repeat' (first | rfl | split | simp)) rs s
@[simp] theorem flitTo_tender (s : State) (rs : List Nat) (w : Word) : (s.flitTo rs w).tender = s.tender := foldl_proj State.tender _ (fun t r => by repeat' (first | rfl | split | simp)) rs s
@[simp] theorem flitTo_ledger (s : State) (rs : List Nat) (w : Word) : (s.flitTo rs w).ledger = s.ledger := foldl_proj State.ledger _ (fun t r => by repeat' (first | rfl | split | simp)) rs s
@[simp] theorem flitTo_way (s : State) (rs : List Nat) (w : Word) : (s.flitTo rs w).way = s.way := foldl_proj State.way _ (fun t r => by repeat' (first | rfl | split | simp)) rs s
@[simp] theorem flitTo_rings (s : State) (rs : List Nat) (w : Word) : (s.flitTo rs w).rings = s.rings := foldl_proj State.rings _ (fun t r => by repeat' (first | rfl | split | simp)) rs s
@[simp] theorem flitTo_time (s : State) (rs : List Nat) (w : Word) : (s.flitTo rs w).time = s.time := foldl_proj State.time _ (fun t r => by repeat' (first | rfl | split | simp)) rs s
@[simp] theorem flitTo_power (s : State) (rs : List Nat) (w : Word) : (s.flitTo rs w).power = s.power := foldl_proj State.power _ (fun t r => by repeat' (first | rfl | split | simp)) rs s
@[simp] theorem flitTo_mgmt (s : State) (rs : List Nat) (w : Word) : (s.flitTo rs w).mgmt = s.mgmt := foldl_proj State.mgmt _ (fun t r => by repeat' (first | rfl | split | simp)) rs s

@[simp] theorem spreadStop_pending (s : State) (w : Word) : (s.spreadStop w).pending = s.pending := by unfold State.spreadStop; split <;> simp
@[simp] theorem spreadStop_fresh (s : State) (w : Word) : (s.spreadStop w).fresh = s.fresh := by unfold State.spreadStop; split <;> simp
@[simp] theorem spreadStop_sys (s : State) (w : Word) : (s.spreadStop w).sys = s.sys := by unfold State.spreadStop; split <;> simp
@[simp] theorem spreadStop_coaches (s : State) (w : Word) : (s.spreadStop w).coaches = s.coaches := by unfold State.spreadStop; split <;> simp
@[simp] theorem spreadStop_llc (s : State) (w : Word) : (s.spreadStop w).llc = s.llc := by unfold State.spreadStop; split <;> simp
@[simp] theorem spreadStop_mem (s : State) (w : Word) : (s.spreadStop w).mem = s.mem := by unfold State.spreadStop; split <;> simp
@[simp] theorem spreadStop_hostMem (s : State) (w : Word) : (s.spreadStop w).hostMem = s.hostMem := by unfold State.spreadStop; split <;> simp
@[simp] theorem spreadStop_flash (s : State) (w : Word) : (s.spreadStop w).flash = s.flash := by unfold State.spreadStop; split <;> simp
@[simp] theorem spreadStop_movers (s : State) (w : Word) : (s.spreadStop w).movers = s.movers := by unfold State.spreadStop; split <;> simp
@[simp] theorem spreadStop_engines (s : State) (w : Word) : (s.spreadStop w).engines = s.engines := by unfold State.spreadStop; split <;> simp
@[simp] theorem spreadStop_flows (s : State) (w : Word) : (s.spreadStop w).flows = s.flows := by unfold State.spreadStop; split <;> simp
@[simp] theorem spreadStop_arrivals (s : State) (w : Word) : (s.spreadStop w).arrivals = s.arrivals := by unfold State.spreadStop; split <;> simp
@[simp] theorem spreadStop_early (s : State) (w : Word) : (s.spreadStop w).early = s.early := by unfold State.spreadStop; split <;> simp
@[simp] theorem spreadStop_colls (s : State) (w : Word) : (s.spreadStop w).colls = s.colls := by unfold State.spreadStop; split <;> simp
@[simp] theorem spreadStop_chans (s : State) (w : Word) : (s.spreadStop w).chans = s.chans := by unfold State.spreadStop; split <;> simp
@[simp] theorem spreadStop_sems (s : State) (w : Word) : (s.spreadStop w).sems = s.sems := by unfold State.spreadStop; split <;> simp
@[simp] theorem spreadStop_halt (s : State) (w : Word) : (s.spreadStop w).halt = s.halt := by unfold State.spreadStop; split <;> simp
@[simp] theorem spreadStop_watch (s : State) (w : Word) : (s.spreadStop w).watch = s.watch := by unfold State.spreadStop; split <;> simp
@[simp] theorem spreadStop_ledger (s : State) (w : Word) : (s.spreadStop w).ledger = s.ledger := by unfold State.spreadStop; split <;> simp
@[simp] theorem spreadStop_way (s : State) (w : Word) : (s.spreadStop w).way = s.way := by unfold State.spreadStop; split <;> simp
@[simp] theorem spreadStop_rings (s : State) (w : Word) : (s.spreadStop w).rings = s.rings := by unfold State.spreadStop; split <;> simp
@[simp] theorem spreadStop_time (s : State) (w : Word) : (s.spreadStop w).time = s.time := by unfold State.spreadStop; split <;> simp
@[simp] theorem spreadStop_power (s : State) (w : Word) : (s.spreadStop w).power = s.power := by unfold State.spreadStop; split <;> simp
@[simp] theorem spreadStop_mgmt (s : State) (w : Word) : (s.spreadStop w).mgmt = s.mgmt := by unfold State.spreadStop; split <;> simp

@[simp] theorem raiseStop_pending (s : State) (n k : Nat) : (s.raiseStop n k).pending = s.pending := by unfold State.raiseStop; dsimp only; split <;> simp
@[simp] theorem raiseStop_fresh (s : State) (n k : Nat) : (s.raiseStop n k).fresh = s.fresh := by unfold State.raiseStop; dsimp only; split <;> simp
@[simp] theorem raiseStop_sys (s : State) (n k : Nat) : (s.raiseStop n k).sys = s.sys := by unfold State.raiseStop; dsimp only; split <;> simp
@[simp] theorem raiseStop_coaches (s : State) (n k : Nat) : (s.raiseStop n k).coaches = s.coaches := by unfold State.raiseStop; dsimp only; split <;> simp
@[simp] theorem raiseStop_llc (s : State) (n k : Nat) : (s.raiseStop n k).llc = s.llc := by unfold State.raiseStop; dsimp only; split <;> simp
@[simp] theorem raiseStop_mem (s : State) (n k : Nat) : (s.raiseStop n k).mem = s.mem := by unfold State.raiseStop; dsimp only; split <;> simp
@[simp] theorem raiseStop_hostMem (s : State) (n k : Nat) : (s.raiseStop n k).hostMem = s.hostMem := by unfold State.raiseStop; dsimp only; split <;> simp
@[simp] theorem raiseStop_flash (s : State) (n k : Nat) : (s.raiseStop n k).flash = s.flash := by unfold State.raiseStop; dsimp only; split <;> simp
@[simp] theorem raiseStop_engines (s : State) (n k : Nat) : (s.raiseStop n k).engines = s.engines := by unfold State.raiseStop; dsimp only; split <;> simp
@[simp] theorem raiseStop_flows (s : State) (n k : Nat) : (s.raiseStop n k).flows = s.flows := by unfold State.raiseStop; dsimp only; split <;> simp
@[simp] theorem raiseStop_chans (s : State) (n k : Nat) : (s.raiseStop n k).chans = s.chans := by unfold State.raiseStop; dsimp only; split <;> simp
@[simp] theorem raiseStop_sems (s : State) (n k : Nat) : (s.raiseStop n k).sems = s.sems := by unfold State.raiseStop; dsimp only; split <;> simp
@[simp] theorem raiseStop_watch (s : State) (n k : Nat) : (s.raiseStop n k).watch = s.watch := by unfold State.raiseStop; dsimp only; split <;> simp
@[simp] theorem raiseStop_ledger (s : State) (n k : Nat) : (s.raiseStop n k).ledger = s.ledger := by unfold State.raiseStop; dsimp only; split <;> simp
@[simp] theorem raiseStop_time (s : State) (n k : Nat) : (s.raiseStop n k).time = s.time := by unfold State.raiseStop; dsimp only; split <;> simp
@[simp] theorem raiseStop_power (s : State) (n k : Nat) : (s.raiseStop n k).power = s.power := by unfold State.raiseStop; dsimp only; split <;> simp
@[simp] theorem raiseStop_mgmt (s : State) (n k : Nat) : (s.raiseStop n k).mgmt = s.mgmt := by unfold State.raiseStop; dsimp only; split <;> simp

@[simp] theorem overflowed_pending (s : State) (r : StatRef) : (s.overflowed r).pending = s.pending := by unfold State.overflowed; split <;> simp
@[simp] theorem overflowed_fresh (s : State) (r : StatRef) : (s.overflowed r).fresh = s.fresh := by unfold State.overflowed; split <;> simp
@[simp] theorem overflowed_sys (s : State) (r : StatRef) : (s.overflowed r).sys = s.sys := by unfold State.overflowed; split <;> simp
@[simp] theorem overflowed_coaches (s : State) (r : StatRef) : (s.overflowed r).coaches = s.coaches := by unfold State.overflowed; split <;> simp
@[simp] theorem overflowed_llc (s : State) (r : StatRef) : (s.overflowed r).llc = s.llc := by unfold State.overflowed; split <;> simp
@[simp] theorem overflowed_mem (s : State) (r : StatRef) : (s.overflowed r).mem = s.mem := by unfold State.overflowed; split <;> simp
@[simp] theorem overflowed_hostMem (s : State) (r : StatRef) : (s.overflowed r).hostMem = s.hostMem := by unfold State.overflowed; split <;> simp
@[simp] theorem overflowed_flash (s : State) (r : StatRef) : (s.overflowed r).flash = s.flash := by unfold State.overflowed; split <;> simp
@[simp] theorem overflowed_movers (s : State) (r : StatRef) : (s.overflowed r).movers = s.movers := by unfold State.overflowed; split <;> simp
@[simp] theorem overflowed_engines (s : State) (r : StatRef) : (s.overflowed r).engines = s.engines := by unfold State.overflowed; split <;> simp
@[simp] theorem overflowed_ports (s : State) (r : StatRef) : (s.overflowed r).ports = s.ports := by unfold State.overflowed; split <;> simp
@[simp] theorem overflowed_flows (s : State) (r : StatRef) : (s.overflowed r).flows = s.flows := by unfold State.overflowed; split <;> simp
@[simp] theorem overflowed_arrivals (s : State) (r : StatRef) : (s.overflowed r).arrivals = s.arrivals := by unfold State.overflowed; split <;> simp
@[simp] theorem overflowed_early (s : State) (r : StatRef) : (s.overflowed r).early = s.early := by unfold State.overflowed; split <;> simp
@[simp] theorem overflowed_colls (s : State) (r : StatRef) : (s.overflowed r).colls = s.colls := by unfold State.overflowed; split <;> simp
@[simp] theorem overflowed_chans (s : State) (r : StatRef) : (s.overflowed r).chans = s.chans := by unfold State.overflowed; split <;> simp
@[simp] theorem overflowed_sems (s : State) (r : StatRef) : (s.overflowed r).sems = s.sems := by unfold State.overflowed; split <;> simp
@[simp] theorem overflowed_halt (s : State) (r : StatRef) : (s.overflowed r).halt = s.halt := by unfold State.overflowed; split <;> simp
@[simp] theorem overflowed_tender (s : State) (r : StatRef) : (s.overflowed r).tender = s.tender := by unfold State.overflowed; split <;> simp
@[simp] theorem overflowed_ledger (s : State) (r : StatRef) : (s.overflowed r).ledger = s.ledger := by unfold State.overflowed; split <;> simp
@[simp] theorem overflowed_way (s : State) (r : StatRef) : (s.overflowed r).way = s.way := by unfold State.overflowed; split <;> simp
@[simp] theorem overflowed_time (s : State) (r : StatRef) : (s.overflowed r).time = s.time := by unfold State.overflowed; split <;> simp
@[simp] theorem overflowed_power (s : State) (r : StatRef) : (s.overflowed r).power = s.power := by unfold State.overflowed; split <;> simp
@[simp] theorem overflowed_mgmt (s : State) (r : StatRef) : (s.overflowed r).mgmt = s.mgmt := by unfold State.overflowed; split <;> simp
@[simp] theorem overflowed_outbox (s : State) (r : StatRef) : (s.overflowed r).outbox = s.outbox := by unfold State.overflowed; split <;> simp

@[simp] theorem withMac_pending (s : State) (k : Ticket) (b : List Byte) : ((withMac s k b).2).pending = s.pending := by unfold withMac; repeat' (first | rfl | split)
@[simp] theorem withMac_sys (s : State) (k : Ticket) (b : List Byte) : ((withMac s k b).2).sys = s.sys := by unfold withMac; repeat' (first | rfl | split)
@[simp] theorem withMac_coaches (s : State) (k : Ticket) (b : List Byte) : ((withMac s k b).2).coaches = s.coaches := by unfold withMac; repeat' (first | rfl | split)
@[simp] theorem withMac_llc (s : State) (k : Ticket) (b : List Byte) : ((withMac s k b).2).llc = s.llc := by unfold withMac; repeat' (first | rfl | split)
@[simp] theorem withMac_mem (s : State) (k : Ticket) (b : List Byte) : ((withMac s k b).2).mem = s.mem := by unfold withMac; repeat' (first | rfl | split)
@[simp] theorem withMac_hostMem (s : State) (k : Ticket) (b : List Byte) : ((withMac s k b).2).hostMem = s.hostMem := by unfold withMac; repeat' (first | rfl | split)
@[simp] theorem withMac_flash (s : State) (k : Ticket) (b : List Byte) : ((withMac s k b).2).flash = s.flash := by unfold withMac; repeat' (first | rfl | split)
@[simp] theorem withMac_movers (s : State) (k : Ticket) (b : List Byte) : ((withMac s k b).2).movers = s.movers := by unfold withMac; repeat' (first | rfl | split)
@[simp] theorem withMac_engines (s : State) (k : Ticket) (b : List Byte) : ((withMac s k b).2).engines = s.engines := by unfold withMac; repeat' (first | rfl | split)
@[simp] theorem withMac_ports (s : State) (k : Ticket) (b : List Byte) : ((withMac s k b).2).ports = s.ports := by unfold withMac; repeat' (first | rfl | split)
@[simp] theorem withMac_flows (s : State) (k : Ticket) (b : List Byte) : ((withMac s k b).2).flows = s.flows := by unfold withMac; repeat' (first | rfl | split)
@[simp] theorem withMac_arrivals (s : State) (k : Ticket) (b : List Byte) : ((withMac s k b).2).arrivals = s.arrivals := by unfold withMac; repeat' (first | rfl | split)
@[simp] theorem withMac_early (s : State) (k : Ticket) (b : List Byte) : ((withMac s k b).2).early = s.early := by unfold withMac; repeat' (first | rfl | split)
@[simp] theorem withMac_colls (s : State) (k : Ticket) (b : List Byte) : ((withMac s k b).2).colls = s.colls := by unfold withMac; repeat' (first | rfl | split)
@[simp] theorem withMac_chans (s : State) (k : Ticket) (b : List Byte) : ((withMac s k b).2).chans = s.chans := by unfold withMac; repeat' (first | rfl | split)
@[simp] theorem withMac_sems (s : State) (k : Ticket) (b : List Byte) : ((withMac s k b).2).sems = s.sems := by unfold withMac; repeat' (first | rfl | split)
@[simp] theorem withMac_halt (s : State) (k : Ticket) (b : List Byte) : ((withMac s k b).2).halt = s.halt := by unfold withMac; repeat' (first | rfl | split)
@[simp] theorem withMac_watch (s : State) (k : Ticket) (b : List Byte) : ((withMac s k b).2).watch = s.watch := by unfold withMac; repeat' (first | rfl | split)
@[simp] theorem withMac_tender (s : State) (k : Ticket) (b : List Byte) : ((withMac s k b).2).tender = s.tender := by unfold withMac; repeat' (first | rfl | split)
@[simp] theorem withMac_ledger (s : State) (k : Ticket) (b : List Byte) : ((withMac s k b).2).ledger = s.ledger := by unfold withMac; repeat' (first | rfl | split)
@[simp] theorem withMac_way (s : State) (k : Ticket) (b : List Byte) : ((withMac s k b).2).way = s.way := by unfold withMac; repeat' (first | rfl | split)
@[simp] theorem withMac_rings (s : State) (k : Ticket) (b : List Byte) : ((withMac s k b).2).rings = s.rings := by unfold withMac; repeat' (first | rfl | split)
@[simp] theorem withMac_time (s : State) (k : Ticket) (b : List Byte) : ((withMac s k b).2).time = s.time := by unfold withMac; repeat' (first | rfl | split)
@[simp] theorem withMac_power (s : State) (k : Ticket) (b : List Byte) : ((withMac s k b).2).power = s.power := by unfold withMac; repeat' (first | rfl | split)
@[simp] theorem withMac_mgmt (s : State) (k : Ticket) (b : List Byte) : ((withMac s k b).2).mgmt = s.mgmt := by unfold withMac; repeat' (first | rfl | split)
@[simp] theorem withMac_outbox (s : State) (k : Ticket) (b : List Byte) : ((withMac s k b).2).outbox = s.outbox := by unfold withMac; repeat' (first | rfl | split)

@[simp] theorem respondRaw_pending (s : State) (p : Path) (g : Nat) (b : List Byte) : (respondRaw s p g b).pending = s.pending := by unfold respondRaw; repeat' (first | rfl | split)
@[simp] theorem respondRaw_fresh (s : State) (p : Path) (g : Nat) (b : List Byte) : (respondRaw s p g b).fresh = s.fresh := by unfold respondRaw; repeat' (first | rfl | split)
@[simp] theorem respondRaw_sys (s : State) (p : Path) (g : Nat) (b : List Byte) : (respondRaw s p g b).sys = s.sys := by unfold respondRaw; repeat' (first | rfl | split)
@[simp] theorem respondRaw_coaches (s : State) (p : Path) (g : Nat) (b : List Byte) : (respondRaw s p g b).coaches = s.coaches := by unfold respondRaw; repeat' (first | rfl | split)
@[simp] theorem respondRaw_llc (s : State) (p : Path) (g : Nat) (b : List Byte) : (respondRaw s p g b).llc = s.llc := by unfold respondRaw; repeat' (first | rfl | split)
@[simp] theorem respondRaw_mem (s : State) (p : Path) (g : Nat) (b : List Byte) : (respondRaw s p g b).mem = s.mem := by unfold respondRaw; repeat' (first | rfl | split)
@[simp] theorem respondRaw_hostMem (s : State) (p : Path) (g : Nat) (b : List Byte) : (respondRaw s p g b).hostMem = s.hostMem := by unfold respondRaw; repeat' (first | rfl | split)
@[simp] theorem respondRaw_flash (s : State) (p : Path) (g : Nat) (b : List Byte) : (respondRaw s p g b).flash = s.flash := by unfold respondRaw; repeat' (first | rfl | split)
@[simp] theorem respondRaw_movers (s : State) (p : Path) (g : Nat) (b : List Byte) : (respondRaw s p g b).movers = s.movers := by unfold respondRaw; repeat' (first | rfl | split)
@[simp] theorem respondRaw_engines (s : State) (p : Path) (g : Nat) (b : List Byte) : (respondRaw s p g b).engines = s.engines := by unfold respondRaw; repeat' (first | rfl | split)
@[simp] theorem respondRaw_ports (s : State) (p : Path) (g : Nat) (b : List Byte) : (respondRaw s p g b).ports = s.ports := by unfold respondRaw; repeat' (first | rfl | split)
@[simp] theorem respondRaw_flows (s : State) (p : Path) (g : Nat) (b : List Byte) : (respondRaw s p g b).flows = s.flows := by unfold respondRaw; repeat' (first | rfl | split)
@[simp] theorem respondRaw_arrivals (s : State) (p : Path) (g : Nat) (b : List Byte) : (respondRaw s p g b).arrivals = s.arrivals := by unfold respondRaw; repeat' (first | rfl | split)
@[simp] theorem respondRaw_early (s : State) (p : Path) (g : Nat) (b : List Byte) : (respondRaw s p g b).early = s.early := by unfold respondRaw; repeat' (first | rfl | split)
@[simp] theorem respondRaw_colls (s : State) (p : Path) (g : Nat) (b : List Byte) : (respondRaw s p g b).colls = s.colls := by unfold respondRaw; repeat' (first | rfl | split)
@[simp] theorem respondRaw_chans (s : State) (p : Path) (g : Nat) (b : List Byte) : (respondRaw s p g b).chans = s.chans := by unfold respondRaw; repeat' (first | rfl | split)
@[simp] theorem respondRaw_sems (s : State) (p : Path) (g : Nat) (b : List Byte) : (respondRaw s p g b).sems = s.sems := by unfold respondRaw; repeat' (first | rfl | split)
@[simp] theorem respondRaw_halt (s : State) (p : Path) (g : Nat) (b : List Byte) : (respondRaw s p g b).halt = s.halt := by unfold respondRaw; repeat' (first | rfl | split)
@[simp] theorem respondRaw_watch (s : State) (p : Path) (g : Nat) (b : List Byte) : (respondRaw s p g b).watch = s.watch := by unfold respondRaw; repeat' (first | rfl | split)
@[simp] theorem respondRaw_tender (s : State) (p : Path) (g : Nat) (b : List Byte) : (respondRaw s p g b).tender = s.tender := by unfold respondRaw; repeat' (first | rfl | split)
@[simp] theorem respondRaw_ledger (s : State) (p : Path) (g : Nat) (b : List Byte) : (respondRaw s p g b).ledger = s.ledger := by unfold respondRaw; repeat' (first | rfl | split)
@[simp] theorem respondRaw_way (s : State) (p : Path) (g : Nat) (b : List Byte) : (respondRaw s p g b).way = s.way := by unfold respondRaw; repeat' (first | rfl | split)
@[simp] theorem respondRaw_rings (s : State) (p : Path) (g : Nat) (b : List Byte) : (respondRaw s p g b).rings = s.rings := by unfold respondRaw; repeat' (first | rfl | split)
@[simp] theorem respondRaw_time (s : State) (p : Path) (g : Nat) (b : List Byte) : (respondRaw s p g b).time = s.time := by unfold respondRaw; repeat' (first | rfl | split)
@[simp] theorem respondRaw_power (s : State) (p : Path) (g : Nat) (b : List Byte) : (respondRaw s p g b).power = s.power := by unfold respondRaw; repeat' (first | rfl | split)

@[simp] theorem respond_pending (s : State) (k : Ticket) (st : Nat) (b : List Byte) : (respond s k st b).pending = s.pending := (respondRaw_pending _ _ _ _).trans (withMac_pending s _ _)
@[simp] theorem respond_sys (s : State) (k : Ticket) (st : Nat) (b : List Byte) : (respond s k st b).sys = s.sys := (respondRaw_sys _ _ _ _).trans (withMac_sys s _ _)
@[simp] theorem respond_coaches (s : State) (k : Ticket) (st : Nat) (b : List Byte) : (respond s k st b).coaches = s.coaches := (respondRaw_coaches _ _ _ _).trans (withMac_coaches s _ _)
@[simp] theorem respond_llc (s : State) (k : Ticket) (st : Nat) (b : List Byte) : (respond s k st b).llc = s.llc := (respondRaw_llc _ _ _ _).trans (withMac_llc s _ _)
@[simp] theorem respond_mem (s : State) (k : Ticket) (st : Nat) (b : List Byte) : (respond s k st b).mem = s.mem := (respondRaw_mem _ _ _ _).trans (withMac_mem s _ _)
@[simp] theorem respond_hostMem (s : State) (k : Ticket) (st : Nat) (b : List Byte) : (respond s k st b).hostMem = s.hostMem := (respondRaw_hostMem _ _ _ _).trans (withMac_hostMem s _ _)
@[simp] theorem respond_flash (s : State) (k : Ticket) (st : Nat) (b : List Byte) : (respond s k st b).flash = s.flash := (respondRaw_flash _ _ _ _).trans (withMac_flash s _ _)
@[simp] theorem respond_movers (s : State) (k : Ticket) (st : Nat) (b : List Byte) : (respond s k st b).movers = s.movers := (respondRaw_movers _ _ _ _).trans (withMac_movers s _ _)
@[simp] theorem respond_engines (s : State) (k : Ticket) (st : Nat) (b : List Byte) : (respond s k st b).engines = s.engines := (respondRaw_engines _ _ _ _).trans (withMac_engines s _ _)
@[simp] theorem respond_ports (s : State) (k : Ticket) (st : Nat) (b : List Byte) : (respond s k st b).ports = s.ports := (respondRaw_ports _ _ _ _).trans (withMac_ports s _ _)
@[simp] theorem respond_flows (s : State) (k : Ticket) (st : Nat) (b : List Byte) : (respond s k st b).flows = s.flows := (respondRaw_flows _ _ _ _).trans (withMac_flows s _ _)
@[simp] theorem respond_arrivals (s : State) (k : Ticket) (st : Nat) (b : List Byte) : (respond s k st b).arrivals = s.arrivals := (respondRaw_arrivals _ _ _ _).trans (withMac_arrivals s _ _)
@[simp] theorem respond_early (s : State) (k : Ticket) (st : Nat) (b : List Byte) : (respond s k st b).early = s.early := (respondRaw_early _ _ _ _).trans (withMac_early s _ _)
@[simp] theorem respond_colls (s : State) (k : Ticket) (st : Nat) (b : List Byte) : (respond s k st b).colls = s.colls := (respondRaw_colls _ _ _ _).trans (withMac_colls s _ _)
@[simp] theorem respond_chans (s : State) (k : Ticket) (st : Nat) (b : List Byte) : (respond s k st b).chans = s.chans := (respondRaw_chans _ _ _ _).trans (withMac_chans s _ _)
@[simp] theorem respond_sems (s : State) (k : Ticket) (st : Nat) (b : List Byte) : (respond s k st b).sems = s.sems := (respondRaw_sems _ _ _ _).trans (withMac_sems s _ _)
@[simp] theorem respond_halt (s : State) (k : Ticket) (st : Nat) (b : List Byte) : (respond s k st b).halt = s.halt := (respondRaw_halt _ _ _ _).trans (withMac_halt s _ _)
@[simp] theorem respond_watch (s : State) (k : Ticket) (st : Nat) (b : List Byte) : (respond s k st b).watch = s.watch := (respondRaw_watch _ _ _ _).trans (withMac_watch s _ _)
@[simp] theorem respond_tender (s : State) (k : Ticket) (st : Nat) (b : List Byte) : (respond s k st b).tender = s.tender := (respondRaw_tender _ _ _ _).trans (withMac_tender s _ _)
@[simp] theorem respond_ledger (s : State) (k : Ticket) (st : Nat) (b : List Byte) : (respond s k st b).ledger = s.ledger := (respondRaw_ledger _ _ _ _).trans (withMac_ledger s _ _)
@[simp] theorem respond_way (s : State) (k : Ticket) (st : Nat) (b : List Byte) : (respond s k st b).way = s.way := (respondRaw_way _ _ _ _).trans (withMac_way s _ _)
@[simp] theorem respond_rings (s : State) (k : Ticket) (st : Nat) (b : List Byte) : (respond s k st b).rings = s.rings := (respondRaw_rings _ _ _ _).trans (withMac_rings s _ _)
@[simp] theorem respond_time (s : State) (k : Ticket) (st : Nat) (b : List Byte) : (respond s k st b).time = s.time := (respondRaw_time _ _ _ _).trans (withMac_time s _ _)
@[simp] theorem respond_power (s : State) (k : Ticket) (st : Nat) (b : List Byte) : (respond s k st b).power = s.power := (respondRaw_power _ _ _ _).trans (withMac_power s _ _)

@[simp] theorem ringDone_pending (s : State) (r : Nat) (i : BitVec 32) (st v : Nat) : (ringDone s r i st v).pending = s.pending := rfl
@[simp] theorem ringDone_fresh (s : State) (r : Nat) (i : BitVec 32) (st v : Nat) : (ringDone s r i st v).fresh = s.fresh := rfl
@[simp] theorem ringDone_sys (s : State) (r : Nat) (i : BitVec 32) (st v : Nat) : (ringDone s r i st v).sys = s.sys := rfl
@[simp] theorem ringDone_coaches (s : State) (r : Nat) (i : BitVec 32) (st v : Nat) : (ringDone s r i st v).coaches = s.coaches := rfl
@[simp] theorem ringDone_llc (s : State) (r : Nat) (i : BitVec 32) (st v : Nat) : (ringDone s r i st v).llc = s.llc := rfl
@[simp] theorem ringDone_mem (s : State) (r : Nat) (i : BitVec 32) (st v : Nat) : (ringDone s r i st v).mem = s.mem := rfl
@[simp] theorem ringDone_hostMem (s : State) (r : Nat) (i : BitVec 32) (st v : Nat) : (ringDone s r i st v).hostMem = s.hostMem := rfl
@[simp] theorem ringDone_flash (s : State) (r : Nat) (i : BitVec 32) (st v : Nat) : (ringDone s r i st v).flash = s.flash := rfl
@[simp] theorem ringDone_movers (s : State) (r : Nat) (i : BitVec 32) (st v : Nat) : (ringDone s r i st v).movers = s.movers := rfl
@[simp] theorem ringDone_engines (s : State) (r : Nat) (i : BitVec 32) (st v : Nat) : (ringDone s r i st v).engines = s.engines := rfl
@[simp] theorem ringDone_ports (s : State) (r : Nat) (i : BitVec 32) (st v : Nat) : (ringDone s r i st v).ports = s.ports := rfl
@[simp] theorem ringDone_flows (s : State) (r : Nat) (i : BitVec 32) (st v : Nat) : (ringDone s r i st v).flows = s.flows := rfl
@[simp] theorem ringDone_arrivals (s : State) (r : Nat) (i : BitVec 32) (st v : Nat) : (ringDone s r i st v).arrivals = s.arrivals := rfl
@[simp] theorem ringDone_early (s : State) (r : Nat) (i : BitVec 32) (st v : Nat) : (ringDone s r i st v).early = s.early := rfl
@[simp] theorem ringDone_colls (s : State) (r : Nat) (i : BitVec 32) (st v : Nat) : (ringDone s r i st v).colls = s.colls := rfl
@[simp] theorem ringDone_chans (s : State) (r : Nat) (i : BitVec 32) (st v : Nat) : (ringDone s r i st v).chans = s.chans := rfl
@[simp] theorem ringDone_sems (s : State) (r : Nat) (i : BitVec 32) (st v : Nat) : (ringDone s r i st v).sems = s.sems := rfl
@[simp] theorem ringDone_halt (s : State) (r : Nat) (i : BitVec 32) (st v : Nat) : (ringDone s r i st v).halt = s.halt := rfl
@[simp] theorem ringDone_watch (s : State) (r : Nat) (i : BitVec 32) (st v : Nat) : (ringDone s r i st v).watch = s.watch := rfl
@[simp] theorem ringDone_tender (s : State) (r : Nat) (i : BitVec 32) (st v : Nat) : (ringDone s r i st v).tender = s.tender := rfl
@[simp] theorem ringDone_ledger (s : State) (r : Nat) (i : BitVec 32) (st v : Nat) : (ringDone s r i st v).ledger = s.ledger := rfl
@[simp] theorem ringDone_way (s : State) (r : Nat) (i : BitVec 32) (st v : Nat) : (ringDone s r i st v).way = s.way := rfl
@[simp] theorem ringDone_time (s : State) (r : Nat) (i : BitVec 32) (st v : Nat) : (ringDone s r i st v).time = s.time := rfl
@[simp] theorem ringDone_power (s : State) (r : Nat) (i : BitVec 32) (st v : Nat) : (ringDone s r i st v).power = s.power := rfl
@[simp] theorem ringDone_mgmt (s : State) (r : Nat) (i : BitVec 32) (st v : Nat) : (ringDone s r i st v).mgmt = s.mgmt := rfl
@[simp] theorem ringDone_outbox (s : State) (r : Nat) (i : BitVec 32) (st v : Nat) : (ringDone s r i st v).outbox = s.outbox := rfl

@[simp] theorem msix_pending (s : State) (v : Nat) : (msix s v).pending = s.pending := by unfold msix; split <;> rfl
@[simp] theorem msix_fresh (s : State) (v : Nat) : (msix s v).fresh = s.fresh := by unfold msix; split <;> rfl
@[simp] theorem msix_sys (s : State) (v : Nat) : (msix s v).sys = s.sys := by unfold msix; split <;> rfl
@[simp] theorem msix_coaches (s : State) (v : Nat) : (msix s v).coaches = s.coaches := by unfold msix; split <;> rfl
@[simp] theorem msix_llc (s : State) (v : Nat) : (msix s v).llc = s.llc := by unfold msix; split <;> rfl
@[simp] theorem msix_mem (s : State) (v : Nat) : (msix s v).mem = s.mem := by unfold msix; split <;> rfl
@[simp] theorem msix_hostMem (s : State) (v : Nat) : (msix s v).hostMem = s.hostMem := by unfold msix; split <;> rfl
@[simp] theorem msix_flash (s : State) (v : Nat) : (msix s v).flash = s.flash := by unfold msix; split <;> rfl
@[simp] theorem msix_movers (s : State) (v : Nat) : (msix s v).movers = s.movers := by unfold msix; split <;> rfl
@[simp] theorem msix_engines (s : State) (v : Nat) : (msix s v).engines = s.engines := by unfold msix; split <;> rfl
@[simp] theorem msix_ports (s : State) (v : Nat) : (msix s v).ports = s.ports := by unfold msix; split <;> rfl
@[simp] theorem msix_flows (s : State) (v : Nat) : (msix s v).flows = s.flows := by unfold msix; split <;> rfl
@[simp] theorem msix_arrivals (s : State) (v : Nat) : (msix s v).arrivals = s.arrivals := by unfold msix; split <;> rfl
@[simp] theorem msix_early (s : State) (v : Nat) : (msix s v).early = s.early := by unfold msix; split <;> rfl
@[simp] theorem msix_colls (s : State) (v : Nat) : (msix s v).colls = s.colls := by unfold msix; split <;> rfl
@[simp] theorem msix_chans (s : State) (v : Nat) : (msix s v).chans = s.chans := by unfold msix; split <;> rfl
@[simp] theorem msix_sems (s : State) (v : Nat) : (msix s v).sems = s.sems := by unfold msix; split <;> rfl
@[simp] theorem msix_halt (s : State) (v : Nat) : (msix s v).halt = s.halt := by unfold msix; split <;> rfl
@[simp] theorem msix_watch (s : State) (v : Nat) : (msix s v).watch = s.watch := by unfold msix; split <;> rfl
@[simp] theorem msix_tender (s : State) (v : Nat) : (msix s v).tender = s.tender := by unfold msix; split <;> rfl
@[simp] theorem msix_ledger (s : State) (v : Nat) : (msix s v).ledger = s.ledger := by unfold msix; split <;> rfl
@[simp] theorem msix_way (s : State) (v : Nat) : (msix s v).way = s.way := by unfold msix; split <;> rfl
@[simp] theorem msix_time (s : State) (v : Nat) : (msix s v).time = s.time := by unfold msix; split <;> rfl
@[simp] theorem msix_power (s : State) (v : Nat) : (msix s v).power = s.power := by unfold msix; split <;> rfl
@[simp] theorem msix_mgmt (s : State) (v : Nat) : (msix s v).mgmt = s.mgmt := by unfold msix; split <;> rfl

@[simp] theorem boxReset_pending (s : State)  : (boxReset s).pending = s.pending := rfl
@[simp] theorem boxReset_fresh (s : State)  : (boxReset s).fresh = s.fresh := rfl
@[simp] theorem boxReset_sys (s : State)  : (boxReset s).sys = s.sys := rfl
@[simp] theorem boxReset_coaches (s : State)  : (boxReset s).coaches = s.coaches := rfl
@[simp] theorem boxReset_llc (s : State)  : (boxReset s).llc = s.llc := rfl
@[simp] theorem boxReset_mem (s : State)  : (boxReset s).mem = s.mem := rfl
@[simp] theorem boxReset_hostMem (s : State)  : (boxReset s).hostMem = s.hostMem := rfl
@[simp] theorem boxReset_flash (s : State)  : (boxReset s).flash = s.flash := rfl
@[simp] theorem boxReset_movers (s : State)  : (boxReset s).movers = s.movers := rfl
@[simp] theorem boxReset_engines (s : State)  : (boxReset s).engines = s.engines := rfl
@[simp] theorem boxReset_ports (s : State)  : (boxReset s).ports = s.ports := rfl
@[simp] theorem boxReset_flows (s : State)  : (boxReset s).flows = s.flows := rfl
@[simp] theorem boxReset_arrivals (s : State)  : (boxReset s).arrivals = s.arrivals := rfl
@[simp] theorem boxReset_early (s : State)  : (boxReset s).early = s.early := rfl
@[simp] theorem boxReset_colls (s : State)  : (boxReset s).colls = s.colls := rfl
@[simp] theorem boxReset_chans (s : State)  : (boxReset s).chans = s.chans := rfl
@[simp] theorem boxReset_sems (s : State)  : (boxReset s).sems = s.sems := rfl
@[simp] theorem boxReset_halt (s : State)  : (boxReset s).halt = s.halt := rfl
@[simp] theorem boxReset_watch (s : State)  : (boxReset s).watch = s.watch := rfl
@[simp] theorem boxReset_tender (s : State)  : (boxReset s).tender = s.tender := rfl
@[simp] theorem boxReset_ledger (s : State)  : (boxReset s).ledger = s.ledger := rfl
@[simp] theorem boxReset_way (s : State)  : (boxReset s).way = s.way := rfl
@[simp] theorem boxReset_rings (s : State)  : (boxReset s).rings = s.rings := rfl
@[simp] theorem boxReset_time (s : State)  : (boxReset s).time = s.time := rfl
@[simp] theorem boxReset_power (s : State)  : (boxReset s).power = s.power := rfl
@[simp] theorem boxReset_outbox (s : State)  : (boxReset s).outbox = s.outbox := rfl

@[simp] theorem portDown_pending (s : State) (p : Nat) : (portDown s p).pending = s.pending := rfl
@[simp] theorem portDown_fresh (s : State) (p : Nat) : (portDown s p).fresh = s.fresh := rfl
@[simp] theorem portDown_sys (s : State) (p : Nat) : (portDown s p).sys = s.sys := rfl
@[simp] theorem portDown_coaches (s : State) (p : Nat) : (portDown s p).coaches = s.coaches := rfl
@[simp] theorem portDown_llc (s : State) (p : Nat) : (portDown s p).llc = s.llc := rfl
@[simp] theorem portDown_mem (s : State) (p : Nat) : (portDown s p).mem = s.mem := rfl
@[simp] theorem portDown_hostMem (s : State) (p : Nat) : (portDown s p).hostMem = s.hostMem := rfl
@[simp] theorem portDown_flash (s : State) (p : Nat) : (portDown s p).flash = s.flash := rfl
@[simp] theorem portDown_movers (s : State) (p : Nat) : (portDown s p).movers = s.movers := rfl
@[simp] theorem portDown_engines (s : State) (p : Nat) : (portDown s p).engines = s.engines := rfl
@[simp] theorem portDown_flows (s : State) (p : Nat) : (portDown s p).flows = s.flows := rfl
@[simp] theorem portDown_arrivals (s : State) (p : Nat) : (portDown s p).arrivals = s.arrivals := rfl
@[simp] theorem portDown_early (s : State) (p : Nat) : (portDown s p).early = s.early := rfl
@[simp] theorem portDown_colls (s : State) (p : Nat) : (portDown s p).colls = s.colls := rfl
@[simp] theorem portDown_chans (s : State) (p : Nat) : (portDown s p).chans = s.chans := rfl
@[simp] theorem portDown_sems (s : State) (p : Nat) : (portDown s p).sems = s.sems := rfl
@[simp] theorem portDown_halt (s : State) (p : Nat) : (portDown s p).halt = s.halt := rfl
@[simp] theorem portDown_watch (s : State) (p : Nat) : (portDown s p).watch = s.watch := rfl
@[simp] theorem portDown_tender (s : State) (p : Nat) : (portDown s p).tender = s.tender := rfl
@[simp] theorem portDown_ledger (s : State) (p : Nat) : (portDown s p).ledger = s.ledger := rfl
@[simp] theorem portDown_way (s : State) (p : Nat) : (portDown s p).way = s.way := rfl
@[simp] theorem portDown_rings (s : State) (p : Nat) : (portDown s p).rings = s.rings := rfl
@[simp] theorem portDown_time (s : State) (p : Nat) : (portDown s p).time = s.time := rfl
@[simp] theorem portDown_power (s : State) (p : Nat) : (portDown s p).power = s.power := rfl
@[simp] theorem portDown_mgmt (s : State) (p : Nat) : (portDown s p).mgmt = s.mgmt := rfl
@[simp] theorem portDown_outbox (s : State) (p : Nat) : (portDown s p).outbox = s.outbox := rfl

@[simp] theorem darken_pending (s : State) (e : Nat) : (darken s e).pending = s.pending := foldl_proj State.pending _ (fun t p => portDown_pending t p) _ s
@[simp] theorem darken_fresh (s : State) (e : Nat) : (darken s e).fresh = s.fresh := foldl_proj State.fresh _ (fun t p => portDown_fresh t p) _ s
@[simp] theorem darken_sys (s : State) (e : Nat) : (darken s e).sys = s.sys := foldl_proj State.sys _ (fun t p => portDown_sys t p) _ s
@[simp] theorem darken_coaches (s : State) (e : Nat) : (darken s e).coaches = s.coaches := foldl_proj State.coaches _ (fun t p => portDown_coaches t p) _ s
@[simp] theorem darken_llc (s : State) (e : Nat) : (darken s e).llc = s.llc := foldl_proj State.llc _ (fun t p => portDown_llc t p) _ s
@[simp] theorem darken_mem (s : State) (e : Nat) : (darken s e).mem = s.mem := foldl_proj State.mem _ (fun t p => portDown_mem t p) _ s
@[simp] theorem darken_hostMem (s : State) (e : Nat) : (darken s e).hostMem = s.hostMem := foldl_proj State.hostMem _ (fun t p => portDown_hostMem t p) _ s
@[simp] theorem darken_flash (s : State) (e : Nat) : (darken s e).flash = s.flash := foldl_proj State.flash _ (fun t p => portDown_flash t p) _ s
@[simp] theorem darken_movers (s : State) (e : Nat) : (darken s e).movers = s.movers := foldl_proj State.movers _ (fun t p => portDown_movers t p) _ s
@[simp] theorem darken_engines (s : State) (e : Nat) : (darken s e).engines = s.engines := foldl_proj State.engines _ (fun t p => portDown_engines t p) _ s
@[simp] theorem darken_flows (s : State) (e : Nat) : (darken s e).flows = s.flows := foldl_proj State.flows _ (fun t p => portDown_flows t p) _ s
@[simp] theorem darken_arrivals (s : State) (e : Nat) : (darken s e).arrivals = s.arrivals := foldl_proj State.arrivals _ (fun t p => portDown_arrivals t p) _ s
@[simp] theorem darken_early (s : State) (e : Nat) : (darken s e).early = s.early := foldl_proj State.early _ (fun t p => portDown_early t p) _ s
@[simp] theorem darken_colls (s : State) (e : Nat) : (darken s e).colls = s.colls := foldl_proj State.colls _ (fun t p => portDown_colls t p) _ s
@[simp] theorem darken_chans (s : State) (e : Nat) : (darken s e).chans = s.chans := foldl_proj State.chans _ (fun t p => portDown_chans t p) _ s
@[simp] theorem darken_sems (s : State) (e : Nat) : (darken s e).sems = s.sems := foldl_proj State.sems _ (fun t p => portDown_sems t p) _ s
@[simp] theorem darken_halt (s : State) (e : Nat) : (darken s e).halt = s.halt := foldl_proj State.halt _ (fun t p => portDown_halt t p) _ s
@[simp] theorem darken_watch (s : State) (e : Nat) : (darken s e).watch = s.watch := foldl_proj State.watch _ (fun t p => portDown_watch t p) _ s
@[simp] theorem darken_tender (s : State) (e : Nat) : (darken s e).tender = s.tender := foldl_proj State.tender _ (fun t p => portDown_tender t p) _ s
@[simp] theorem darken_ledger (s : State) (e : Nat) : (darken s e).ledger = s.ledger := foldl_proj State.ledger _ (fun t p => portDown_ledger t p) _ s
@[simp] theorem darken_way (s : State) (e : Nat) : (darken s e).way = s.way := foldl_proj State.way _ (fun t p => portDown_way t p) _ s
@[simp] theorem darken_rings (s : State) (e : Nat) : (darken s e).rings = s.rings := foldl_proj State.rings _ (fun t p => portDown_rings t p) _ s
@[simp] theorem darken_time (s : State) (e : Nat) : (darken s e).time = s.time := foldl_proj State.time _ (fun t p => portDown_time t p) _ s
@[simp] theorem darken_power (s : State) (e : Nat) : (darken s e).power = s.power := foldl_proj State.power _ (fun t p => portDown_power t p) _ s
@[simp] theorem darken_mgmt (s : State) (e : Nat) : (darken s e).mgmt = s.mgmt := foldl_proj State.mgmt _ (fun t p => portDown_mgmt t p) _ s
@[simp] theorem darken_outbox (s : State) (e : Nat) : (darken s e).outbox = s.outbox := foldl_proj State.outbox _ (fun t p => portDown_outbox t p) _ s

@[simp] theorem engineOff_pending (s : State) (e : Nat) : (engineOff s e).pending = s.pending := (darken_pending s e :)
@[simp] theorem engineOff_fresh (s : State) (e : Nat) : (engineOff s e).fresh = s.fresh := (darken_fresh s e :)
@[simp] theorem engineOff_sys (s : State) (e : Nat) : (engineOff s e).sys = s.sys := (darken_sys s e :)
@[simp] theorem engineOff_coaches (s : State) (e : Nat) : (engineOff s e).coaches = s.coaches := (darken_coaches s e :)
@[simp] theorem engineOff_llc (s : State) (e : Nat) : (engineOff s e).llc = s.llc := (darken_llc s e :)
@[simp] theorem engineOff_mem (s : State) (e : Nat) : (engineOff s e).mem = s.mem := (darken_mem s e :)
@[simp] theorem engineOff_hostMem (s : State) (e : Nat) : (engineOff s e).hostMem = s.hostMem := (darken_hostMem s e :)
@[simp] theorem engineOff_flash (s : State) (e : Nat) : (engineOff s e).flash = s.flash := (darken_flash s e :)
@[simp] theorem engineOff_movers (s : State) (e : Nat) : (engineOff s e).movers = s.movers := (darken_movers s e :)
@[simp] theorem engineOff_flows (s : State) (e : Nat) : (engineOff s e).flows = s.flows := (darken_flows s e :)
@[simp] theorem engineOff_arrivals (s : State) (e : Nat) : (engineOff s e).arrivals = s.arrivals := (darken_arrivals s e :)
@[simp] theorem engineOff_early (s : State) (e : Nat) : (engineOff s e).early = s.early := (darken_early s e :)
@[simp] theorem engineOff_colls (s : State) (e : Nat) : (engineOff s e).colls = s.colls := (darken_colls s e :)
@[simp] theorem engineOff_chans (s : State) (e : Nat) : (engineOff s e).chans = s.chans := (darken_chans s e :)
@[simp] theorem engineOff_sems (s : State) (e : Nat) : (engineOff s e).sems = s.sems := (darken_sems s e :)
@[simp] theorem engineOff_halt (s : State) (e : Nat) : (engineOff s e).halt = s.halt := (darken_halt s e :)
@[simp] theorem engineOff_watch (s : State) (e : Nat) : (engineOff s e).watch = s.watch := (darken_watch s e :)
@[simp] theorem engineOff_tender (s : State) (e : Nat) : (engineOff s e).tender = s.tender := (darken_tender s e :)
@[simp] theorem engineOff_ledger (s : State) (e : Nat) : (engineOff s e).ledger = s.ledger := (darken_ledger s e :)
@[simp] theorem engineOff_way (s : State) (e : Nat) : (engineOff s e).way = s.way := (darken_way s e :)
@[simp] theorem engineOff_rings (s : State) (e : Nat) : (engineOff s e).rings = s.rings := (darken_rings s e :)
@[simp] theorem engineOff_time (s : State) (e : Nat) : (engineOff s e).time = s.time := (darken_time s e :)
@[simp] theorem engineOff_power (s : State) (e : Nat) : (engineOff s e).power = s.power := (darken_power s e :)
@[simp] theorem engineOff_mgmt (s : State) (e : Nat) : (engineOff s e).mgmt = s.mgmt := (darken_mgmt s e :)
@[simp] theorem engineOff_outbox (s : State) (e : Nat) : (engineOff s e).outbox = s.outbox := (darken_outbox s e :)

@[simp] theorem powerDown_pending (s : State)  : (powerDown s).pending = s.pending := foldl_proj State.pending _ (fun t e => engineOff_pending t e) _ _
@[simp] theorem powerDown_fresh (s : State)  : (powerDown s).fresh = s.fresh := foldl_proj State.fresh _ (fun t e => engineOff_fresh t e) _ _
@[simp] theorem powerDown_coaches (s : State)  : (powerDown s).coaches = s.coaches := foldl_proj State.coaches _ (fun t e => engineOff_coaches t e) _ _
@[simp] theorem powerDown_llc (s : State)  : (powerDown s).llc = s.llc := foldl_proj State.llc _ (fun t e => engineOff_llc t e) _ _
@[simp] theorem powerDown_mem (s : State)  : (powerDown s).mem = s.mem := foldl_proj State.mem _ (fun t e => engineOff_mem t e) _ _
@[simp] theorem powerDown_hostMem (s : State)  : (powerDown s).hostMem = s.hostMem := foldl_proj State.hostMem _ (fun t e => engineOff_hostMem t e) _ _
@[simp] theorem powerDown_flash (s : State)  : (powerDown s).flash = s.flash := foldl_proj State.flash _ (fun t e => engineOff_flash t e) _ _
@[simp] theorem powerDown_movers (s : State)  : (powerDown s).movers = s.movers := foldl_proj State.movers _ (fun t e => engineOff_movers t e) _ _
@[simp] theorem powerDown_flows (s : State)  : (powerDown s).flows = s.flows := foldl_proj State.flows _ (fun t e => engineOff_flows t e) _ _
@[simp] theorem powerDown_arrivals (s : State)  : (powerDown s).arrivals = s.arrivals := foldl_proj State.arrivals _ (fun t e => engineOff_arrivals t e) _ _
@[simp] theorem powerDown_early (s : State)  : (powerDown s).early = s.early := foldl_proj State.early _ (fun t e => engineOff_early t e) _ _
@[simp] theorem powerDown_colls (s : State)  : (powerDown s).colls = s.colls := foldl_proj State.colls _ (fun t e => engineOff_colls t e) _ _
@[simp] theorem powerDown_chans (s : State)  : (powerDown s).chans = s.chans := foldl_proj State.chans _ (fun t e => engineOff_chans t e) _ _
@[simp] theorem powerDown_sems (s : State)  : (powerDown s).sems = s.sems := foldl_proj State.sems _ (fun t e => engineOff_sems t e) _ _
@[simp] theorem powerDown_halt (s : State)  : (powerDown s).halt = s.halt := foldl_proj State.halt _ (fun t e => engineOff_halt t e) _ _
@[simp] theorem powerDown_watch (s : State)  : (powerDown s).watch = s.watch := foldl_proj State.watch _ (fun t e => engineOff_watch t e) _ _
@[simp] theorem powerDown_tender (s : State)  : (powerDown s).tender = s.tender := foldl_proj State.tender _ (fun t e => engineOff_tender t e) _ _
@[simp] theorem powerDown_ledger (s : State)  : (powerDown s).ledger = s.ledger := foldl_proj State.ledger _ (fun t e => engineOff_ledger t e) _ _
@[simp] theorem powerDown_way (s : State)  : (powerDown s).way = s.way := foldl_proj State.way _ (fun t e => engineOff_way t e) _ _
@[simp] theorem powerDown_rings (s : State)  : (powerDown s).rings = s.rings := foldl_proj State.rings _ (fun t e => engineOff_rings t e) _ _
@[simp] theorem powerDown_time (s : State)  : (powerDown s).time = s.time := foldl_proj State.time _ (fun t e => engineOff_time t e) _ _
@[simp] theorem powerDown_mgmt (s : State)  : (powerDown s).mgmt = s.mgmt := foldl_proj State.mgmt _ (fun t e => engineOff_mgmt t e) _ _
@[simp] theorem powerDown_outbox (s : State)  : (powerDown s).outbox = s.outbox := foldl_proj State.outbox _ (fun t e => engineOff_outbox t e) _ _

@[simp] theorem railsOff_pending (s : State)  : (railsOff s).pending = s.pending := (powerDown_pending _ :)
@[simp] theorem railsOff_fresh (s : State)  : (railsOff s).fresh = s.fresh := (powerDown_fresh _ :)
@[simp] theorem railsOff_coaches (s : State)  : (railsOff s).coaches = s.coaches := (powerDown_coaches _ :)
@[simp] theorem railsOff_llc (s : State)  : (railsOff s).llc = s.llc := (powerDown_llc _ :)
@[simp] theorem railsOff_mem (s : State)  : (railsOff s).mem = s.mem := (powerDown_mem _ :)
@[simp] theorem railsOff_hostMem (s : State)  : (railsOff s).hostMem = s.hostMem := (powerDown_hostMem _ :)
@[simp] theorem railsOff_flash (s : State)  : (railsOff s).flash = s.flash := (powerDown_flash _ :)
@[simp] theorem railsOff_movers (s : State)  : (railsOff s).movers = s.movers := (powerDown_movers _ :)
@[simp] theorem railsOff_flows (s : State)  : (railsOff s).flows = s.flows := (powerDown_flows _ :)
@[simp] theorem railsOff_arrivals (s : State)  : (railsOff s).arrivals = s.arrivals := (powerDown_arrivals _ :)
@[simp] theorem railsOff_early (s : State)  : (railsOff s).early = s.early := (powerDown_early _ :)
@[simp] theorem railsOff_colls (s : State)  : (railsOff s).colls = s.colls := (powerDown_colls _ :)
@[simp] theorem railsOff_chans (s : State)  : (railsOff s).chans = s.chans := (powerDown_chans _ :)
@[simp] theorem railsOff_sems (s : State)  : (railsOff s).sems = s.sems := (powerDown_sems _ :)
@[simp] theorem railsOff_halt (s : State)  : (railsOff s).halt = s.halt := (powerDown_halt _ :)
@[simp] theorem railsOff_watch (s : State)  : (railsOff s).watch = s.watch := (powerDown_watch _ :)
@[simp] theorem railsOff_tender (s : State)  : (railsOff s).tender = s.tender := (powerDown_tender _ :)
@[simp] theorem railsOff_ledger (s : State)  : (railsOff s).ledger = s.ledger := (powerDown_ledger _ :)
@[simp] theorem railsOff_way (s : State)  : (railsOff s).way = s.way := (powerDown_way _ :)
@[simp] theorem railsOff_rings (s : State)  : (railsOff s).rings = s.rings := (powerDown_rings _ :)
@[simp] theorem railsOff_time (s : State)  : (railsOff s).time = s.time := (powerDown_time _ :)
@[simp] theorem railsOff_mgmt (s : State)  : (railsOff s).mgmt = s.mgmt := (powerDown_mgmt _ :)
@[simp] theorem railsOff_outbox (s : State)  : (railsOff s).outbox = s.outbox := (powerDown_outbox _ :)

-- what the operations do

theorem foldl_engineOff_sys (s : State) (l : List Nat) : (l.foldl engineOff s).sys = s.sys :=
  foldl_proj State.sys _ (fun t e => engineOff_sys t e) l s

theorem foldl_engineOff_power (s : State) (l : List Nat) : (l.foldl engineOff s).power = s.power :=
  foldl_proj State.power _ (fun t e => engineOff_power t e) l s

@[simp] theorem powerDown_sys (s : State) : (powerDown s).sys = { s.sys with
    railMem := 0, railCore := false, railEng := 0, ready := false, cxlUp := false, ideCm := false, ideIo := false } :=
  foldl_engineOff_sys _ _

@[simp] theorem stopModule_halt (s : State) (n : Nat) : (s.stopModule n).halt = { s.halt with state := 2, source := n, due := none } := by
  unfold State.stopModule; dsimp only; split <;> rfl

/-- R433: a stop drops what stands in the queues of the Tender, and nothing else of it. -/
@[simp] theorem stopModule_tender (s : State) (n : Nat) : (s.stopModule n).tender = { s.tender with queue := [], stalled := false } := by
  unfold State.stopModule; dsimp only; split <;> rfl

@[simp] theorem stopModule_way (s : State) (n : Nat) : (s.stopModule n).way = { s.way with saves := [] } := by
  unfold State.stopModule; dsimp only; split <;> rfl

theorem stopModule_movers (s : State) (n : Nat) : (s.stopModule n).movers =
    mupdAll {} s.movers (List.range 32) fun k => { k with stopped := true, cur := k.cur.filter MoverCur.lost, extra := [] } := by
  unfold State.stopModule; dsimp only; split <;> rfl

theorem stopModule_colls (s : State) (n : Nat) : (s.stopModule n).colls =
    mupdAll {} s.colls (List.range 16) fun k => { k with stopped := true, cur := k.cur.filter CollCur.lost, extra := [] } := by
  unfold State.stopModule; dsimp only; split <;> rfl

/-- R459: every mover is stopped, and a descriptor it keeps has lost a peer. -/
theorem stopModule_mover (s : State) (n : Nat) {m : Nat} (h : m < 32) :
    ((s.stopModule n).mover m).stopped = true ∧ ∀ d ∈ ((s.stopModule n).mover m).cur, d.lost = true := by
  obtain ⟨x, hx⟩ := mget_mupdAll_mem (α := Mover) {} _ (List.range 32) s.movers (List.mem_range.mpr h)
  unfold State.mover
  rw [stopModule_movers, hx]
  exact ⟨rfl, fun d hd => (Option.mem_filter_iff.mp hd).2⟩

/-- R433: every collective queue is stopped, and a descriptor it keeps has lost a peer. -/
theorem stopModule_coll (s : State) (n : Nat) {q : Nat} (h : q < 16) :
    ((s.stopModule n).coll q).stopped = true ∧ ∀ d ∈ ((s.stopModule n).coll q).cur, d.lost = true := by
  obtain ⟨x, hx⟩ := mget_mupdAll_mem (α := CollQ) {} _ (List.range 16) s.colls (List.mem_range.mpr h)
  unfold State.coll
  rw [stopModule_colls, hx]
  exact ⟨rfl, fun d hd => (Option.mem_filter_iff.mp hd).2⟩

/-- R529: the raised event waits, unless 256 others do. -/
theorem raised_raise (s : State) (c a x : Nat) : Raised s (s.raise c a x) c a x := by
  intro h
  unfold State.raise
  rw [if_pos h]
  exact ⟨_, List.mem_append_right _ (List.mem_singleton.mpr rfl), rfl, rfl, rfl⟩

end Sys2Proof.Machine
end

