-- ==== Sys2Proof/Tests/Slice0.lean ====
section
/-! SUPPORT. Tests of the model on small states, and for each statement states and operands that meet its hypotheses. -/

namespace Sys2Proof.Tests

set_option Elab.async false

open Sys2Proof.Machine

-- the states that the tests start from

/-- A module that runs: the host link is up and memory is trained. -/
def up : State := { State.reset with sys := { State.reset.sys with ready := true, cxlUp := true, rate := 3, width := 16 } }

/-- A module whose input has not come up. -/
def unpowered : State := up.updSys fun y => { y with input := false, thonar := false }

/-- A module held in reset by the host. -/
def held : State := up.updSys fun y => { y with hostRstN := false, ready := false }

/-- Seat 1 of coach 2. -/
def r21 : SeatRef := ⟨2, 1⟩

/-- A running module with that seat rewritten. -/
def seated (f : Seat → Seat) : State := up.updSeat r21 f

/-- The seat after a command. -/
def seatAfter (c : Instr) (s : State) : Option Seat := (nextState (exec c s)).map fun t => t.seat r21

/-- A register of the seat after a command. -/
def xAfter (c : Instr) (s : State) (n : RegNo) : Option Word := (seatAfter c s).map fun q => q.rx n

/-- What a question about the next state of a command answers. -/
def after {α : Type} (c : Instr) (s : State) (f : State → α) : Option α := (nextState (exec c s)).map f

-- WellFormed: each check refuses a command that is not well formed

def hdr0 : FrameHdr := { type := 0, flags := 0, flow := 0, seq := 0, ack := 0, src := 0, gen := 0, tag := 0, leaf := 0, offset := 0 }

/-- R368: a frame with no payload. -/
def emptyFrame : Frame := ⟨hdr0, []⟩

/-- A frame of one codeword. -/
def frame1 : Frame := ⟨hdr0, [(5, false)]⟩

theorem test_wf_frame_empty : wf (.carriageFrameReceive 0 emptyFrame [] ⟨false, 0⟩) = false := by decide
theorem test_wf_frame_long : wf (.carriageFrameReceive 0 ⟨hdr0, List.replicate 129 (0, false)⟩ [] ⟨false, 0⟩) = false := by
  decide +kernel
theorem test_wf_frame_errors : wf (.carriageFrameReceive 0 frame1 [0, 0, 0] ⟨false, 0⟩) = false := by decide
theorem test_wf_frame : wf (.carriageFrameReceive 0 frame1 [0, 0] ⟨false, 0⟩) = true := by decide
theorem test_wf_frame_fec : wf (.carriageFrameReceive 0 frame1 [] ⟨true, 0⟩) = false := by decide
theorem test_wf_datagram : wf (.udpDatagramReceive 7 0 0 emptyFrame) = false := by decide
theorem test_wf_read_request : wf (.remoteReadRequest 0 emptyFrame) = false := by decide
theorem test_wf_remote_write : wf (.remoteWrite 0 emptyFrame) = false := by decide
theorem test_wf_read_response : wf (.remoteReadResponse r21 (List.replicate 257 0) 0) = false := by decide +kernel
theorem test_wf_host_read : wf (.llcAccess (.hostRead 0x3F 2) 0) = false := by decide
theorem test_wf_host_write : wf (.llcAccess (.hostWrite 0x3F [1, 2]) 0) = false := by decide
theorem test_wf_fill : wf (.llcMissFill 4500000000) = false := by decide
theorem test_wf_fill_last : wf (.llcMissFill 4499999999) = true := by decide
theorem test_wf_memory_read : wf (.memoryRead 18000000000 none) = false := by decide
theorem test_wf_memory_write : wf (.memoryWrite 18000000000 0 false false) = false := by decide
theorem test_wf_tender_block : wf (.tenderBlockArrival 0 0 0 1 [0]) = false := by decide
theorem test_wf_waybill_entry : wf (.waybillMirrorReceive [0]) = false := by decide

/-- An ill-formed command stops with the fault's name. -/
theorem test_ill_formed_faults : exec (.memoryRead 18000000000 none) up = .fault .illFormed := rfl
-- supply, reset lines and images: states that meet the hypotheses of the statements

theorem test_meets_PowerOn : unpowered.sys.input = false ∧ unpowered.sys.seated = true ∧ up.sys.input = true := by decide
theorem test_meets_ImagesVerified : unpowered.sys.input = false ∧ up.sys.input = true ∧ up.sys.tripped = false ∧ up.sys.thonar = true := by decide
theorem test_meets_HostReset : up.sys.hostRstN = true ∧ held.sys.hostRstN = false := by decide
theorem test_meets_ReadyAfterTraining : State.reset.sys.ready = false ∧ State.reset.sys.hostRstN = true ∧ State.reset.sys.thonar = true ∧
    State.reset.sys.railMem = 0xFF ∧ State.reset.sys.railCore = true ∧ State.reset.sys.haltN = true := by decide
theorem test_meets_HostLink : up.sys.hostRstN = true ∧ up.sys.railCore = true ∧ up.sys.cxlUp = true ∧ up.sys.ideIo = false ∧
    (up.updSys fun y => { y with ideIo := true }).sys.ideIo = true := by decide
theorem test_meets_FunctionLevelReset : up.sys.cxlUp = true ∧ State.reset.sys.cxlUp = false ∧ up.rings.boundary = [] := by decide

/-- A request that waits. -/
def asked (p : Path) (cmd : Nat) (pl : List Byte) : State := up.updMgmt fun m => { m with inbox := [(⟨p, cmd, 0, 0, [], 0⟩, pl)] }

theorem test_meets_Seating : Oldest (asked .i3c 0x56 []) .i3c 0x56 ⟨.i3c, 0x56, 0, 0, [], 0⟩ [] := by
  unfold Oldest; decide

/-- R633: READY comes with the trained memory. -/
theorem test_ready : after .memoryTrainedReady State.reset (fun t => t.sys.ready) = some true := by decide

/-- R516: at eight lanes or more the link runs at sixteen or at eight. -/
theorem test_link_width : (after (.cxlLinkUp 2 9) State.reset fun t => t.sys.width) = some 8 := by decide
theorem test_link_short : (after (.cxlLinkUp 2 7) up fun t => t.sys.cxlUp) = some false := by decide
-- scalar instructions, exceptions and branches

/-- A plain instruction of the seat. -/
def plain : Instr := .scalarIntImmOp r21 .addi 4 3 0
theorem test_may_issue : mayIssue up r21 plain = true ∧ mayIssue (seated fun q => { q with wait := .cord false 0 1 }) r21 plain = false := by decide
theorem test_meets_ScalarRegisterForms : mayIssue up r21 (.scalarIntRegOp r21 0x020 4 3 5) = true ∧ mayIssue up r21 (.scalarIntRegOp r21 0x7FF 4 3 5) = true ∧ (up.seat r21).rxp 3 = false ∧
    ((seated fun q => q.wx 3 7 true).seat r21).rxp 3 = true ∧ mayIssue (seated fun q => q.wx 3 7 true) r21 (.scalarIntRegOp r21 0x020 4 3 5) = true := by decide

/-- R640: addition wraps; register 3 is 2^64 − 1. -/
theorem test_add_wraps : xAfter (.scalarIntRegOp r21 0x000 4 3 3) (seated fun q => q.wx 3 0xFFFFFFFFFFFFFFFF false) 4
    = some 0xFFFFFFFFFFFFFFFE := by decide

/-- R644: division of the most negative number by −1 gives the dividend; by 0 gives −1. -/
theorem test_div_overflow : xAfter (.scalarIntRegOp r21 0x028 4 3 5)
    (seated fun q => (q.wx 3 0x8000000000000000 false).wx 5 0xFFFFFFFFFFFFFFFF false) 4 = some 0x8000000000000000 := by decide

/-- R640: ORI extends with zeros, ADDI with the sign. -/
theorem test_ori_zero_extends : xAfter (.scalarIntImmOp r21 .ori 4 0 0x8000) up 4 = some 0x8000 := by decide
theorem test_addi_sign_extends : xAfter (.scalarIntImmOp r21 .addi 4 0 0xFFFF) up 4 = some 0xFFFFFFFFFFFFFFFF := by decide
theorem test_meets_ScalarImmediateForms : mayIssue up r21 (.scalarIntImmOp r21 .slli 4 3 64) = true ∧ mayIssue up r21 (.scalarIntImmOp r21 .addpc 4 0 63) = true ∧
    mayIssue (seated fun q => q.wx 3 7 true) r21 plain = true ∧ 64 ≤ (64 : Half).toNat ∧ ¬64 ≤ (63 : Half).toNat := by decide

/-- R62: a write of X0 is discarded. -/
theorem test_x0 : xAfter (.scalarIntImmOp r21 .addi 0 0 9) up 0 = some 0 := by decide

/-- R85: an illegal instruction saves its address and goes to VBASE + 16 × cause 0. -/
theorem test_illegal_entry : (seatAfter (.scalarIntRegOp r21 0x7FF 4 3 3) (seated fun q => { q with pc := 0x40, vbase := 0x1000 })).map
    (fun q => (q.epc, q.pc, q.estat.ex)) = some (0x40, 0x1000, true) := by decide

/-- R100: a second exception goes to VBASE + 0x400. -/
theorem test_second_pair : (seatAfter (.scalarIntRegOp r21 0x7FF 4 3 3)
    (seated fun q => { q with pc := 0x40, vbase := 0x1000, estat := { q.estat with ex := true } })).map
    (fun q => (q.epc, q.epc2, q.pc)) = some (0, 0x40, 0x1400) := by decide

/-- States for the first pair, the second and a coach that stops. -/
theorem test_meets_ExceptionEntry : (up.seat r21).estat2.ex = false ∧ (up.seat r21).estat.ex = false ∧
    ((seated fun q => { q with estat := { q.estat with ex := true } }).seat r21).estat.ex = true ∧ (63 : Nat) < 64 ∧ (255 : Nat) < 256 := by decide

/-- A seat at M that returns from an exception taken at S. -/
def inHandler : State := seated fun q => { q with epc := 0x44, estat := { cause := 1, ex := true, pmask := false, pl := .s, prog := 3 } }

theorem test_meets_ExceptionReturn : mayIssue inHandler r21 (.eret r21 ⟨0, 0, 0, 0⟩) = true ∧ (inHandler.seat r21).level ≠ .u ∧
    ¬levelCode (inHandler.seat r21).level < levelCode (inHandler.seat r21).estat.pl ∧
    mayIssue (seated fun q => { q with level := .u }) r21 (.eret r21 ⟨0, 0, 0, 0⟩) = true := by decide

/-- R98: ERET gives back the pc, the level and the resume count. -/
theorem test_eret : (seatAfter (.eret r21 ⟨0, 0, 0, 0⟩) inHandler).map (fun q => (q.pc, q.level, q.resume, q.estat.ex))
    = some (0x44, .s, 3, false) := by decide

/-- A seat with causes 0x24 and 0x22 pending and not masked. -/
def interrupted : State := (up.updSeat r21 fun q => { q with mask := false, pend := 0x14, pendDet := [(2, 7)] })

theorem test_meets_Interrupts : takeable interrupted r21 = true ∧ (interrupted.seat r21).pend.getLsbD 2 = true ∧
    (∀ j < 2, (interrupted.seat r21).pend.getLsbD j = false) ∧ takeable up r21 = false ∧ (up.seat r21).pend.getLsbD 3 = false ∧ (3 : Fin 8) = 3 := by decide

/-- R93: the lowest pending cause is taken first. -/
theorem test_lowest_interrupt : (seatAfter (.interruptTaken r21) interrupted).map (fun q => (q.estat.cause, q.estat.detail, q.pend))
    = some (0x22, 7, 0x10) := by decide

/-- A seat whose drain request was made at time 5. -/
def draining : State := (seated fun q => { q with pend := 8 }).updCoach 2 fun k => { k with drainAt := [(1, some 5)] }

theorem test_meets_Interrupts_drain : mget none (draining.coach 2).drainAt 1 = some 5 ∧ (draining.seat r21).pend.getLsbD 3 = true ∧
    (draining.coach 2).stopped = none ∧ draining.time.ns < 5 + 10000000 ∧
    5 + 10000000 ≤ (draining.updTime fun t => { t with ns := 10000005 }).time.ns := by decide

theorem test_meets_Branches : mayIssue up r21 (.branchCond r21 5 1 9) = true ∧ mayIssue up r21 (.branchCond r21 6 1 9) = true ∧ mayIssue up r21 (.jump r21 4) = true ∧
    mayIssue up r21 (.jr r21 0 1 0) = true ∧ mayIssue up r21 (.callr r21 0 1 0) = true ∧ mayIssue up r21 (.call r21 4) = true ∧
    mayIssue up r21 (.ret r21 0 0 0) = true ∧ (up.seat r21).level = .m ∧ (up.seat r21).rxp 1 = false ∧
    ((up.seat r21).rx 1).toNat % 4 = 0 ∧ ((seated fun q => q.wx 1 2 false).seat r21).rx 1 = 2 ∧ (5 : RegNo).toNat ≤ 5 ∧
    5 < (6 : RegNo).toNat := by decide

/-- R641: BEQZ with offset −1 goes back four bytes. -/
theorem test_branch_back : (seatAfter (.branchCond r21 0 3 0xFFFF) (seated fun q => { q with pc := 0x100 })).map (fun q => q.pc)
    = some 0xFC := by decide

/-- R103: CALL at M leaves the address behind it in X1. -/
theorem test_call_m : (seatAfter (.call r21 4) (seated fun q => { q with pc := 0x100 })).map (fun q => (q.pc, q.rx 1))
    = some (0x110, 0x104) := by decide

/-- A seat at S with a shadow-stack page at 0x400000, a data page at 0x600000 and its SSP in the first. -/
def paged : State := (seated fun q => { q with level := .s, ptroot := 0x4000000000000, ssp := 0x400010, pc := 0x100 }).updCoach 2 fun k =>
  { k with tlb := [⟨2, false, 0, 0x10000223 ||| 0x80⟩, ⟨3, false, 0, 0x10200227⟩] }

theorem test_meets_ShadowStack_call : mayIssue paged r21 (.call r21 4) = true ∧ (paged.seat r21).level ≠ .m ∧ ((paged.seat r21).ssp - 8).toNat % 8 = 0 ∧
    (translate r21 .shadow ((paged.seat r21).ssp - 8).toNat paged).1 = .ok ⟨.mem, 0x10000008, true, false, true, 4, 2⟩ := by decide +kernel

/-- R103: CALL at S moves SSP down by 8. -/
theorem test_call_ssp : (seatAfter (.call r21 4) paged).map (fun q => (q.ssp, q.pc)) = some (0x400008, 0x110) := by decide +kernel

/-- The same seat, the slot that SSP names holding 0x80 in the coach's own copy of its line. -/
def called : State := (paged.updSeat r21 fun q => q.wx 1 0x80 false).updCoach 2 fun k =>
  { k with l1 := [⟨0x10000010 / 128, false, 0, 0x80 <<< 128, 0, 0, false⟩] }

theorem test_meets_ShadowStack_ret : mayIssue called r21 (.ret r21 0 0 0) = true ∧
    (translate r21 .shadow (called.seat r21).ssp.toNat called).1 = .ok ⟨.mem, 0x10000010, true, false, true, 4, 2⟩ ∧
    (loadPhys r21 ⟨.mem, 0x10000010, true, false, true, 4, 2⟩ 8 called).1 = ⟨0x80, 0, 0⟩ ∧ ((called.seat r21).rx 1).toNat % 4 = 0 ∧
    (called.updSeat r21 fun q => q.wx 1 0x84 false).seat r21 ≠ called.seat r21 := by decide +kernel

/-- R104: RET pops the slot; R105: a word that differs from X1 raises cause 9. -/
theorem test_ret_pops : (seatAfter (.ret r21 0 0 0) called).map (fun q => (q.pc, q.ssp)) = some (0x80, 0x400018) := by decide +kernel
theorem test_ret_differs : (seatAfter (.ret r21 0 0 0) (called.updSeat r21 fun q => q.wx 1 0x84 false)).map (fun q => q.estat.cause)
    = some 9 := by decide +kernel

theorem test_meets_ShadowStack_unwind : mayIssue paged r21 (.sspsetUnwind r21 ⟨0, 0, 1, 0⟩) = true ∧ (1 : BitVec 12).toNat = 1 ∧
    mayIssue (paged.updSeat r21 fun q => { q with ssp := 4 }) r21 (.sspsetUnwind r21 ⟨0, 0, 1, 0⟩) = true ∧ ((paged.seat r21).ssp + 8 - 8).toNat % 8 = 0 ∧
    (translate r21 .shadow ((paged.seat r21).ssp + 8 - 8).toNat paged).1 = .ok ⟨.mem, 0x10000010, true, false, true, 4, 2⟩ ∧
    (((paged.updSeat r21 fun q => { q with ssp := 4 }).seat r21).ssp + 8 - 8).toNat % 8 ≠ 0 := by decide +kernel
theorem test_unwind : (seatAfter (.sspsetUnwind r21 ⟨0, 0, 2, 0⟩) paged).map (fun q => q.ssp) = some 0x400020 := by decide +kernel

theorem test_meets_Loads : mayIssue paged r21 (.scalarLoad r21 true 0 0 4 3) = true ∧ mayIssue paged r21 (.fpLoad r21 2 0 4 3) = true ∧ (paged.seat r21).rxp 3 = false ∧
    (translate r21 .load 0x600008 paged).1 = .ok ⟨.mem, 0x10200008, true, false, true, 4, 2⟩ ∧ 0x600008 % 8 = 0 ∧ 0x600001 % 2 ≠ 0 := by decide +kernel

/-- R639: a signed byte load extends the sign; the coach's line holds 0xFE. -/
theorem test_load_signed : xAfter (.scalarLoad r21 true 0 0 4 3)
    ((paged.updSeat r21 fun q => q.wx 3 0x600008 false).updCoach 2 fun k => { k with l1 := [⟨0x10200008 / 128, false, 0, 0xFE <<< 64, 0, 0, false⟩] }) 4
    = some 0xFFFFFFFFFFFFFFFE := by decide +kernel

theorem test_meets_Stores : mayIssue paged r21 (.scalarStore r21 3 0 4 3) = true ∧ mayIssue paged r21 (.fpStore r21 2 0 4 3) = true ∧ mayIssue paged r21 (.fpStore r21 0 0 4 3) = true ∧
    (translate r21 .store 0x600008 paged).1 = .ok ⟨.mem, 0x10200008, true, false, true, 4, 2⟩ ∧
    (paged.seat r21).rxp 4 = false ∧ ((paged.seat r21).rvp 4).getLsbD 0 = false := by decide +kernel

/-- R639: a misaligned store raises cause 4 and stores nothing. -/
theorem test_store_misaligned : (seatAfter (.scalarStore r21 1 0 4 3) (paged.updSeat r21 fun q => q.wx 3 0x600001 false)).map
    (fun q => q.estat.cause) = some 4 := by decide +kernel

/-- A coach that holds a line, and a page of it. -/
def lined : State := up.updCoach 2 fun k => { k with l1 := [⟨0x200000, false, 0, 0, 0, 0, false⟩] }
def linePage : Phys := ⟨.mem, 0x1000007F, true, false, true, 4, 0⟩

theorem test_meets_StoreThenLoad : linePage.pa % 128 + 1 ≤ 128 ∧ (lined.coach 2).l1.find? (ofLine (linePage.pa / 128) false) =
    some ⟨0x200000, false, 0, 0, 0, 0, false⟩ ∧ (lined.coach 2).mbuf = [] ∧ (lined.coach 2).fills = [] ∧ lined.llc.adds = [] ∧
    lined.llc.fwd = [] ∧ lined.mem.hbm = [] := by decide +kernel
theorem test_meets_StoreThenLoad_ladds (c : Nat) : (lined.coach c).ladds = [] := by
  show (mget ({} : Machine.Coach) [_] c).ladds = []
  unfold mget
  split <;> rfl

theorem test_meets_LaddIssue : mayIssue paged r21 (.ladd r21 0 3 4 4 0) = true ∧ (4 : BitVec 3).toNat ≤ 4 ∧ inFlight paged 2 = 0 ∧
    32 ≤ inFlight (paged.updCoach 2 fun k => { k with ladds := List.replicate 32 ⟨r21, 0x10200008, 3, 1, .here⟩ }) 2 := by decide +kernel
theorem test_ladd_leaves : (after (.ladd r21 0 3 4 3 0) (paged.updSeat r21 fun q => q.wx 3 0x600008 false) fun t => t.llc.adds.map fun a => a.pa)
    = some [0x10200008] := by decide +kernel
-- control registers, fences, maintenance, the Cord's instructions and the beat

/-- The seat at U, and at S. -/
def atU : State := seated fun q => { q with level := .u }
def atS : State := seated fun q => { q with level := .s }

theorem test_meets_ControlRegisterReads : mayIssue up r21 (.crd r21 ⟨4, 0, 0x040, 0⟩) = true ∧ mayIssue atU r21 (.crd r21 ⟨4, 0, 0x010, 0⟩) = true ∧
    (atU.seat r21).level = .u ∧
    (up.seat r21).level ≠ .u := by decide

/-- R60: SEATCFG gives the class, the seat and the coach. -/
theorem test_crd_seatcfg : xAfter (.crd r21 ⟨4, 0, 0x040, 0⟩) up 4 = some 0x211 := by decide
theorem test_crd_unknown : (seatAfter (.crd r21 ⟨4, 0, 0x050, 0⟩) up).map (fun q => (q.estat.ex, q.estat.cause)) = some (true, 0) := by decide

theorem test_meets_ControlRegisterWrites : mayIssue up r21 (.cwr r21 ⟨0, 3, 0x013, 0⟩) = true ∧ mayIssue up r21 (.cwrSeatcfg r21 3) = true ∧
    mayIssue up r21 (.cwrPtroot r21 3) = true ∧ mayIssue atU r21 (.cwr r21 ⟨0, 3, 0x012, 0⟩) = true ∧ mayIssue atU r21 (.cwrSeatcfg r21 3) = true ∧
    mayIssue atU r21 (.cwrPtroot r21 3) = true ∧ (up.seat r21).level = .m ∧ (atS.seat r21).level ≠ .m ∧
    (atS.seat r21).level ≠ .u ∧ (atU.seat r21).level = .u ∧ mayIssue atS r21 (.cwr r21 ⟨0, 3, 0x013, 0⟩) = true ∧ (0x400 : Word).extractLsb' 9 2 = 2 ∧
    (0x600 : Word).extractLsb' 9 2 ≠ 2 := by decide

/-- R87: the low 12 bits of VBASE read 0. -/
theorem test_cwr_vbase : (seatAfter (.cwr r21 ⟨0, 3, 0x014, 0⟩) (seated fun q => q.wx 3 0x12FFF false)).map (fun q => q.vbase)
    = some 0x12000 := by decide
/-- R91: the level code 0b10 cannot be saved. -/
theorem test_cwr_bad_level : (seatAfter (.cwr r21 ⟨0, 3, 0x011, 0⟩) (seated fun q => q.wx 3 0x400 false)).map (fun q => q.estat.ex)
    = some true := by decide

/-- A class C seat. -/
def classC : State := seated fun q => { q with classC := true, full := 0x03, tiles := [(0, ⟨7, 0⟩)] }

theorem test_meets_TileFullnessWrite : mayIssue classC r21 (.cwrTfull r21 3) = true ∧ mayIssue up r21 (.cwrTfull r21 3) = true ∧ (classC.seat r21).classC = true ∧ (up.seat r21).classC = false ∧
    (classC.seat r21).level ≠ .u ∧ (classC.coach 2).grouped 0 = false := by decide
theorem test_tfull_releases : (seatAfter (.cwrTfull r21 3) (classC.updSeat r21 fun q => q.wx 3 2 false)).map
    (fun q => (q.full, q.tileRow 0 0)) = some (2, {}) := by decide +kernel

/-- A seat with a remote store under way. -/
def remoteStore : State := seated fun q => { q with remSt := 1 }

theorem test_meets_Fences : mayIssue remoteStore r21 (.fence r21 ⟨3, 1, 0, 0, 0, 0⟩) = true ∧ mayIssue up r21 (.fence r21 ⟨4, 2, 0, 0, 0, 0⟩) = true ∧
    (remoteStore.seat r21).remSt ≠ 0 ∧ (up.seat r21).remSt = 0 ∧
    (4 : BitVec 4).getLsbD 2 = true ∧ (3 : BitVec 4).getLsbD 2 = false := by decide
theorem test_fence_waits : (seatAfter (.fence r21 ⟨3, 1, 0, 0, 0, 0⟩) remoteStore).map (fun q => q.pc) = some 0 := by decide
theorem test_fence_empties : after (.fence r21 ⟨3, 1, 0, 0, 0, 0⟩) lined (fun t => (t.coach 2).l1) = some [] := by decide +kernel

theorem test_meets_TranslationCacheInvalidate : (atU.seat r21).level = .u ∧ mayIssue atU r21 (.tlbinv r21 ⟨1, 0, 0, 0, 0, 4⟩) = true ∧
    mayIssue paged r21 (.tlbinv r21 ⟨1, 0, 0, 0, 0, 4⟩) = true ∧ (paged.seat r21).level ≠ .u := by decide
theorem test_tlbinv_asid : after (.tlbinv r21 ⟨1, 0, 0, 0, 0, 4⟩) paged (fun t => (t.coach 2).tlb) = some [] := by decide

theorem test_meets_CacheMaintenance : mayIssue paged r21 (.cclean r21 ⟨0, 3, 0, false, true, 0⟩) = true ∧
    mayIssue paged r21 (.cinval r21 ⟨0, 3, 0, false, true, 0⟩) = true ∧ mayIssue paged r21 (.cclinv r21 ⟨0, 3, 0, false, true, 0⟩) = true ∧
    mayIssue paged r21 (.cdead r21 ⟨0, 3, 0, false, true, 0⟩) = true ∧
    (translate r21 .load 0x600008 paged).1 = .ok ⟨.mem, 0x10200008, true, false, true, 4, 2⟩ ∧
    (translate r21 .store 0x600008 paged).1 = .ok ⟨.mem, 0x10200008, true, false, true, 4, 2⟩ ∧
    (translate r21 .load 0x1000 up).1 = .ok ⟨.window, 0x1000, false, false, true, 0, 0⟩ ∧ paged.expert 3 = false := by decide
/-- R266: CINVAL drops the coach's copy. -/
theorem test_cinval : after (.cinval r21 ⟨0, 3, 0, false, false, 0⟩) (lined.updSeat r21 fun q => q.wx 3 0x10000040 false)
    (fun t => (t.coach 2).l1) = some [] := by decide +kernel

/-- A barrier channel of two arrivals. -/
def barrier : State := up.updChan 5 fun c => { c with locArr := 2 }

theorem test_meets_CordInstructions : mayIssue barrier r21 (.cordsig r21 ⟨6, 3, 4, false, false, 0⟩) = true ∧
    mayIssue barrier r21 (.cordwait r21 ⟨0, 3, 4, true, false, 0⟩) = true ∧ coachRuns barrier 2 = true ∧ (barrier.chan 5).locArr ≠ 0 ∧ (barrier.chan 6).locArr = 0 ∧
    (barrier.seat r21).remSt = 0 ∧ (barrier.seat r21).wait = .none ∧ reached (barrier.sem 3).value 0 = true ∧
    reached (barrier.sem 3).value 1 = false := by decide +kernel
/-- R418: CORDSIG returns the semaphore's new value. -/
theorem test_cordsig : xAfter (.cordsig r21 ⟨6, 3, 4, false, false, 0⟩) (seated fun q => (q.wx 3 9 false).wx 4 2 false) 6 = some 2 := by
  decide +kernel
/-- R416: a target not reached makes the seat wait. -/
theorem test_cordwait_waits : (seatAfter (.cordwait r21 ⟨0, 3, 4, false, false, 0⟩) (seated fun q => (q.wx 3 9 false).wx 4 1 false)).map
    (fun q => q.wait) = some (.cord false 9 1) := by decide

/-- Two shadow stacks in the coach's lines: the old head at 0x400000, the new one at 0x400100 with a parked pointer. -/
def switching : State := (paged.updSeat r21 fun q => { q.wx 3 0x400100 false with ssh := 0x400000 }).updCoach 2 fun k =>
  { k with l1 := [⟨0x200000, false, 0, 0x400000 <<< 64, 0, 0, false⟩, ⟨0x200002, false, 1, 0x400200 ||| (0x400100 <<< 64), 0, 0, false⟩] }
def page (pa : Nat) : Phys := ⟨.mem, pa, true, false, true, 4, 2⟩
def sw1 : State := (translate r21 .shadow 0x400000 switching).2
def sw2 : State := (translate r21 .shadow 0x400100 sw1).2
def sw3 : State := (headWord r21 (page 0x10000000) 8 sw2).2
def sw4 : State := (headWord r21 (page 0x10000100) 8 sw3).2
def sw5 : State := (headWord r21 (page 0x10000000) 0 sw4).2
def sw6 : State := (headWord r21 (page 0x10000100) 0 sw5).2

/-- Each hypothesis that gives a pair has the state after it as its second part. -/
theorem test_meets_ShadowStackSwitch : mayIssue switching r21 (.sspsetSwitch r21 ⟨0, 3, 0, 0⟩) = true ∧ (switching.seat r21).ssh.toNat % 16 = 0 ∧ ((switching.seat r21).rx 3).toNat % 16 = 0 ∧
    (translate r21 .shadow 0x400000 switching).1 = .ok (page 0x10000000) ∧
    (translate r21 .shadow 0x400100 sw1).1 = .ok (page 0x10000100) ∧
    (headWord r21 (page 0x10000000) 8 sw2).1 = (0x400000, false) ∧ (headWord r21 (page 0x10000100) 8 sw3).1 = (0x400100, false) ∧
    (headWord r21 (page 0x10000000) 0 sw4).1 = (0, false) ∧ (headWord r21 (page 0x10000100) 0 sw5).1 = (0x400200, false) ∧
    (translate r21 .shadow 0x400200 sw6).1 = .ok (page 0x10000200) := by decide +kernel
/-- R106: the seat moves to the parked stack. -/
theorem test_switch : (seatAfter (.sspsetSwitch r21 ⟨0, 3, 0, 0⟩) switching).map (fun q => (q.ssp, q.ssh)) = some (0x400200, 0x400100) := by
  decide +kernel

/-- Seat 1 of coach 2 at an instruction that the coach's instruction cache holds: ADDI X4, X0, 7. -/
def fetching : State := (seated fun q => { q with pc := 0x10000000 }).updCoach 2 fun k =>
  { k with rr := 0, l1i := [⟨0x200000, false, 0, 0x04001C04, 0⟩] }

/-- The same state once the beat has been counted and the interrupts that are due have been taken. -/
def beaten : State := takeAll 2 (countBeat 2 fetching)

theorem test_meets_IssueBeat : coachRuns fetching 2 = true ∧ ready beaten r21 = true ∧
    r21.seat = seatFin ((beaten.coach 2).rr.val + 1 + (0 : Fin 4).val) ∧
    (fetchInstr r21 (beaten.updCoach 2 fun k => { k with rr := 1 })).1 = (.word 0x04001C04, 0) ∧
    decodeWord r21 0x04001C04 0 = some (.scalarIntImmOp r21 .addi 4 0 7) ∧ coachRuns unpowered 2 = true ∧
    coachRuns (up.updSys fun y => { y with railCore := false }) 2 = false := by decide +kernel
/-- Every seat of the coach waits. -/
def allWait : State := up.updCoach 2 fun k => { k with seats := (List.range 4).map fun i => (i, { wait := .cord false 0 1 }) }
theorem test_meets_IssueBeat_idle : coachRuns allWait 2 = true ∧ ∀ t : Fin 4, canIssue allWait ⟨2, t⟩ = false ∧ takeable allWait ⟨2, t⟩ = false := by decide
theorem test_issue_beat : after (.issueBeat 2) fetching (fun t => ((t.seat r21).rx 4, (t.coach 2).beats.val)) = some (7, 1) := by
  decide +kernel
-- vector instructions, tiles and the matrix array

/-- A seat whose P1 selects eight byte lanes, and the word VD = V4, VS1 = V2, VS2 = V3 under P1. -/
def vecSeat (q : Seat) : Seat := { ((q.wp 1 0xFF).wv 2 0x0000000200000001 0).wv 3 0x00000005FFFFFFFF 0 with pc := 0x100 }
def vec : State := seated vecSeat
def word (ew : BitVec 2) : VecWord := ⟨4, 2, 3, 1, false, ew⟩
/-- The same, with segment 0 of V2 poisoned. -/
def vecPoisoned : State := seated fun q => (vecSeat q).wv 2 1 1

/-- Vector register 4 of the seat after a command. -/
def vAfter (c : Instr) (s : State) : Option (BitVec 2048) := (seatAfter c s).map fun q => q.rv 4

theorem test_meets_vecReady : canIssue vec r21 = true ∧ (vec.coach 2).gated = false ∧ (vec.coach 2).waking = false := by decide +kernel
theorem test_meets_VectorInteger : vecReady vec r21 ∧ cleanSource (vec.seat r21) (word 2) 2 ∧ cleanSource (vec.seat r21) (word 2) 3 ∧
    vecReady vecPoisoned r21 ∧ ¬cleanSource (vecPoisoned.seat r21) (word 2) 2 := by
  unfold vecReady cleanSource; decide +kernel

/-- R199: 32-bit elements wrap: 1 + 0xFFFFFFFF is 0 and 2 + 5 is 7. -/
theorem test_vadd : vAfter (.vecIntOp r21 .add (word 2)) vec = some 0x0000000700000000 := by decide +kernel
theorem test_vmin_signed : vAfter (.vecIntOp r21 .min (word 2)) vec = some 0x00000002FFFFFFFF := by decide +kernel

theorem test_meets_VectorFloat : fmtOfEw (word 2).ew = some fmtFP32 ∧ cvtKind .fp32 = .fl fmtFP32 ∧ cvtListed .bf16 .fp32 = true ∧
    cvtEw .bf16 .fp32 = 2 ∧ cvtListed .i32 .i32 = false ∧ (word 0).ew = 0 ∧ cvtListed .fp32 .i32 = true ∧ cvtEw .fp32 .i32 = 2 := by
  decide +kernel
/-- R202: 1.5 + 2.25 is 3.75 in FP32. -/
theorem test_vfadd : (vAfter (.vecFpOp r21 .add (word 2)) (seated fun q => ((vecSeat q).wv 2 0x3FC00000 0).wv 3 0x40100000 0)).map
    (fun v => velem 4 v 0) = some 0x40700000 := by decide +kernel

theorem test_meets_VectorPermuteAndScalar : vecReady vec r21 ∧ cleanSource (vec.seat r21) (word 1) 2 ∧ (word 1).ew = 1 ∧
    ((vec.seat r21).rvp 2).getLsbD 0 = false ∧ ((vecPoisoned.seat r21).rvp 2).getLsbD 0 = true := by
  unfold vecReady cleanSource; decide +kernel
/-- R131: the description 0x3808 takes eight bits from bit 8. -/
theorem test_vbx : (vAfter (.vbx r21 (word 1)) (seated fun q => ((vecSeat q).wv 2 0x123456 0).wv 3 0x3808 0)).map (fun v => velem 2 v 0)
    = some 0x34 := by decide +kernel

theorem test_meets_PredicatesAndMoves : predOp .ilt 0 0 = none ∧ fpCompare .ilt = false ∧ fpCompare .flt = true ∧ (word 0).ew = 0 ∧
    (word 0).pg ≠ 0 ∧ (vec.seat r21).rxp 2 = false ∧ cleanSource (vec.seat r21) (word 2) 2 := by
  unfold cleanSource; decide +kernel
/-- R111: an unsigned compare writes all lanes of an active element: 1 < 0xFFFFFFFF, 2 < 5. -/
theorem test_vcmp : (seatAfter (.vecCompare r21 .iltu (word 2)) vec).map (fun q => q.rp 4) = some 0xFF := by decide +kernel

theorem test_meets_VectorReductions : redFp .isum = false ∧ redFp .fsum = true ∧ cleanSource (vec.seat r21) (word 2) 2 := by
  unfold cleanSource; decide +kernel
theorem test_vsum : vAfter (.vecReduction r21 .isum (word 2)) vec = some 3 := by decide +kernel

/-- A vector seat with X2 the address of a line that the coach holds. -/
def vecMem : State := (seated fun q => (vecSeat q).wx 2 0x10000000 false).updCoach 2 fun k =>
  { k with l1 := [⟨0x200000, false, 0, 0x0706050403020100, 0, 0, false⟩] }
def vaOf (i : Nat) : Nat := 0x10000000 + 4 * i

theorem test_meets_VectorLoadsAndStores : vecReady vecMem r21 ∧ activeList 4 ((vecMem.seat r21).act (word 2)) = [0, 1] ∧
    (checkElems r21 .load vaOf 4 0 false [0, 1] (awake vecMem 2)).bad = none ∧
    anyRemote (checkElems r21 .load vaOf 4 0 false [0, 1] (awake vecMem 2)).ok = false ∧
    (checkElems r21 .store vaOf 4 0 false [0, 1] (awake vecMem 2)).bad = none ∧
    (checkElems r21 .load (fun i => 0x10000001 + 4 * i) 4 0 false [0, 1] (awake vecMem 2)).bad = some (0, 4, 0) ∧
    (checkElems r21 .load (fun i => if i = 0 then 0x10000000 else memBytes) 4 0 true [0, 1] (awake vecMem 2)).bad = some (1, 2, 4) := by
  unfold vecReady; decide +kernel
theorem test_vld : vAfter (.vld r21 ⟨4, 2, 0, 1, true, 2⟩) vecMem = some 0x0706050403020100 := by decide +kernel

theorem test_meets_GathersAndScatters : canIssue vecMem r21 = true ∧
    let q := vecMem.seat r21
    let g := gatherElems r21 q ⟨4, 2, 5, 1, true, 2⟩ 0 false [0, 1] ⟨awake vecMem 2, 0, 0, 0⟩
    let p := gatherElems r21 (q.wx 2 0x10000001) ⟨4, 2, 5, 1, true, 2⟩ 0 false [0, 1] ⟨awake vecMem 2, 0, 0, 0⟩
    g.trap = none ∧ g.point = none ∧ p.trap = some (0, 4, 0) ∧ (p.g.s.seat r21).estat.ex = false ∧
    (scatterElems r21 q ⟨4, 2, 5, 1, true, 2⟩ [0, 1] (awake vecMem 2)).2 = none ∧
    (scatterElems r21 (q.wx 2 0x10000001) ⟨4, 2, 5, 1, true, 2⟩ [0, 1] (awake vecMem 2)).2 = some (0, 4, 0) := by decide +kernel
theorem test_meets_GathersAndScatters_interrupted :
    canBegin (seated fun q => { vecSeat q with mask := false, pend := 1 }) r21 = true ∧ takeable (seated fun q => { vecSeat q with mask := false, pend := 1 }) r21 = true ∧
    (0 : Fin 257).val < 256 / 4 := by decide +kernel
theorem test_vgath : vAfter (.vgath r21 ⟨4, 2, 5, 1, true, 2⟩ none) (vecMem.updSeat r21 fun q => q.wv 5 0x0000000000000001 0)
    = some 0x0302010007060504 := by decide +kernel

/-- A vector seat with tile 1 full: its first row holds 9 in word 1. -/
def lookup : State := seated fun q => { vecSeat q with classC := true, full := 2, tiles := [(128, ⟨0x0000000900000008, 0⟩)] }

theorem test_meets_LookupsAndRans : vecReady lookup r21 ∧ (lookup.coach 2).full 1 1 = true ∧ (lookup.coach 2).full 1 0 = false ∧
    cleanSource (lookup.seat r21) ⟨4, 2, 1, 1, false, 2⟩ 2 ∧
    (∀ r < 128, ((lookup.seat r21).tileRow 1 r).poison = 0) ∧ ((lookup.seat r21).rx 6).getLsbD 0 = false ∧
    ((lookup.updSeat r21 fun q => q.wx 6 1 false).seat r21).rx 6 = 1 ∧ (lookup.seat r21).resume = 0 := by
  unfold vecReady cleanSource; decide +kernel
theorem test_meets_LookupsAndRans_round :
    let s := lookup.updSeat r21 fun q => q.wx 6 0x10000000 false
    (ransRound r21 ⟨4, 6, 8, 1, 0⟩ (awake s 2)).bad = none ∧
    roundPoison (s.seat r21) ⟨4, 6, 8, 1, 0⟩ (ransRound r21 ⟨4, 6, 8, 1, 0⟩ (awake s 2)) = none ∧
    (ransRounds r21 ⟨4, 6, 8, 1, 0⟩ 1 0 (awake s 2)).1 = 1 ∧ (ransRounds r21 ⟨4, 6, 8, 1, 0⟩ 1 0 (awake s 2)).2.2 = none := by
  decide +kernel
/-- R129: index 1 reads word 1 of the tile, index 0 word 0. -/
theorem test_vlut : vAfter (.vlut r21 ⟨4, 2, 1, 1, false, 2⟩) (lookup.updSeat r21 fun q => q.wv 2 1 0) = some 0x0000000800000009 := by
  decide +kernel

/-- A coach whose pipes are gated. -/
def gated : State := vec.updCoach 2 fun k => { k with gated := true }
/-- The same, its line in the coach's L1, and the queue's entry a load that has not run; and one whose entry has. -/
def queued : State := (vecMem.updCoach 2 fun k => { k with gated := true }).updCoach 2 fun k => { k with vq := [⟨1, .vld r21 ⟨4, 2, 0, 1, true, 2⟩, false⟩] }
def ranEntry : State := gated.updCoach 2 fun k => { k with vq := [⟨1, .vecIntOp r21 .add (word 2), true⟩], waking := true }
def idling : State := vec.updCoach 2 fun k => { k with idle := 4096 }

theorem test_meets_VectorPower : (idling.coach 2).gated = false ∧ (idling.coach 2).waking = false ∧ (idling.coach 2).vq = [] ∧
    idling.expert 4 = false ∧ 4096 ≤ (idling.coach 2).idle ∧ (vec.coach 2).idle < 4096 ∧ mayIssue gated r21 (.vld r21 (word 2)) = true ∧
    mayIssue gated r21 (.vecIntOp r21 .add (word 2)) = true ∧
    (queued.coach 2).vq ≠ [] ∧ (queued.coach 2).stopped = none ∧
    ((queued.updCoach 2 fun k => { k with waking := true }).coach 2).waking = true := by decide +kernel
theorem test_gate : after (.vectorPipeGate 2) idling (fun t => (t.coach 2).gated) = some true := by decide +kernel
theorem test_meets_VectorPower_ran : (ranEntry.coach 2).waking = true ∧ (∀ e ∈ (ranEntry.coach 2).vq, e.ran = true) ∧ (queued.coach 2).vq.length = 1 ∧
    cleanSource (gated.seat r21) (word 2) 2 ∧ cleanSource (gated.seat r21) (word 2) 3 ∧
    (((ranEntry.updCoach 2 fun k => { k with seats := [(3, { wait := .tgrp 5 true })] }).coach 2).seat 3).wait = .tgrp 5 true := by
  unfold cleanSource; decide +kernel
theorem test_wake_runs : after (.vectorWakeComplete 2) (queued.updCoach 2 fun k => { k with waking := true })
    (fun t => ((t.coach 2).vq.length, (t.coach 2).gated, (t.seat r21).rv 4)) = some (0, false, 0x0706050403020100) := by decide +kernel
/-- R59: an entry that accesses no memory has its effect in the seat's registers at issue. -/
theorem test_queued_effect : after (.vecIntOp r21 .add (word 2)) gated (fun t => ((t.coach 2).vq.length, (t.seat r21).rv 4))
    = some (1, 0x0000000700000000) := by decide +kernel

/-- One row of sixteen raw bytes of tile 0. -/
def row1 : TileWord := ⟨0, false, false, 2, 0, 0, false, 0, 0, 0, 0, 0⟩
/-- A class C seat whose X2 is the address of a line that the coach holds. -/
def tileMem : State := vecMem.updSeat r21 fun q => { q with classC := true }

theorem test_meets_TileTransfers : mayIssue tileMem r21 (.tld r21 row1 none) = true ∧ mayIssue tileMem r21 (.tst r21 row1 none) = true ∧
    mayIssue vecMem r21 (.tld r21 row1 none) = true ∧ mayIssue vecMem r21 (.tst r21 row1 none) = true ∧ lowestFail (tileChecks (tileMem.coach 2) row1 true) = none ∧
    lowestFail (tileChecks (tileMem.coach 2) row1 false) = none ∧
    lowestFail (tileChecks (tileMem.coach 2) { row1 with rows := 128 } true) = some 1 ∧
    (tileMem.coach 2).full 1 0 = false ∧ (vecMem.coach 2).full 1 0 = true ∧ ((tileMem.seat r21).rx 2).toNat % 16 = 0 ∧
    (moveRows r21 row1 true 1 0 tileMem).1 = 1 ∧ (moveRows r21 row1 true 1 0 tileMem).2.2 = none ∧
    (moveRows r21 row1 false 1 0 vecMem).1 = 1 ∧ (moveRows r21 row1 false 1 0 vecMem).2.2 = none ∧
    (moveRows r21 row1 true 1 0 (tileMem.updSeat r21 fun q => q.wx 2 0x8FFFFFFFFFFF0 false)).2.2 = some (2, 4) ∧
    (tileMem.coach 2).grouped 0 = false := by decide +kernel
theorem test_tld : (seatAfter (.tld r21 row1 none) tileMem).map (fun q => ((q.tileRow 0 0).data, q.full, q.pc))
    = some (0x0706050403020100, 1, 0x108) := by decide +kernel

theorem test_meets_TileReleaseAndGroups : canIssue classC r21 = true ∧ (classC.coach 2).tgrpWaits = false ∧ (up.coach 2).tgrpWaits = false ∧
    (classC.coach 2).grouped 0 = false ∧
    (up.seat r21).classC = false ∧ ((up.updCoach 2 fun k => { k with grp := 1 }).coach 2).grouped 0 = true ∧
    ((up.coach 2).vq.any fun e => readsTile 0 e.instr) = false ∧
    (((up.updCoach 2 fun k => { k with vq := [⟨0, .vlut r21 ⟨4, 2, 0, 1, false, 2⟩, true⟩], gated := true }).coach 2).vq.any
      fun e => readsTile 0 e.instr) = true := by decide +kernel
theorem test_trel : (seatAfter (.trel r21 0 false 0) classC).map (fun q => (q.full, q.tileRow 0 0)) = some (2, {}) := by decide +kernel

/-- One FP8 row by one column over 32 bytes; a class S seat, whose tiles read as full. -/
def mma1 : MmaWord := ⟨0, false, 1, false, 0, 2, 0, false, 0, 0, 0, 31, 0, 0, 0⟩

theorem test_meets_MatrixProducts : canIssue up r21 = true ∧ (up.coach 2).tgrpWaits = false ∧ lowestFail (mmaChecks (up.coach 2) mma1) = none ∧
    emptyTile (up.coach 2) 1 [0, 1, 2] = none ∧ emptyTile (classC.coach 2) 1 [0, 1, 2] = some 2 ∧
    lowestFail (mmaChecks (up.coach 2) { mma1 with n := 128 }) = some 9 ∧
    rowsPoisoned (operandRows (up.coach 2) 1 0 false 0 1) (firstSegs 32) = false ∧
    rowsPoisoned (operandRows (up.coach 2) 1 2 false 0 1) 1 = false ∧ accPoisoned (up.coach 2) 0 1 (firstSegs 4) = false := by
  decide +kernel

/-- One row of 32 columns read out as E4M3. -/
def cvt1 : CvtWord := ⟨1, false, false, 0, 0, 2, 1, false, false, 0, 0, 31, 0, 0, 0⟩

theorem test_meets_ConvertingReadOut : mayIssue up r21 (.tcvt r21 cvt1) = true ∧ fmtOfCode cvt1.fmt.toNat = some fmtE4M3 ∧ lowestFail (cvtChecks (up.coach 2) cvt1) = none ∧
    accPoisoned (up.coach 2) 0 1 (cvtSegs cvt1) = false ∧ lowestFail (cvtChecks (up.coach 2) { cvt1 with cols := 30 }) = some 8 ∧
    (up.seat r21).rxp 0 = false ∧ ((seated fun q => q.wx 7 1 true).seat r21).rxp 7 = true := by decide +kernel

/-- A coach with a sample that awaits its second pass. -/
def sampled : State := up.updCoach 2 fun k => { k with sample := some ⟨0, 0, 1, 1, 1, 0, 0, [0], [0], [0], [0], [0]⟩ }
theorem test_meets_AgreementSampler : (sampled.coach 2).sample.isSome = true ∧ (up.coach 2).sample = none := by decide +kernel
theorem test_second_pass : after (.agreementSamplePass 2) sampled (fun t => (t.coach 2).sample.isSome) = some false := by decide +kernel
-- caches and memory

/-- Coach 2 with a fill in flight, and two entries in its write buffer: one of module memory and one of host memory. -/
def buffered : State := up.updCoach 2 fun k => { k with
  now := 300
  fills := [⟨0x200000, false, 1, 0xAA, 0, 0, 0, 2, false, 10⟩]
  mbuf := [⟨0x300, true, 3, 0xBBCC, 0, 0, 0, 2, false, 40⟩, ⟨0x200001, false, 1, 0x11, 0, 0, 0, 2, false, 50⟩] }

theorem test_meets_CoachBuffers : (buffered.coach 2).fills ≠ [] ∧ (up.coach 2).fills = [] ∧ (up.coach 2).mbuf = [] ∧
    ((buffered.coach 2).mbuf.map fun e => e.host) = [true, false] ∧
    (((buffered.updCoach 2 fun k => { k with mbuf := k.mbuf.drop 1 }).coach 2).mbuf.map fun e => e.host) = [false] ∧
    (∀ e ∈ (buffered.coach 2).mbuf, e.at0 + 256 ≤ 306 ∧ 40 ≤ e.at0) := by decide +kernel
/-- An entry that drains to module memory, and one that an error has met. -/
def entry1 : MEntry := ⟨0x200001, false, 1, 0x11, 0, 0, 0, 2, false, 50⟩
theorem test_meets_CoachBuffers_errors : drainError entry1 buffered = false ∧ drainError { entry1 with err := true } buffered = true ∧
    entry1.seats.getLsbD 1 = true := by decide +kernel
/-- R257: the oldest entry drains: its valid bytes alone reach host memory. -/
theorem test_drain_host : after (.writeBufferDrain 2) buffered (fun t => (t.hostMem, (t.coach 2).mbuf.length))
    = some ([(0x18000, 0xCC), (0x18001, 0xBB)], 1) := by decide +kernel
/-- R257: 256 beats after its first store an entry drains: that of beat 40 at 300 and not that of beat 50. -/
theorem test_merge_timeout : after (.writeBufferTimeout 2) buffered (fun t => (t.coach 2).mbuf.map fun e => e.at0) = some [50] := by decide +kernel

/-- A stream of the stride prefetcher that asks for one line. -/
def streaming : State := up.updCoach 2 fun k => { k with streams := [⟨1, 0, 0x200000, 3, 4, 1⟩] }

theorem test_meets_Prefetch : (streaming.coach 2).streams[(0 : Fin 16).val]? = some ⟨1, 0, 0x200000, 3, 4, 1⟩ ∧
    (up.coach 2).streams[(0 : Fin 16).val]? = none ∧ prefetchLines ⟨1, 0, 0x200000, 3, 4, 1⟩ = [0x200003] ∧
    prefetchMapped (streaming.coach 2) ⟨1, 0, 0x200000, 3, 4, 1⟩ 0x200003 = true ∧ windowEnd ≤ 128 * 0x200003 ∧
    128 * 0x200003 < memBytes ∧ llcLine streaming 0x200003 = none := by decide +kernel
theorem test_prefetch : after (.prefetchIssue 2 0) streaming (fun t => (llcLine t 0x200003).isSome) = some true := by decide +kernel

/-- The last-level cache with one dirty line. -/
def cached : State := up.updLlc fun c => { c with lines := [(0x200000, some ⟨0, 0x12345678, 0, 0, true, 0⟩)] }

theorem test_meets_HomeSliceRequests : cached.sys.cxlUp = true ∧ (0x3C : BitVec 40).toNat % 64 + 4 ≤ 64 ∧ 64 < (0x3C : BitVec 40).toNat % 64 + 5 ∧
    (llcLine cached 0x200000).isSome = true ∧ pinned cached 0x200000 = false ∧ 128 * (0x200000 : BitVec 43).toNat < memBytes ∧
    windowEnd ≤ 128 * 0x200000 ∧ (∀ e ∈ cached.llc.lines, setOfLine e.1 ≠ setOfLine 0x200041) ∧ forwarded cached 0x200041 = false := by
  decide +kernel
theorem test_llc_evict : after (.llcAccess (.evict 0x200000) 0) cached (fun t => (llcLine t 0x200000, (rawCw t 0x800000).1)) =
    some (none, 0x12345678) := by decide +kernel

/-- The line with an add of 32 bits to its second word in its slice's queue, and one forwarded to its stack. -/
def adding : State := cached.updLlc fun c => { c with adds := [⟨r21, 0x10000004, 2, 0xFFFFFFFF, .here⟩] }
def forwarding : State := up.updLlc fun c => { c with fwd := [⟨r21, 0x10000004, 2, 5, .behind⟩] }

theorem test_meets_AtomicAdds : sliceQueue adding (sliceOf 0x200000) = [⟨r21, 0x10000004, 2, 0xFFFFFFFF, .here⟩] ∧ sliceQueue up 0 = [] ∧
    sliceOf 0x200000 < 64 ∧ (llcLine adding (0x10000004 / 128)).isSome = true ∧ (0 : BitVec 4).getLsbD (0x10000004 % 128 / 32) = false ∧
    0x10000004 % 2 ^ 2 = 0 ∧ (1 : BitVec 4).getLsbD 0 = true ∧
    (forwarding.llc.fwd.find? fun a => stackOfPc (pcOfCw forwarding (a.pa / 32)) = stackOfPc (pcOfCw forwarding 0x800000)) =
      some ⟨r21, 0x10000004, 2, 5, .behind⟩ ∧ forwarding.mem.offline = false ∧ pagePoison forwarding 0x800000 = false ∧
    rawCw forwarding 0x800000 = (0, 0) := by decide +kernel
theorem test_meets_AtomicAdds_ladds (c : Nat) : (adding.coach c).ladds = [] := rfl
theorem test_meets_AtomicAdds_forward : nearFull up ⟨r21, 0x10000004, 2, 5, .pinLimit⟩ = false ∧
    sliceQueue (up.updLlc fun c => { c with adds := [⟨r21, 0x10000004, 2, 5, .pinLimit⟩] }) (sliceOf 0x200000) = [⟨r21, 0x10000004, 2, 5, .pinLimit⟩] ∧
    nearFull (forwarding.updLlc fun c => { c with fwd := List.replicate 512 ⟨r21, 0x10000004, 2, 5, .behind⟩ }) ⟨r21, 0x10000004, 2, 5, .behind⟩ = true := by
  decide +kernel
theorem test_near_add : after (.nearMemoryAdd (stackFin (stackOfPc (pcOfCw forwarding 0x800000)))) forwarding
    (fun t => (rawCw t 0x800000, t.llc.fwd)) = some ((0x500000000, 0), []) := by decide +kernel

/-- R301: symbol 3 of a codeword of zeros changes by 0x5A and is corrected. -/
theorem test_one_symbol : corrected (upsetCw 0 0 3 0x5A).1 (rsDecode (upsetCw 0 0 3 0x5A).2) = 0 := by decide +kernel

/-- A codeword whose symbol 7, its byte 3, has changed in the stack. -/
def upsetMem : State := up.updMem fun m => { m with
  cells := [(0x10000003, 0x5A)], rel := [(0x800000, (upsetCw 0 0 7 0x5A).2)] }

theorem test_meets_MemoryCodewords : 32 * (17999999999 : BitVec 45).toNat < memBytes ∧ memBytes ≤ 32 * (18000000000 : BitVec 45).toNat ∧
    up.mem.offline = false ∧ (rawCw up 5).2 = 0 ∧ (rsDecode (rawCw upsetMem 0x800000).2) = .errors 7 0x5A 0 0 ∧
    pagePoison upsetMem 0x800000 = false ∧ activation upsetMem (pageOfCw 0x800000) = false := by decide +kernel
theorem test_meets_MemoryCodewords_fixq : let s := up.updMem fun m => { m with fixq := [⟨7, 9, 0⟩] }
    (s.mem.fixq.find? fun e => stackOfPc (pcOfCw s e.cw) = stackOfPc (pcOfCw s 7)) = some ⟨7, 9, 0⟩ := by decide +kernel
/-- R308: the correction of a state-class page waits to be written back. -/
theorem test_correction : after (.memoryRead 0x800000 none) upsetMem (fun t => t.mem.fixq) = some [⟨0x800000, 0, 0⟩] := by decide +kernel
theorem test_codeword : after (.memoryWrite 5 0xABCD true false) up (fun t => rawCw t 5) = some (0xABCD, poisonRel) := by decide +kernel

/-- A write of a whole codeword as a narrow request, one of them that waits at a stack, and one that has waited for 1 µs. -/
def narrowReq : NReq := { cw := 0x800000, mask := BitVec.allOnes 32, data := 0x77, poison := false }
def narrowed : State := up.updStack 0 fun k => { k with narrow := [narrowReq] }

def narrowAdd : State := up.updStack 0 fun k => { k with narrow := [{ narrowReq with add := some ⟨r21, 0x10000004, 2, 5, .behind⟩ }] }

theorem test_meets_NarrowRequests : (up.stack 0).narrow = [] ∧ narrowNext narrowed (narrowed.stack 0) = [narrowReq] ∧
    (narrowed.stack 0).narrow = [narrowReq] ∧ narrowReq.at0 + 1000 ≤ (narrowed.updTime fun t => { t with ns := 1000 }).time.ns ∧
    ((narrowNext narrowAdd (narrowAdd.stack 0)).map fun q => q.add) = [some ⟨r21, 0x10000004, 2, 5, .behind⟩] ∧
    narrowReq.add = none ∧ narrowReq.mask = BitVec.allOnes 32 ∧ narrowed.mem.offline = false ∧ narrowed.llc.fwd = [] := by decide +kernel
theorem test_narrow : after (.narrowRequestIssue 0 0) narrowed (fun t => rawCw t 0x800000) = some (0x77, 0) := by decide +kernel

/-- A row that is due, one whose copy runs, a channel under retraining that has failed twice, and a request that waits for one. -/
def upkeep : State := up.updMem fun m => { m with
  rowErrs := [⟨5, 9, [], true⟩], retiring := [(6, some 4)], retrain := some ⟨0, 3, 2, none⟩, moving := [(6, 0)] }
def askedRetrain : State := up.updMem fun m => { m with retrain := some ⟨0, 3, 1, some ⟨.i3c, 0x51, 0, 0, [], 0⟩⟩ }

theorem test_meets_MemoryUpkeep : (upkeep.mem.rowErrs.any fun r => r.pc = 5 && r.row = (9 : BitVec 31).toNat && r.due) = true ∧
    mget none upkeep.mem.retiring 5 = none ∧ mget 0 upkeep.mem.spares 5 < 4096 ∧ mget none upkeep.mem.retiring 6 = some 4 ∧
    upkeep.mem.retrain = some ⟨0, 3, 2, none⟩ ∧ up.mem.retrain = none ∧ (askedRetrain.mem.retrain.isSome) = true ∧
    retraining upkeep 6 = true ∧ retraining up 6 = false ∧ (up.stack 0).pcRetired.getLsbD 5 = false ∧
    ((up.updStack 0 fun k => { k with pcRetired := 0x20 }).stack 0).pcRetired.getLsbD 5 = true ∧
    680 < (681 : BitVec 16).toInt ∧ (656 : BitVec 16).toInt ≤ 656 := by decide +kernel
theorem test_meets_MemoryUpkeep_due : scrubDue up 5 = some (false, {}) ∧ up.expert 1 = false ∧
    scrubDue (up.updMem fun m => { m with scrub := [(10, ⟨2 ^ 40, 0, 1⟩), (11, ⟨2 ^ 40, 0, 1⟩)] }) 5 = none ∧ retrainDue up 0 3 = false ∧
    retrainDue (up.updStack 0 fun k => { k with temp := 120 }) 0 3 = true ∧
    4096 ≤ mget 0 ({ upkeep.mem with spares := [(5, 4096)] } : Mem).spares 5 := by decide +kernel
/-- R323: above 85 °C the rate doubles, and at 82 °C it returns. -/
theorem test_refresh : after (.refreshRateChange 0 681) up (fun t => (t.stack 0).refresh2) = some true := by decide +kernel
theorem test_refresh_keeps : after (.refreshRateChange 0 670) up (fun t => (t.stack 0).refresh2) = some false := by decide +kernel
/-- R325: the third failure retires both pseudo-channels of the channel. -/
theorem test_third_failure : after (.retrainWindow (some false)) upkeep (fun t => (t.stack 0).pcRetired) = some 0xC0 := by decide +kernel
-- movers and the Turntable

/-- A descriptor: operation, flags, kinds, SRC, DST, AUX, COUNT, COLS and ESZ. -/
def desc (op flags kinds src dst aux count cols esz : Nat) : List Byte :=
  leBytes 1 op ++ leBytes 1 flags ++ leBytes 5 0 ++ leBytes 1 kinds ++ leBytes 8 src ++ leBytes 8 dst ++ leBytes 8 aux ++ leBytes 16 0 ++
    leBytes 4 count ++ leBytes 2 cols ++ leBytes 2 esz ++ leBytes 8 0

/-- One row of 4,096 bytes of host memory to flash. -/
def toFlash : List Byte := desc 1 0 0x11 0x100 0x1000 0 1 0 4096
/-- One element of 32 bytes within module memory, moved, gathered or scattered. -/
def within (op : Nat) : List Byte := desc op 0 0 0x10000000 0x10001000 0x10002000 1 1 32

/-- Mover 3 with a queue of sixteen slots, and one that runs a descriptor. -/
def moverQ : State := up.updMover 3 fun k => { k with qbase := 0x20000000, qsize := 4, tail := 1 }
def moving (d : List Byte) : State := moverQ.updMover 3 fun k => { k with cur := some ⟨d, none, 0, transferBytes d, false, none⟩ }
def moved (code : Nat) : State := moverQ.updMover 3 fun k => { k with cur := some ⟨within 1, none, 32, 32, false, some code⟩ }
/-- The memory of slot 0 holds a descriptor. -/
def slotted (d : List Byte) : State := moverQ.updMem fun m => { m with cells := putBytes [] 0x20000000 d }

theorem test_meets_MoverRegisters : (up.mover 3).qsize = 0 ∧ (up.mover 3).tail = 0 ∧ (moverQ.mover 3).qsize ≠ 0 ∧
    (2 : Word32) ≠ (moverQ.mover 3).tail ∧ reached 2 (moverQ.mover 3).tail = true ∧
    ((16 : Word32) - (moverQ.mover 3).head).toNat ≤ 2 ^ (moverQ.mover 3).qsize ∧
    2 ^ (moverQ.mover 3).qsize < ((17 : Word32) - (moverQ.mover 3).head).toNat ∧ reached 0 (moverQ.mover 3).tail = false ∧
    (moverQ.mover 3).head ≠ (moverQ.mover 3).tail ∧ (up.mover 3).head = (up.mover 3).tail := by decide +kernel
/-- R328: sixteen slots take sixteen descriptors; the seventeenth is discarded and counted. -/
theorem test_mover_tail : after (.moverTailWrite 3 16) moverQ (fun t => ((t.mover 3).tail, (t.mover 3).errors.val)) = some (16, 0) := by
  decide +kernel
theorem test_mover_tail_full : after (.moverTailWrite 3 17) moverQ (fun t => ((t.mover 3).tail, (t.mover 3).errors.val)) = some (1, 1) := by
  decide +kernel

theorem test_meets_MoverDescriptors : (moverQ.mover 3).stopped = false ∧ (moverQ.mover 3).cur = none ∧ moverQ.halt.state ≠ 2 ∧
    (moverQ.mover 3).extra = [] ∧ (sysRead (slotted toFlash) 0x20000000 64 false).1 = (toFlash, false) ∧
    checkDesc (slotted toFlash) toFlash = none ∧ checkDesc (slotted (within 9)) (within 9) = some 1 ∧
    moverSettled (moved 0) 3 (within 1) = true ∧ ((moved 4).mover 3).cur.isSome = true ∧ dFlag (desc 1 0x0C 0 0 0 0 0 0 0) 2 = true ∧
    dFlag (desc 1 0x0C 0 0 0 0 0 0 0) 3 = true := by decide +kernel
/-- R345, R351: the move of one element, with its hypotheses. -/
theorem test_meets_MoverTransfers_rows : (indexAt (moving (within 3)) (within 3) 0).1 = some 0 ∧ dOp (within 3) = 3 ∧
    inRange 0 (rowAddr 0x10001000 0 0) 32 = true ∧ dDstKind (within 3) = 0 ∧
    ((moving (within 1)).mover 3).cur = some ⟨within 1, none, 0, 32, false, none⟩ := by decide +kernel
theorem test_descriptor_starts : after (.moverDescriptorStart 3) (slotted toFlash) (fun t => (t.mover 3).cur.isSome) = some true := by decide +kernel
/-- R329, R334: a failed descriptor stops its queue. -/
theorem test_descriptor_fails : after (.moverDescriptorComplete 3) (moved 4)
    (fun t => ((t.mover 3).head, (t.mover 3).stopped, (t.mover 3).errors.val)) = some (1, true, 1) := by decide +kernel

theorem test_meets_MoverTransfers : dOp (within 2) = 2 ∧ (indexAt (moving (within 2)) (within 2) 0).1 = some 0 ∧ dEsz (within 1) = 32 ∧
    inRange 0 (rowAddr 0x10000000 0 0) 32 = true ∧ dSrcKind toFlash = 1 ∧ dDstKind toFlash = 2 ∧ dSrc toFlash + dEsz toFlash ≤ 2 ^ 64 ∧
    dDst toFlash + dEsz toFlash ≤ flashBytes ∧ (moving toFlash).mgmt.flashRo = false ∧ transferBytes toFlash = dEsz toFlash := by
  decide +kernel
/-- R345: a host access that fails ends the descriptor with CODE 6. -/
theorem test_copy_fails : after (.moverCopy 3 (some 0)) (moving toFlash) (fun t => ((t.mover 3).cur.bind fun c => c.result, t.flash))
    = some (some 6, []) := by decide +kernel
/-- R344: the first chunk carries 256 bytes. -/
theorem test_chunk : after (.moverTransferChunk 3) { moving toFlash with hostMem := [(0x1FF, 7), (0x200, 8)] }
    (fun t => ((t.mover 3).cur.map fun c => c.moved, t.flash)) = some (some 256, [(0x10FF, 7)]) := by decide +kernel

theorem test_meets_MoverOperations : dOp (desc 4 0 0 0 0 0 1 1 2) = 4 ∧ dCount (desc 4 0 0 0 0 0 1 1 2) = 1 ∧ dCols (desc 4 0 0 0 0 0 1 1 2) = 1 ∧
    bit (dCols (desc 0x11 0 0 0 0x1000 0 1 0x100 1)) 8 = true ∧
    (exchOf (moving (desc 0x11 0 0 0 0x1000 0 1 0x100 1)) (desc 0x11 0 0 0 0x1000 0 1 0x100 1)).1.idxOf 0 = 0 ∧
    dSrc (desc 0x11 0 0 0 0x1000 0 1 0x100 1) ≠ dDst (desc 0x11 0 0 0 0x1000 0 1 0x100 1) := by decide +kernel
theorem test_meets_TurntablePermutes : 5 ≤ 2 ^ 48 ∧ 4 < 5 := by decide
/-- R348: five positions under one key are permuted. -/
theorem test_turntable : ((List.range 5).map (ttPerm (ttH 5) 5 [12345])).Perm (List.range 5) := by decide +kernel

/-- A conversion of FP32 to BF16, and an exchange whose group of two names this module first, or second. -/
def converting (op : Nat) : List Byte := (desc op 0 0 0x10000000 0x10001000 0 1 1 0).set 6 0x45
def exchanging (rank : Nat) : State :=
  (moving (desc 0x11 0 0 0 0x1000 0 1 0x100 1)).updMgmt fun m => { m with cur := { m.cur with rank := rank, exch := [(0, ([0, 1], []))] } }

theorem test_meets_MoverOperations_groups : cvtSource (converting 5) = some fmtFP32 ∧ cvtDest (converting 6) = some fmtBF16 ∧
    dOp (converting 5) = 5 ∧ dOp (converting 6) = 6 ∧ dCount (converting 6) = 1 ∧ dCols (converting 6) = 1 ∧
    (exchOf (exchanging 0) (desc 0x11 0 0 0 0x1000 0 1 0x100 1)).1.idxOf (exchanging 0).consist.rank = 0 ∧
    0 < (exchOf (exchanging 0) (desc 0x11 0 0 0 0x1000 0 1 0x100 1)).1.length ∧
    (exchOf (exchanging 1) (desc 0x11 0 0 0 0x1000 0 1 0x100 1)).1.idxOf (exchanging 1).consist.rank ≠ 0 := by decide +kernel
-- optical engines and ports

/-- Engine 0 with its unit b, and perhaps a, supplying power, its ports 0 to 2 up. -/
def lighted (a b : Laser) : State := { up.updEngine 0 (fun k => { k with a := a, b := b, stage := 7 }) with
  ports := [(0, { state := 4, lanes := 0xFF, partner := 0x0031 }), (1, { state := 0 }), (8, { state := 4, lanes := 0xFF })] }

theorem test_meets_LaserUnits : lit (laserOf ((lighted .failed .alone).engine 0) .a) = false ∧
    lit (laserOf ((lighted .sharing .sharing).engine 0) .a) = true ∧ lit (laserOf ((lighted .sharing .sharing).engine 0) (otherUnit .a)) = true ∧
    lit (laserOf ((lighted .failed .alone).engine 0) .b) = true ∧ lit (laserOf ((lighted .failed .alone).engine 0) (otherUnit .b)) = false ∧
    ((lighted .sharing .sharing).engine 0).ramp = false ∧ laserOf ((lighted .qualifying .alone).engine 0) .a = .qualifying := by decide +kernel
/-- R358: a takeover counts on each of the engine's ports. -/
theorem test_takeover : after (.laserFailure 0 .a) (lighted .sharing .sharing) (fun t => ((t.engine 0).ramp, (t.port 0).takeovers.val, (t.port 0).state))
    = some (true, 1, 4) := by decide +kernel
/-- R361: an engine with no lit unit is dark: a port that was up goes down, one that was dark stays so. -/
theorem test_engine_dark : after (.laserUnseated 0 .b) (lighted .failed .alone) (fun t => ((t.port 0).state, (t.port 1).state)) = some (6, 0) := by
  decide +kernel

/-- A coupling without a spare, with all lanes or with four. -/
def noSpare (lanes : BitVec 8) : State := (lighted .sharing .sharing).updPort 0 fun t => { t with spare := none, lanes := lanes }

theorem test_meets_PortLanes : ((lighted .sharing .sharing).port 0).spare = some (8 : Fin 9).val ∧
    logicalOn ((lighted .sharing .sharing).port 0) 3 = some 3 ∧ ((lighted .sharing .sharing).port 0).failed.getLsbD 3 = false ∧
    logicalOn ((noSpare 0x0F).port 0) 3 = some 3 ∧ laneCount { (noSpare 0xFF).port 0 with lanes := 0xF7 } = 7 ∧
    laneCount { (noSpare 0x0F).port 0 with lanes := 0x07 } = 3 ∧ ((noSpare 0x0F).port 0).state = 4 ∧ 7 ≤ (8 : Port).val ∧
    ((lighted .sharing .sharing).port 8).state = 4 := by decide +kernel
/-- The spare that fails while a logical lane waits to move onto it, with seven lanes left or with three; a retest of a failed lane. -/
theorem test_meets_PortLanes_spare : (((noSpare 0xFF).updPort 0 fun t => { t with spare := some 8, subst := some 3 }).port 0).spare = some (8 : Fin 9).val ∧
    (((noSpare 0xFF).updPort 0 fun t => { t with spare := some 8, subst := some 3 }).port 0).subst = some 3 ∧
    (((noSpare 0xFF).updPort 0 fun t => { t with spare := some 8, subst := some 3 }).port 0).spare = some 8 ∧ 8 ≠ (2 : Fin 9).val ∧
    logicalOn ((noSpare 0xFF).port 0) 2 = some 2 ∧ ((lighted .sharing .sharing).engine 0).ramp = false ∧
    (((noSpare 0xFF).updPort 0 fun t => { t with failed := 8 }).port 0).failed.getLsbD (3 : Fin 9) = true := by decide +kernel
/-- R363: the logical lane moves onto the spare and the substitution counts. -/
theorem test_substitution : after (.laneSubstitution 0) ((lighted .sharing .sharing).updPort 0 fun t => { t with subst := some 3 })
    (fun t => (physLane (t.port 0) 3, (t.port 0).spare, (t.port 0).subs.val)) = some (8, none, 1) := by decide +kernel
/-- R364: with three lanes left a coupling is down. -/
theorem test_lane_lost : after (.laneFailure 0 3) (noSpare 0x0F) (fun t => (t.port 0).state) = some 6 := by decide +kernel
theorem test_lane_degraded : after (.laneFailure 0 3) (noSpare 0xFF) (fun t => ((t.port 0).state, (t.port 0).lanes)) = some (5, 0xF7) := by
  decide +kernel

/-- The consist populates position 1, the partner of port 0 of position 0. -/
def paired : State := (lighted .sharing .sharing).updMgmt fun m => { m with cur := { m.cur with populated := 3, lldp := [(8, ([1], [2]))] } }
def atStage (n : Nat) (st : Nat) : State := (paired.updEngine 0 fun k => { k with stage := n }).updPort 0 fun t => { t with state := st }

theorem test_meets_PortBringUp : declaredDark paired 0 = false ∧ declaredDark paired 1 = true ∧ lit (paired.engine 0).a = true ∧
    lit (up.engine 2).a = false ∧ lit (up.engine 2).b = false ∧ ((paired.updPort 8 fun t => { t with state := 6 }).port 8).state = 6 ∧
    (paired.port 8).state ≠ 6 ∧ paired.sys.railEng.getLsbD 0 = true ∧ ((atStage 0 0).engine 0).stage + 1 = stageNo .rails ∧
    ((atStage 2 0).engine 0).stage = 2 ∧ 3 ≤ ((atStage 3 0).engine 0).stage ∧ ((atStage 0 0).engine 0).stage + 1 < stageNo .signal ∧
    5 ≤ ((atStage 5 1).engine 0).stage ∧ ((atStage 5 1).port 0).state = 1 ∧ lldpWant paired 8 = some ([1], [2]) := by decide +kernel
theorem test_meets_PortBringUp_bays : ((atStage 2 0).engine 0).inA = true ∧ laserOf ((atStage 2 0).engine 0) .a = .sharing ∧
    (setBay ((atStage 2 0).engine 0) .b false).inB = false ∧ stageNo .trained ≤ ((atStage 7 4).engine 0).stage + 1 := by decide +kernel
theorem test_signal : after (.portBringUp 0 .signal) (atStage 3 6) (fun t => ((t.port 0).state, (t.port 1).state)) = some (1, 0) := by decide +kernel
theorem test_aligned : after (.portBringUp 0 .aligned) (atStage 5 1) (fun t => ((t.port 0).state, t.outbox.length)) = some (2, 1) := by
  decide +kernel

/-- The frame of the partner at position 1, port 6, and one of another position; whether a signature verifies is the part's own. -/
def idFrame (pos : Fin 8) : IdFrame := ⟨pos, 6, 0, 0, 0, [1]⟩

theorem test_meets_PortIdentity : (paired.port 0).state ∉ [0, 1, 6, 7] ∧ (paired.port 1).state ∈ [0, 1, 6, 7] ∧
    (idFrame 1).consist.toNat = paired.consist.number ∧ (⟨1, 6, 5, 0, 0, []⟩ : IdFrame).consist.toNat ≠ paired.consist.number ∧
    ((atStage 7 3).port 0).state = 3 ∧ (paired.port 0).heldAt + 600 * 10 ^ 9 ≤ (paired.updTime fun t => { t with ns := 600000000000 }).time.ns ∧
    paired.time.ns < (paired.port 0).heldAt + 600 * 10 ^ 9 ∧ ((paired.updPort 0 fun t => { t with partner := 0xFFFF }).port 0).partner = 0xFFFF ∧
    declaredDark paired 1 = true ∧ (paired.port 1).state = 0 ∧ lldpWant paired 8 = some ([1], [2]) ∧ lldpWant paired 9 = none ∧
    ((paired.updPort 8 fun t => { t with state := 2 }).port 8).lldpOk = false := by decide +kernel
/-- A frame that agrees is accepted exactly when its signature verifies. -/
theorem test_meets_PortIdentity_ok : identityOk paired 0 (idFrame 1) =
    Config.verify (leBytes 48 (idFrame 1).digest.toNat) (identityBytes (idFrame 1) (paired.port 0).nonce) (idFrame 1).signed := by
  have h : (decide ((idFrame 1).digest = mget 0 paired.consist.digests (partnerPos paired 0)) &&
      decide ((idFrame 1).position.val = partnerPos paired 0) && decide ((idFrame 1).port.val = partnerPort 0)) = true := by decide +kernel
  unfold identityOk
  rw [Bool.and_assoc, Bool.and_assoc, ← Bool.and_assoc (decide _), h, Bool.and_true]
/-- R371, R372, R376: readiness that has lasted 120 s, and a scale-out port that has waited 35 s. -/
theorem test_meets_PortIdentity_waits : readyFor (paired.updTime fun t => { t with ns := 120000000000 }) (120 * 10 ^ 9) = true ∧
    readyFor paired (120 * 10 ^ 9) = false ∧ ((idFrame 1).nonce = (paired.port 0).peerNonce) ∧
    ({ idFrame 1 with nonce := 5 } : IdFrame).nonce ≠ (paired.port 0).peerNonce ∧
    ((paired.updPort 8 fun t => { t with state := 2 }).port 8).linkAt + 35 * 10 ^ 9 ≤ (paired.updTime fun t => { t with ns := 35000000000 }).time.ns ∧
    (paired.port 8).lanes ≠ 0 ∧ (paired.port 9).lanes = 0 := by decide +kernel
theorem test_meets_PortIdentity_bad : identityOk paired 0 (idFrame 2) = false := by
  have h : ¬(idFrame 2).position.val = partnerPos paired 0 := by decide +kernel
  simp [identityOk, h]
theorem test_lldp : after (.lldpReceive 8 [1] [2]) (paired.updPort 8 fun t => { t with state := 2 }) (fun t => (t.port 8).state) = some 4 := by
  decide +kernel
theorem test_dark_light : after (.darkPortLight 1) paired (fun t => ((t.port 1).state, t.rings.events.map fun e => e.code)) = some (7, [0x60]) := by
  decide +kernel
-- Carriage and collectives

/-- Rank 1 is the partner at position 1 of this rake, rank 2 a module elsewhere; flow 5 goes to the first and flow 6 to the second. -/
def carriage : State := (paired.updMgmt fun m => { m with cur := { m.cur with
    ranks := [(0, 0), (0, 1), (1, 0)], addrs := [(2, 0xABC)], groups := [(1, (0, [0, 1, 2, 0]))] } }).updFlow 5 (fun _ => { bound := true, peer := 1, cls := 2 })
  |>.updFlow 6 fun _ => { bound := true, peer := 2, cls := 2, port := some 8 }
def frame5 : Frame := ⟨{ hdr0 with flow := 5, flags := 2, offset := 0x10000000 }, [(0x1234, false)]⟩
def waiting : State := carriage.updPort 0 fun t => { t with txq := [frame5, ⟨{ hdr0 with flow := 5 }, [(1, false)]⟩] }

theorem test_meets_FrameSending : portOfFlow waiting 5 = some 0 ∧ nextFrame waiting 0 = some ⟨{ hdr0 with flow := 5 }, [(1, false)]⟩ ∧
    nextFrame carriage 0 = none ∧ maySend waiting 0 frame5 = true ∧ frameClass frame5 = 2 := by decide +kernel
/-- R389: the Cord's class goes before data. -/
theorem test_priority : after (.frameSend 0) waiting (fun t => ((t.port 0).txq, (t.flow 5).tx)) = some ([frame5], 1) := by decide +kernel

/-- Two frames of flow 5 in the retransmit store; the second has been sent again 16 times. -/
def unacked : State := carriage.updFlow 5 fun k => { k with tx := 2, toAck := 3, unacked :=
  [⟨frame5, 0, 4000⟩, ⟨{ frame5 with hdr := { frame5.hdr with seq := 1 } }, 16, 4000⟩] }

theorem test_meets_Acknowledgement : (carriage.flow 5).toAck = 0 ∧ (unacked.flow 5).toAck ≠ 0 ∧ portOfFlow unacked 5 = some 0 ∧
    (unacked.flow 5).closing = none ∧ (∀ u ∈ (unacked.flow 5).unacked, u.frame.hdr.type ≠ 5) ∧
    ((unacked.flow 5).unacked.find? fun u => u.frame.hdr.seq = 0) = some ⟨frame5, 0, 4000⟩ ∧
    ((unacked.flow 5).unacked.find? fun u => u.frame.hdr.seq = 7) = none ∧
    (((unacked.flow 5).unacked.find? fun u => u.frame.hdr.seq = 1).map fun u => u.resends) = some 16 := by decide +kernel
/-- R386: an acknowledgement of 1 frees frame 0, and progress resets the resends of frame 1. -/
theorem test_ack : after (.ackReceive 5 1 false) unacked (fun t => (t.flow 5).unacked.map fun u => (u.frame.hdr.seq, u.resends)) = some [(1, 0)] := by
  decide +kernel
/-- R387: after 16 resends the flow fails. -/
theorem test_flow_fails : after (.retransmissionTimeout 5 1) unacked (fun t => ((t.flow 5).failed, t.rings.events.map fun e => e.code))
    = some (true, [0x50]) := by decide +kernel

theorem test_meets_RatesAndRoutes : (carriage.flow 6).bound = true ∧ inRake carriage (carriage.flow 6).peer = false ∧
    inRake carriage (carriage.flow 5).peer = true ∧ (up.flow 6).bound = false ∧ mwf {} carriage.flows ∧
    (∀ e ∈ carriage.flows, e.2.unacked = []) ∧ (∀ e ∈ carriage.ports, e.2.txq = []) ∧ (carriage.flow 6).acksCe = 0 ∧
    (carriage.flow 6).rate.num ≤ 1596 * (carriage.flow 6).rate.den ∧ posOfRank carriage 1 = 1 := by decide +kernel
/-- R395: an interval without marks adds 4 Gb/s. -/
theorem test_rate_rises : after (.rateControlInterval 6) carriage (fun t => (t.flow 6).rate) = some ⟨204, 1⟩ := by decide +kernel
theorem test_rate_floor : after (.rateControlInterval 6) (carriage.updFlow 6 fun k => { k with rate := ⟨2, 1⟩, marked := ⟨1, 1⟩, acks := 1, acksCe := 1 })
    (fun t => (t.flow 6).rate) = some ⟨8, 5⟩ := by decide +kernel

theorem test_meets_FrameReceiving : frame5.payload.length = 1 ∧ carrying carriage 0 = true ∧ carrying carriage 1 = false ∧
    (carriage.flow (frameFlow frame5)).bound = true ∧ (carriage.flow (frameFlow frame5)).failed = false ∧
    (carriage.flow (frameFlow frame1)).bound = false ∧ (carriage.flow 5).unacked = [] ∧ frame5.hdr.seq = (carriage.flow 5).rx ∧
    seqBefore 0 1 = true ∧ seqBefore 1 0 = false ∧ (carriage.flow 5).ahead = [] ∧ (carriage.flow 5).nackAt = none ∧ (carriage.flow 5).toAck < 7 ∧
    frame5.hdr.type = 0 ∧ frameClass frame5 = 2 ∧ inRange 0 frame5.hdr.offset.toNat (payloadBytes frame5).length = true ∧
    carrying carriage 8 = true ∧ datagramOk carriage 0xABC 50212 { frame5 with hdr := { frame5.hdr with src := 2 } } = true ∧
    datagramOk carriage 0xABD 50212 { frame5 with hdr := { frame5.hdr with src := 2 } } = false ∧ (up.seat r21).wait = .none ∧
    inRange 0 frame5.hdr.offset.toNat ((8 : Word32).toNat % 257) = true := by decide +kernel
/-- An RS(544,514) codeword that no code corrects, and a request for a lane. -/
theorem test_meets_FrameReceiving_lanes : (⟨true, 2⟩ : FrameRx).fec ≠ 0 ∧ 7 ≤ (8 : Port).val ∧ wf (.carriageFrameReceive 8 frame5 [] ⟨true, 2⟩) = true ∧
    ({ frame5 with hdr := { frame5.hdr with type := 7 } } : Frame).hdr.type = 7 ∧ frame5.hdr.type ≠ 7 ∧ frame5.hdr.offset.toNat < 2 ^ 56 := by
  decide +kernel
theorem test_fec : after (.carriageFrameReceive 8 frame5 [] ⟨true, 2⟩) carriage (fun t => ((t.port 8).uncorr.val, (t.port 8).e2e.val, t.flow 5 == carriage.flow 5))
    = some (2, 0, true) := by decide +kernel
theorem test_frame_writes : after (.carriageFrameReceive 0 frame5 [] ⟨false, 0⟩) carriage (fun t => (rawCw t 0x800000, (t.flow 5).rx)) =
    some ((0x1234, 0), 1) := by decide +kernel
theorem test_frame_lost : after (.carriageFrameReceive 0 frame5 [1, 3] ⟨false, 0⟩) carriage
    (fun t => ((t.port 0).corrected.val, (t.port 0).uncorr.val, (t.port 0).e2e.val, (t.flow 5).rx)) = some (1, 1, 1, 0) := by decide +kernel
theorem test_remote_load : xAfter (.remoteReadResponse r21 [0xFE] 0) (seated fun q => { q with wait := .remote (.int 4 true 1) }) 4
    = some 0xFFFFFFFFFFFFFFFE := by decide +kernel

/-- A reduction of four elements over a group of four, of which this module is the first. -/
def collDesc (op : Nat) : List Byte :=
  leBytes 1 op ++ leBytes 1 0 ++ leBytes 2 1 ++ leBytes 4 0 ++ leBytes 8 0x10000000 ++ leBytes 8 0x10001000 ++ leBytes 8 0 ++ leBytes 8 4 ++ leBytes 24 0
def one32 : List (Byte × Bool) := [(0, false), (0, false), (0x80, false), (0x3F, false)]
def reducing : State := (carriage.updMgmt fun m => { m with cur := { m.cur with groups := [(1, (0, [0, 1, 2, 3]))] } }).updColl 2 fun k =>
  { k with cur := some ⟨collDesc 1, none, [(0, 1, 0, one32), (0, 1, 1, one32)], [], true, false, false, 0, false⟩ }
def collQ : State := (reducing.updColl 2 fun k => { k with cur := none, qbase := 0x20000000, qsize := 4 }).updMem fun m =>
  { m with cells := putBytes [] 0x20000000 (collDesc 1) }

theorem test_meets_CollectiveQueues : (reducing.coll 2).cur.isSome = true ∧ (collQ.coll 2).cur = none ∧ (collQ.coll 2).extra = [] ∧
    collQ.early = [] ∧ (1 : Word32) ≠ (collQ.coll 2).tail ∧ reached 1 (collQ.coll 2).tail = true ∧ ((1 : Word32) - (collQ.coll 2).head).toNat ≤ 2 ^ 4 ∧
    (sysRead (collQ.updColl 2 fun k => { k with tail := 1 }) 0x20000000 64 false).1 = (collDesc 1, false) ∧ (up.coll 2).qsize = 0 := by decide +kernel
theorem test_meets_CollectiveQueues_node : (collMembers reducing (collDesc 1)).length = 4 ∧ treeLevels 4 = 2 ∧ 2 * 0 + 1 < levelNodes 4 0 ∧
    0 < levelNodes 4 1 ∧ nodeMember 4 0 1 0 = collMe reducing (collDesc 1) ∧ nodeMember 4 0 2 0 = collMe reducing (collDesc 1) ∧
    ((reducing.coll 2).cur.bind fun c => getMessage reducing (collDesc 1) c 0 1 0) = some one32 ∧
    ((reducing.coll 2).cur.bind fun c => getMessage reducing (collDesc 1) c 0 1 1) = some one32 ∧ cOp (collDesc 1) ≤ 2 := by decide +kernel
/-- R403: the node adds its two leaves: 1 + 1 is 2. -/
theorem test_node : after (.reductionNode 2 0 1 0) reducing (fun t => (t.coll 2).cur.bind fun c => (c.nodes.getLast?).map fun e => (e.2.1, e.2.2.2))
    = some (some (2, [(0, false), (0, false), (0, false), (0x40, false)])) := by decide +kernel
theorem test_collective_begins : after (.collectiveTailWrite 2 1) collQ (fun t => (t.coll 2).cur.isSome) = some true := by decide +kernel
/-- R401: a collective that has failed stops its queue. -/
theorem test_collective_fails : after (.collectiveComplete 2) (reducing.updColl 2 fun k => { k with cur := k.cur.map fun c => { c with code := 7 } })
    (fun t => ((t.coll 2).cur.isSome, (t.coll 2).stopped, (t.coll 2).errors.val)) = some (false, true, 1) := by decide +kernel
-- the Cord, stops and the end of a step

/-- Semaphore 7 counts to 9 and gives notice to seat 0 of coach 1; channel 3 is configured for one arrival. -/
def cord : State := { up with sems := [(7, { value := 8, arm := 9, notify := 0x201 })], chans := [(3, { locArr := 1 })] }

theorem test_meets_BarriersAndSemaphores : (62 ≤ (3 : Fin 64).val ∨ (cord.chan 3).arrived ≠ 0 ∨ bits 0x002 9 2 = 3) = False ∧
    (bits 0x600 9 2 = 3 ∧ 384 < bits 0x181 0 9 ∧ 62 ≤ (62 : Fin 64).val ∧ bits 0x180 0 9 = 384) ∧
    (cord.sem 7).notify.getLsbD 9 = true ∧ reached (cord.sem 7).value (cord.sem 7).arm = false ∧ reached 9 (cord.sem 7).arm = true ∧
    reached (cord.sem 7).value 8 = true ∧ reached (cord.sem 7).value 9 = false ∧ (cord.sem 8).notify.getLsbD 9 = false ∧
    phaseReady cord 3 = false ∧ phaseReady (cord.updChan 3 fun c => { c with shares := 1 }) 3 = true := by
  simp only [eq_iff_iff]; decide +kernel
/-- R412: LOCAL 384 is accepted and 385 is not. -/
theorem test_barrier_config : (after (.barrierConfigWrite 3 0x180) cord (fun t => (t.chan 3).locArr),
    after (.barrierConfigWrite 3 0x181) cord (fun t => (t.chan 3).locArr)) = (some 384, some 1) := by decide +kernel
theorem test_semaphore_arm : after (.semaphoreArmWrite 7 12 (some 11)) cord (fun t => ((t.sem 7).value, (t.sem 7).arm)) = some (11, 12) := by
  decide +kernel
theorem test_phase : after (.phaseComplete 3) (cord.updChan 3 fun c => { c with shares := 1 }) (fun t => ((t.chan 3).phase, (t.chan 3).comps.val))
    = some (1, 1) := by decide +kernel

/-- A barrier arrival on channel 3 of the consist, a completion, and a stop. -/
def flitArrive : Word := 0 + 1 * 16 + 3 * 64 + 5 * 65536 + 2 * 2 ^ 32
def flitPhase : Word := 1 + 2 * 16 + 3 * 64
def flitStop : Word := 4 + 2 * 16 + 63 * 64

theorem test_meets_MicroFlits : bits (echoOf flitArrive).toNat 0 4 = 7 ∧ bits flitArrive.toNat 0 4 = 0 ∧ bits flitArrive.toNat 4 2 = 1 ∧
    (carriage.port 0).seen.contains flitArrive = false ∧ ((carriage.updPort 0 fun t => { t with seen := [flitArrive] }).port 0).seen.contains flitArrive = true ∧
    carrying carriage 0 = true ∧ carrying carriage 1 = false ∧ (0 : Port).val < 7 ∧ (3 : Nat) ≤ (⟨false, 3⟩ : FlitRx).syms ∧
    parentPort carriage 0 = false ∧ bits flitStop.toNat 16 15 = 0 ∧ bits (flitStop + 65536).toNat 16 15 ≠ carriage.consist.rank ∧
    bits (flitStop + 65536).toNat 4 2 ≠ 1 ∧
    bits flitPhase.toNat 0 4 = 1 ∧ bits flitPhase.toNat 6 6 < 62 ∧ bits flitStop.toNat 0 4 = 4 ∧ carriage.consist.rank = 0 := by decide +kernel
/-- R424, R425: the arrival of rank 2 for phase 5 is recorded, and its echo sent. -/
theorem test_flit : after (.microFlitReceive 0 flitArrive ⟨false, 0⟩) carriage (fun t => ((t.chan 3).got, t.outbox)) =
    some ([(5, 2, 0)], [.flit 0 (echoOf flitArrive)]) := by decide +kernel
/-- R422: a flit that its sender repeats, and that has been accepted, is echoed alone; a new one with the same bits takes effect. -/
theorem test_flit_again : (after (.microFlitReceive 0 flitArrive ⟨true, 0⟩) (carriage.updPort 0 fun t => { t with seen := [flitArrive] })
      (fun t => ((t.chan 3).got, t.outbox.length)),
    after (.microFlitReceive 0 flitArrive ⟨false, 0⟩) (carriage.updPort 0 fun t => { t with seen := [flitArrive] }) (fun t => (t.chan 3).got)) =
    (some ([], 1), some [(5, 2, 0)]) := by decide +kernel
theorem test_flit_repeat : after (.microFlitRepeat 0) (carriage.updPort 0 fun t => { t with flits := [flitStop] }) (fun t => t.outbox) =
    some [.flit 0 flitStop] := by decide +kernel

theorem test_meets_Stops : bits (0x6 : Word).toNat 1 2 = 3 ∧ bits (0x64 * 65536 + 8 : Word).toNat 1 2 ≠ 3 ∧ up.consist.ranks.length ≤ 1 ∧
    up.halt.state ≠ 2 ∧ up.time.ns < 100 * 1000 ∧ bits (0x64 * 65536 + 8 : Word).toNat 16 48 * 1000 ≤ (up.updTime fun t => { t with ns := 100000 }).time.ns ∧
    up.halt.due = none ∧ (up.updHalt fun h => { h with due := some 100 }).halt.due = some 100 := by decide +kernel
/-- R433: the stop takes effect once its time has come. -/
theorem test_scheduled : after .scheduledStopTime ((up.updHalt fun h => { h with due := some 100, state := 1 }).updTime fun t => { t with ns := 100000 })
    (fun t => (t.halt.state, t.halt.source, t.halt.due)) = some (2, 5, none) := by decide +kernel
theorem test_haltN : after .haltNAssert up (fun t => (t.halt.state, t.halt.source)) = some (2, 1) := by decide +kernel
theorem test_schedule : after (.haltSchedule (0x64 * 65536)) up (fun t => (t.halt.state, t.halt.due)) = some (1, some 100) := by decide +kernel

/-- A module whose run is in step 4, with one update block due. -/
def stepping (f : Tender → Tender) : State := up.updTender fun t => f { t with run := true, step := 4, dir := [(0, { len := 4096, valid := true })] }
def stepDone : State := (stepping fun t => { t with doneBlk := 1, done := true }).updWay fun w => { w with ready := 4 }
def contributed : State := (stepping fun t => { t with doneBlk := 1, done := true, contrib := true }).updChan 62 fun c => { c with got := [(4, 0, 1)] }
def entered : State := (stepping fun t => { t with contrib := true, result62 := some (false, false, false) }).updWay fun w =>
  { w with durable := true, built := true }
def combining : State := (stepping fun t => { t with contrib63 := true }).updChan 63 fun c => { c with got := [(4, 0, 0)] }

theorem test_meets_StepBarriers : ready62 stepDone = true ∧ ready62 up = false ∧ entered.tender.run = true ∧ entered.halt.state ≠ 2 ∧
    entered.tender.result62.isSome = true ∧ entered.way.durable = true ∧ entered.tender.contrib63 = false ∧ tenderDue stepDone = 1 ∧
    tenderDue stepDone ≤ stepDone.tender.doneBlk ∧ replaying stepDone = false ∧ stepDone.way.ready = stepDone.tender.step ∧
    stepDone.tender.contrib = false ∧ stepDone.way.rewrite = none ∧ (stepping id).way.ready ≠ (stepping id).tender.step ∧
    (stepping id).tender.doneBlk < tenderDue (stepping id) ∧ (stepping id).way.lateSent = false ∧ stepDone.tender.done = true ∧ contributed.tender.run = true ∧
    contributed.tender.result62 = none ∧ contributed.consist.rank = 0 ∧ missing contributed 62 contributed.tender.step = [] ∧
    missing (stepping id) 62 4 ≠ [] ∧ combining.tender.contrib63 = true ∧ combining.tender.final = none ∧ combining.tender.stop63 = false ∧
    missing combining 63 combining.tender.step = [] := by decide +kernel
theorem test_meets_StepBarriers_replay : replaying (contributed.updWay fun w => { w with replayTo := 4 }) = true ∧ replaying contributed = false ∧
    missing (contributed.updWay fun w => { w with replayTo := 4 }) 62 4 = [] := by decide +kernel
/-- R486: done and READY, the module contributes; with another READY the stage record is late. -/
theorem test_contribution : (after .tenderDone stepDone (fun t => t.tender.contrib),
    after .tenderDone (stepping fun t => { t with doneBlk := 1 }) (fun t => (t.tender.contrib, t.rings.events.map fun e => e.code))) =
    (some true, some (false, [0x21])) := by decide +kernel
/-- R36, R37: a non-finite flag gives the local decision to skip. -/
theorem test_result : after (.endOfStepResult false false false) contributed (fun t => (t.tender.result62, t.tender.skipBit)) =
    some (some (true, false, false), true) := by decide +kernel
theorem test_commit_barrier : after .commitBarrierComplete combining (fun t => t.tender.final) = some (some false) := by decide +kernel
theorem test_contribution63 : after (.stepContribution true) entered (fun t => (t.tender.contrib63, (t.chan 63).got)) = some (true, [(4, 0, 0)]) := by
  decide +kernel

/-- The decision of step 4 has been made. -/
def deciding (skip stop : Bool) : State := stepping fun t => { t with contrib := true, contrib63 := true, final := some skip, skipBit := skip, result62 := some (skip, false, stop) }

theorem test_meets_StepEnds : (∀ e ∈ (deciding false false).coaches, e.2.vq = []) ∧ (deciding false false).tender.run = true ∧ (deciding false false).tender.contrib63 = true ∧
    (deciding false false).tender.final = some (!true) ∧ (deciding true true).tender.final = some (!false) ∧
    (deciding true true).tender.result62 = some (true, false, true) ∧ (stepping id).tender.contrib63 = false := by decide +kernel
/-- R39, R457: a commit swaps the buffers and counts, and a skip counts alone. -/
theorem test_tender_ends : ((tenderEnd (deciding false false) true).tender.active, (tenderEnd (deciding false false) true).tender.commits.val,
    (tenderEnd (deciding true true) false).tender.active, (tenderEnd (deciding true true) false).tender.skips.val) = (true, 1, false, 1) := by decide +kernel

def resulted : State := stepping fun t => { t with result62 := some (false, false, false) }
def mirrored : State := (resulted.updMgmt fun m => { m with cur := { m.cur with partner := some 1, entries := 8 } }).updWay fun w =>
  { w with toPartner := some 4, built := true, sentAt := 1000 }
def voiding : State := (stepping id).updHalt (fun h => { h with state := 2 }) |>.updWay fun w => { w with built := true, durable := true }

theorem test_meets_WaybillEntries : resulted.tender.step < 2 ^ 64 ∧ resulted.tender.result62 = some (false, false, false) ∧ resulted.way.built = false ∧
    replaying resulted = false ∧ (stepping id).tender.result62 = none ∧ resulted.consist.partner = none ∧ mirrored.consist.partner.isSome = true ∧
    (List.replicate 4096 (0 : Byte)).length = 4096 ∧ up.way.toPartner = none ∧ mirrored.way.toPartner = some 4 ∧ 4 = mirrored.tender.step ∧
    mirrored.way.built = true ∧ mirrored.way.durable = false ∧ mirrored.way.rewrite ≠ some 4 ∧ mirrored.way.timedOut = false ∧
    mirrored.time.ns < mirrored.way.sentAt + 200000 ∧ mirrored.way.sentAt + 200000 ≤ (mirrored.updTime fun t => { t with ns := 201000 }).time.ns ∧
    mirrored.mgmt.flashRo = false ∧ (mirrored.updWay fun w => { w with flashQ := [(4, [])] }).way.flashQ = (4, []) :: [] ∧
    ((mirrored.updWay fun w => { w with toFlash := [(3, [])] }).way.flashQ = [] ∧ mirrored.way.rewrite ≠ some 3) ∧ voidDue voiding = true ∧ voidDue up = false ∧
    up.way.toCheck = none ∧ ((stepping id).updWay fun w => { w with toCheck := some (2, true, []) }).way.toCheck = some (2, true, []) ∧
    (stepping id).tender.step ≠ 2 + 1 ∧ true ≠ entryFlag [] 0 ∧ false = entryFlag [] 0 ∧
    leNat (stageRaw (stepping id) 0xB8 4) = leNat (([] : List Byte).drop 0xB8 |>.take 4) ∧ (1 : Fin 8).val ≠ paired.consist.position ∧
    paired.consist.populated.getLsbD (1 : Fin 8) = true ∧ reachable (paired.updPort 0 fun t => { t with state := 0 }) 1 = false ∧
    reachable paired 1 = true ∧ reachable up 1 = false := by decide +kernel
theorem test_meets_WaybillEntries_next : mirrored.way.both = false ∧ ((mirrored.updWay fun w => { w with both := true }).way.both = true) ∧
    ((stepping id).updWay fun w => { w with toCheck := some (3, true, []) }).tender.step = 3 + 1 := by decide +kernel
/-- R488: after 200 µs without an acknowledgement the entry goes to flash too. -/
theorem test_mirror_timeout : after .mirrorTimeout (mirrored.updTime fun t => { t with ns := 201000 })
    (fun t => (t.way.both, t.way.timeouts.val, t.way.flashQ.map fun e => e.1)) = some (true, 1, [4]) := by decide +kernel
theorem test_mirror_ack : after .waybillMirrorAck mirrored (fun t => (t.way.durable, t.way.last)) = some (true, 4) := by decide +kernel
theorem test_flash_write : after .flashMirrorWriteComplete (mirrored.updWay fun w => { w with flashQ := [(4, [1])] })
    (fun t => (t.way.flashed, mget [] t.way.flashRing 4)) = some (4, [1]) := by decide +kernel
/-- R513: a position that cannot be reached stops the module, and event 0x50 says so. -/
theorem test_peer_lost : after (.peerLost 1) (paired.updPort 0 fun t => { t with state := 0 })
    (fun t => (t.halt.state, t.halt.source, t.rings.events.map fun e => e.code)) = some (2, 4, [0x50]) := by decide +kernel
theorem test_replay_check : after .replayStepCheck ((stepping id).updWay fun w => { w with toCheck := some (2, true, []) })
    (fun t => (t.way.diverged, t.rings.events.map fun e => (e.code, e.arg))) = some (true, [(0x23, 1)]) := by decide +kernel

/-- A save of tier 1 with nothing to read, and one of tier 3 that is staged. -/
def saving : State := (stepping id).updWay fun w => { w with
  saves := [(0, some ⟨3, 0, 1, 0, 0, false, [], [], [], [], false⟩), (2, some ⟨3, 0, 1, 0, 0, false, [], [], [], [], true⟩)] }

theorem test_meets_Checkpoints : mget none saving.way.saves 1 = none ∧ (∃ v, mget none (saveReadAll saving 0).way.saves 0 = some v ∧ v.staged = false) ∧
    (mget none saving.way.saves 2).map (fun v => v.staged) = some true ∧ (∀ v, mget none up.way.saves 2 = some v → v.staged = false) := by
  refine ⟨by decide +kernel, ⟨⟨3, 0, 1, 0, 0, false, [], [], [], [], false⟩, by decide +kernel⟩, by decide +kernel, fun v h => ?_⟩
  simp [mget, up, State.reset] at h
theorem test_meets_Checkpoints_staged : (mget none (saveReadAll saving 2).way.saves 2).map (fun v => v.staged) = some true := by decide +kernel
/-- R494, R495: a complete save gives its tier its label; a staged one waits for its release. -/
theorem test_save_complete : after (.checkpointSaveComplete 0) saving (fun t => (mget 0 t.way.labels 0, (mget none t.way.slots 1).map fun c => c.tier))
    = some (3, some 1) := by decide +kernel
theorem test_staged : after .tier3Staged saving (fun t => (t.way.unreleased, t.rings.events.map fun e => e.code)) = some ([1], [0x25]) := by decide +kernel

-- the Tender, the ledger, the watch and counters

/-- Entry 0 is native, 1 frozen, 2 a compat entry of layer 0, 3 belongs to rank 9; a save has still to read entry 0 when it drains. -/
def tendering : State := stepping fun t => { t with dir := [(0, { len := 4096, valid := true }), (1, { len := 4096, valid := true, frozen := true }),
  (2, { len := 4096, valid := true, sum := true, compat := true }), (3, { len := 4096, valid := true, shard := 9 })] }
def queueing (x : Nat) (r : List (Nat × Nat)) : State := tendering.updTender fun t => { t with queue := [⟨x, 0, 0, 4, []⟩], record := r }
def drained : State := (queueing 0 []).updWay fun w => { w with saves := [(1, some ⟨3, 0, 0, 0, 0, true, tendering.tender.dir, [], [], [], false⟩)] }

theorem test_meets_TenderBlocks : (List.replicate 4096 (0 : Word32)).length = 4096 ∧ tendering.halt.state ≠ 2 ∧ tendering.tender.queue.length < 1024 ∧
    tendering.tender.contrib = false ∧ owned tendering (tendering.dir 0) = true ∧ owned tendering (tendering.dir 3) = false ∧ (0 : Half).toNat = (tendering.dir 0).gen ∧
    (1 : Half).toNat ≠ (tendering.dir 0).gen ∧ tendering.tender.qblk = [] ∧ tendering.tender.record = [] ∧
    (queueing 0 [(0, 0)]).tender.record.contains (0, 0) = true ∧ (tendering.dir 1).frozen = true ∧ (tendering.dir 1).compat = false ∧
    tendering.tender.copies = [] ∧ frontBlock tendering = none ∧ frontBlock (queueing 0 []) = some ⟨0, 0, 0, 4, []⟩ ∧
    mustWait (queueing 0 []) 0 0 = false ∧ mustWait drained 0 0 = true ∧ frontBlock drained = some ⟨0, 0, 0, 4, []⟩ ∧
    frontBlock (queueing 2 []) = some ⟨2, 0, 0, 4, []⟩ ∧ frontBlock (queueing 1 []) = some ⟨1, 0, 0, 4, []⟩ ∧ frontBlock (queueing 3 []) = some ⟨3, 0, 0, 4, []⟩ ∧ (tendering.dir 2).compat = true ∧ owned tendering (tendering.dir 2) = true := by
  refine ⟨List.length_replicate, ?_⟩; decide +kernel
theorem test_meets_TenderBlocks_stalled : (drained.updTender fun t => { t with stalled := true }).tender.stalled = true ∧
    mwf none drained.way.saves := by decide +kernel
/-- R41: an update that a drain has still to read waits, and counts one stall. -/
theorem test_stall : after .tenderBlockApply drained (fun t => (t.tender.stalled, t.tender.drainStalls.val, t.tender.applied.val)) = some (true, 1, 0) := by
  decide +kernel
/-- R445: a block of another module's entry is misrouted. -/
theorem test_misrouted : (rejectBlock tendering ⟨3, 2, 0, 4, []⟩).map (fun t => (t.tender.misrouted.val, t.rings.events.map fun e => (e.code, e.arg)))
    = some (1, [(0x52, 3 + 2 * 65536)]) := by decide +kernel
/-- R445: a generation that differs is counted, and the event carries it. -/
theorem test_mixed_generation : (rejectBlock tendering ⟨0, 0, 5, 4, []⟩).map (fun t => (t.tender.mixedGen.val, t.rings.events.map fun e => (e.code, e.extra)))
    = some (1, [(0x51, 5)]) := by decide +kernel

/-- R450: with learning rate 1, β one half and λ 0, momentum 1 and a positive vote give momentum 1, and the weight 4 falls to 3. -/
theorem test_native_rule : nativeUpdate ⟨Machine.one32, 0x3F000000, 0⟩ 0x3F000000 (gradSign true 7) 0x40800000 Machine.one32 = (0x40400000, Machine.one32) := by decide +kernel
theorem test_grad_sign : (gradSign true 0xFFFF, gradSign true 0, gradSign false 0x80000000) = (minusOne32, 0, 0) := by decide +kernel

/-- Layer 0 has two leaves, of which one has come; its ratio is then 2. -/
def compatLayer : State := ((tendering.updMgmt fun m => { m with cur := { m.cur with layers := [(0, (2, 0))] } })).updTender fun t =>
  { t with qleaf := [(0, 0, Machine.one32, 0x40800000)] }
def ratioKnown : State := tendering.updTender fun t => { t with rho := [(0, some 0x40000000)] }
def passDrained : State := ratioKnown.updWay fun w => { w with saves := drained.way.saves }
def installing : State := up.updTender fun t => { t with installs := [⟨5, [{ len := 1, valid := true }]⟩] }

theorem test_meets_CompatLayersAndInstalls : (0 : Half).toNat < 4096 ∧ (compatLayer.tender.qleaf.any fun r => r.1 = 0 && r.2.1 = 1) = false ∧
    (compatLayer.tender.qleaf.any fun r => r.1 = 0 && r.2.1 = 0) = true ∧ mget none ratioKnown.tender.rho 0 = some 0x40000000 ∧
    mget none tendering.tender.rho 0 = none ∧ ratioKnown.halt.state ≠ 2 ∧ ratioKnown.tender.contrib = false ∧ pass2Blocks ratioKnown 0 = [(2, 0)] ∧
    mustWait ratioKnown 2 0 = false ∧ pass2Blocks passDrained 0 = [(2, 0)] ∧ mustWait passDrained 2 0 = true ∧ tendering.quiescent = false ∧
    installing.quiescent = true ∧ installing.tender.installs = [⟨5, [{ len := 1, valid := true }]⟩] ∧ installing.way.saves = [] ∧ installing.tender.copies = [] ∧
    (∀ e ∈ [({ len := 1, valid := true } : DirEntry)], e.frozen = false) := by decide +kernel
/-- R453: the second leaf completes the layer: qm is 1 + 3 and qw 4 + 12, so the ratio is 2. -/
theorem test_ratio : after (.compatPartialReceive 0 1 0x40400000 0x41400000) compatLayer (fun t => mget none t.tender.rho 0) = some (some 0x40000000) := by
  decide +kernel
theorem test_install : after .tenderInstallApply installing (fun t => ((t.dir 5).len, t.tender.installs.length)) = some (1, 0) := by decide +kernel

/-- A schedule of 8 micro-batches over 2 parts; micro-batch 3 is in slot 0, and part 0 has folded 3 of them. -/
def scheduled : State := up.updLedger fun l => { l with b := 8, p1 := 1, slot := [(0, some 3)], fold := [(0, 3)], opened := 1, used := [3] }

theorem test_meets_SlotLedger : freeSlot scheduled.ledger = some 1 ∧ scheduled.halt.state ≠ 2 ∧ (4 : Word32).toNat % 4096 < scheduled.ledger.b ∧
    (4 : Word32).toNat % 4096 ∉ scheduled.ledger.used ∧ (3 : Word32).toNat % 4096 ∈ scheduled.ledger.used ∧ scheduled.ledger.b ≤ (8 : Word32).toNat % 4096 ∧
    slotHolding scheduled.ledger 3 = some 0 ∧ 0 ≤ scheduled.ledger.p1 ∧ mget 0 scheduled.ledger.fold 0 = 3 ∧ slotHolding scheduled.ledger 5 = none ∧
    scheduled.ledger.p1 < 2 ∧ mget 0 scheduled.ledger.fold 1 ≠ 3 ∧
    scheduled.consist.freesem ≠ scheduled.consist.foldsem + 0 ∧ scheduled.ledger.rejects.val < 2 ^ 63 ∧ up.ledger.opened = 0 ∧ up.ledger.fold = []   := by decide +kernel
/-- Part 1 has not folded micro-batch 3; with one part alone every other has. -/
theorem test_meets_SlotLedger_parts : (∃ q ≤ scheduled.ledger.p1, q ≠ 0 ∧ mget 0 scheduled.ledger.fold q ≤ 3) ∧
    ∀ q ≤ (scheduled.updLedger fun l => { l with p1 := 0 }).ledger.p1, q ≠ 0 → 3 < mget 0 scheduled.ledger.fold q :=
  ⟨⟨1, by decide +kernel⟩, fun _ h h0 => absurd (Nat.le_zero.mp h) h0⟩
/-- R474: a micro-batch opened twice is rejected; the event names it. -/
theorem test_open_twice : after (.ledgerOpen 3) scheduled (fun t => (t.ledger.order, t.ledger.rejects.val, t.rings.events.map fun e => (e.code, e.arg)))
    = some (true, 1, [(0x24, 3)]) := by decide +kernel
theorem test_folded : after (.ledgerFolded 3) (scheduled.updLedger fun l => { l with fold := [(0, 3), (1, 4)] })
    (fun t => (mget none t.ledger.slot 0, t.ledger.opened, (t.sem t.consist.freesem).value)) = some (none, 0, 1) := by decide +kernel

theorem test_meets_WatchAndSticky : slotOn up ((128 : Half).toNat / 64) = true ∧ (128 : Half).toNat % 64 = 0 ∧ (136 : Half).toNat % 64 = 8 ∧
    (144 : Half).toNat % 64 = 16 ∧ (152 : Half).toNat % 64 = 24 ∧ (160 : Half).toNat % 64 = 32 ∧ 0x7F800000 < (0x7F800001 : Word).toNat % 2 ^ 31 ∧
    (0xFF800000 : Word).toNat % 2 ^ 31 ≤ 0x7F800000 ∧ slotOn (up.updMgmt fun m => { m with cur := { m.cur with classOn := 0 } }) 2 = false ∧
    ((8 : Fin 9).val = 8 ∧ (160 : Half).toNat % 64 ∉ [0, 8, 16, 24]) := by decide +kernel
/-- R231: an infinity enters AMAX and a NaN does not. -/
theorem test_contribution_amax : (after (.watchContributionStore 160 4 0xFF800000) up (fun t => (t.slot 2).amax),
    after (.watchContributionStore 160 4 0x7FC00000) up (fun t => (t.slot 2).amax)) = (some 0x7F800000, some 0) := by decide +kernel
theorem test_sticky : after (.stickyOvfClear (.tender 7)) (up.updTender fun t => { t with commits := ⟨2 ^ 64 - 1, true⟩, skips := ⟨5, false⟩ })
    (fun t => (t.tender.commits, t.tender.skips.val)) = some ({}, 5) := by decide +kernel

/-- A module whose loss watch is on and has evaluated a loss of 1, which is no spike; one that is, and one whose streak is 8. -/
def watching (spike : Bool) (streak loss : Nat) : State := { up.updMgmt (fun m => { m with cur := { m.cur with lossOn := true } }) with
  watch := { up.watch with spike := spike, streak := streak, loss := loss } }

theorem test_meets_LossWatch : (watching false 3 0x3F800000).consist.lossOn = true ∧ (watching false 3 0x3F800000).watch.spike = false ∧
    (watching false 3 0x3F800000).watch.streak ≠ 8 ∧ (watching true 3 0x3F800000).watch.spike = true ∧ (watching true 8 0x3F800000).watch.streak = 8 ∧
    nonFinite32 0x3F800000 = false ∧ nonFinite32 0x7F800000 = true := by decide +kernel
/-- R243: a spike lengthens the streak and gives its event. -/
theorem test_spike : ((lossEnd (watching true 3 0x3F800000) false).watch.streak,
    (lossEnd (watching true 3 0x3F800000) false).rings.events.map fun e => e.code) = (4, [0x33]) := by decide +kernel

theorem test_meets_StatisticsCounters : StatRef.tender 7 ≠ .ringLost ∧ (statGet (.tender 7) up).val + 1 < 2 ^ statWidth (.tender 7) - 1 ∧
    (statGet (.tender 7) up).ovf = false ∧ 2 ^ statWidth (.tender 7) - 1 ≤ (statGet (.tender 7) up).val + (2 ^ 64 - 1) ∧
    (statGet (.tender 7) (up.bump (.tender 7) (2 ^ 64))).ovf = true := by decide +kernel
/-- R635: a counter stays at all-ones and raises event 2 once. -/
theorem test_counter_full : ((up.bump (.tender 7) (2 ^ 64)).bump (.tender 7)).rings.events.map (fun e => e.code) = [2] ∧
    ((up.bump (.tender 7) (2 ^ 64)).bump (.tender 7)).tender.commits.val = 2 ^ 64 - 1 := by decide +kernel

-- rings

/-- Pair 3 with its ring in 16 entries at 64 KiB. -/
def ringed (f : Pair → Pair) : State := up.updPair 3 fun p => f { p with addr := 16, state := 1, size := 4 }
def watched : State := (ringed fun p => { p with watch := true, sqTail := 2 }).updMgmt fun m => { m with cur := { m.cur with expert := 0x1000 } }

theorem test_meets_RingRegisters : ((ringed fun p => { p with state := 2 }).pair 3).state = 2 ∧ ((ringed id).pair 3).state = 1 ∧
    cfgBits (0x41 ||| 1) = ((ringed id).pair 3).cfg ∧ cfgBits (0x51 ||| 1) ≠ ((ringed id).pair 3).cfg ∧ (up.pair 3).state = 0 ∧ held.sys.ready = false ∧
    up.sys.ready = true ∧ bits 0x31 4 4 < 4 ∧ 12 < bits 0xD1 4 4 ∧ 4 ≤ bits 0x41 4 4 ∧ bits 0xC1 4 4 ≤ 12 ∧ bits 0x47 1 2 = 3 ∧ bits 0x45 1 2 = 2 ∧
    (up.pair 3).addr = 0 ∧ ((up.updPair 3 fun p => { p with addr := 16 }).pair 3).addr ≠ 0 ∧ doorbellFree watched 3 = true ∧ doorbellFree (ringed id) 3 = false ∧
    reached 3 ((ringed id).pair 3).sqTail = true ∧ (3 - ((ringed id).pair 3).sqHead).toNat ≤ 2 ^ 4 ∧ 2 ^ 4 < ((17 : BitVec 32) - ((ringed id).pair 3).sqHead).toNat ∧
    reached ((ringed id).pair 3).cqTail 0 = true ∧ reached ((ringed id).pair 3).cqTail 1 = false ∧ watched.sys.cxlUp = true := by decide +kernel
theorem test_meets_RingRegisters_class : ∃ e ∈ (up.updPair 9 fun p => { p with state := 1, cls := 2 }).rings.pairs,
    e.1 ≠ (3 : RingNo).val ∧ e.2.state ≠ 0 ∧ e.2.cls = 2 := ⟨(9, { state := 1, cls := 2 }), by decide +kernel⟩
/-- R536: what the host has written to the shadow line: tail 5 and head 0. -/
theorem test_meets_RingRegisters_shadow : (let s : State := { watched with hostMem := putBytes [] 0x10500 (leBytes 4 5 ++ leBytes 4 0) }
    ((s.pair 3).shadowAddr, after (.shadowLineReread 3) s fun t => (t.pair 3).sqTail)) = (0x10500, some 5) := by decide +kernel
/-- R608: codes 2 and 6; R611: a tail beyond the ring is discarded. -/
theorem test_ring_errors : (after (.ringEnableWrite 3 0x30) up (fun t => (t.pair 3).err), after (.ringEnableWrite 3 0x40) up (fun t => (t.pair 3).err),
    after (.doorbellSqTail 3 17) (ringed id) (fun t => ((t.pair 3).sqTail, (t.pair 3).discards.val))) = (some 2, some 6, some (0, 1)) := by decide +kernel

/-- A NOP entry with CID 0x1234 in slot 0 of the ring. -/
def submitted : State := { ringed fun p => { p with sqTail := 1 } with hostMem := putBytes [] 0x10000 [0, 1, 0x34, 0x12] }
def executed : State := ringed fun p => { p with cmds := [⟨0, 0, true, false, 0x1234, true, [], true, false, some (0, 5)⟩] }
/-- Pair 2 is the event ring and an event waits. -/
def eventful (head : BitVec 32) : State := (up.updPair 2 fun p => { p with addr := 32, state := 1, cls := 2, size := 4, cqTail := 16, cqHead := head }).raise 0x50 7 9
def signalling (n : Nat) (mask : BitVec 64) : State := (ringed fun p => { p with vec := 5, toSignal := n }).updRings fun h => { h with unmasked := mask }

theorem test_meets_RingTraffic : (up.pair 3).state ≠ 1 ∧ (submitted.pair 3).state = 1 ∧ submitted.sys.cxlUp = true ∧ (submitted.pair 3).cls ≠ 2 ∧
    (submitted.pair 3).sqHead ≠ (submitted.pair 3).sqTail ∧ (submitted.pair 3).cmds.length < 16 ∧ submitted.halt.state ≠ 2 ∧ (submitted.pair 3).hold = none ∧
    (submitted.pair 3).cmds = [] ∧ (executed.pair 3).state ≠ 0 ∧ cqRoom (executed.pair 3) = true ∧
    (executed.pair 3).cmds = ⟨0, 0, true, false, 0x1234, true, [], true, false, some (0, 5)⟩ :: [] ∧ eventRing up = none ∧
    eventRing (eventful 16) = some 2 ∧ (eventful 16).rings.events.map (fun e => e.code) = [0x50] ∧ cqRoom ((eventful 0).pair 2) = false ∧
    cqRoom ((eventful 16).pair 2) = true ∧ ((signalling 0 0).pair 3).toSignal = 0 ∧ ((signalling 2 0).pair 3).toSignal ≠ 0 ∧ hostExpert (signalling 2 0) = false ∧
    hostExpert watched = true ∧ (signalling 2 0x20).rings.unmasked.getLsbD 5 = true ∧ (signalling 2 0).rings.unmasked.getLsbD 5 = false ∧
    (signalling 2 0).rings.funcMask = false ∧ (up.rings.pba &&& up.rings.unmasked) &&& ~~~((1 : BitVec 64) <<< (5 : Fin 64).val) = 0 ∧
    ((up.updRings fun h => { h with pba := 0x20 }).rings.pba.getLsbD (5 : Fin 64)) = true := by decide +kernel
theorem test_meets_RingTraffic_coalesced : (let s := watched.updPair 3 fun p => { p with toSignal := 2, coalCnt := 1 }
    hostExpert s = true ∧ (s.pair 3).toSignal ≠ 0 ∧ (s.pair 3).coalCnt < (s.pair 3).toSignal) ∧
    (let s := watched.updPair 3 fun p => { p with toSignal := 1, coalCnt := 1, coalTime := 256 }
    ¬((s.pair 3).coalCnt < (s.pair 3).toSignal ∨ (s.pair 3).sigAt + (s.pair 3).coalTime / 256 * 256 ≤ s.time.ns)) := by decide +kernel
theorem test_fetch : after (.ringEntryFetch 3) submitted (fun t => ((t.pair 3).sqHead, (t.pair 3).cmds.map fun c => c.cid)) =
    some (1, [0x1234]) := by decide +kernel
/-- R527: CID, P = 1 in the first pass, status 0, SQ index and RESULT 5. -/
theorem test_completion : after (.completionWrite 3) executed (fun t => getCells t.hostMem 0x10400 16) =
    some [0x34, 0x12, 1, 0, 0, 0, 0, 0, 5, 0, 0, 0, 0, 0, 0, 0] := by decide +kernel
/-- R527, R529: an event in the second pass of its ring: P = 0, E = 1. -/
theorem test_event : after .eventPost (eventful 16) (fun t => getCells t.hostMem 0x20400 16) =
    some [0x50, 0, 2, 0, 7, 0, 0, 0, 0, 0, 0, 0, 0, 0, 9, 0] := by decide +kernel
/-- R612: a masked vector sets its pending bit, and unmasking sends it. -/
theorem test_msix : (after (.msixSignal 3) (signalling 2 0) (fun t => (t.outbox, t.rings.pba)),
    after (.msixUnmask 5) (up.updRings fun h => { h with pba := 0x20 }) (fun t => (t.outbox, t.rings.pba))) = (some ([], 0x20), some ([.msix 5], 0)) := by
  decide +kernel

/-- The command at index 7 of pair 3, and a state in which it has been fetched. -/
def cmd7 (op : Nat) (params : List Byte) : RingCmd := ⟨7, op, false, false, 1, true, params ++ List.replicate (56 - params.length) 0, false, false, none⟩
def cmdAt (s : State) (cls op : Nat) (params : List Byte) : State :=
  s.updPair 3 fun p => { p with addr := 16, state := 1, size := 4, cls := cls, cmds := [cmd7 op params] }
def running : State := stepping id

theorem test_meets_RingCommandChecks : ((up.pair 3).cmds.find? fun c => c.idx = 7 && c.op = 0) = none ∧ voiding.halt.state = 2 ∧ voidPending voiding = true ∧
    mayStart (cmdAt voiding 0 0x11 []) 3 (cmd7 0x11 []) = false ∧ mayStart (cmdAt up 0 0 []) 3 { cmd7 0 [] with rsvOk := false } = true ∧
    voidPending up = false := by decide +kernel
/-- Each command of a ring can start; a COLLECTIVE on a data ring. -/
theorem test_meets_Startable : ∀ op ∈ [0, 1, 0x10, 0x11, 0x12, 0x13, 0x14, 0x15, 0x16, 0x20, 0x21, 0x22, 0x23, 0x30, 0x31, 0x32, 0x33, 0x34, 0x35],
    Startable (cmdAt running 0 op [1]) 3 7 op (cmd7 op [1]) := by
  intro op h
  have : ∀ op ∈ [0, 1, 0x10, 0x11, 0x12, 0x13, 0x14, 0x15, 0x16, 0x20, 0x21, 0x22, 0x23, 0x30, 0x31, 0x32, 0x33, 0x34, 0x35],
    (((cmdAt running 0 op [1]).pair 3).cmds.find? fun c => c.idx = 7 && c.op = op) = some (cmd7 op [1]) ∧
      mayStart (cmdAt running 0 op [1]) 3 (cmd7 op [1]) = true ∧ (cmd7 op [1]).rsvOk = true := by decide +kernel
  exact this op h
theorem test_meets_Startable_collective : ((((cmdAt running 1 2 [1]).pair 3).cmds.find? fun c => c.idx = 7 && c.op = 2) = some (cmd7 2 [1]) ∧
    mayStart (cmdAt running 1 2 [1]) 3 (cmd7 2 [1]) = true ∧ (cmd7 2 [1]).rsvOk = true) ∧
    ((((cmdAt voiding 0 0x14 [1]).pair 3).cmds.find? fun c => c.idx = 7 && c.op = 0x14) = some (cmd7 0x14 [1]) ∧
    mayStart (cmdAt voiding 0 0x14 [1]) 3 (cmd7 0x14 [1]) = true) := by decide +kernel

/-- A parameter of a command, and what its pair holds of it afterwards. -/
def param (params : List Byte) (o n : Nat) : Nat := leNat (((cmd7 0 params).params.drop (o - 8)).take n)
def doneOf (t : State) : List (Option (Nat × Nat)) := (t.pair 3).cmds.map fun c => c.done
def ask (s : State) (cls op : Nat) (params : List Byte) (i : Instr) : Option (List (Option (Nat × Nat))) := after i (cmdAt s cls op params) doneOf
def haltedAt (s : State) : State := s.updHalt fun h => { h with state := 2 }

theorem test_meets_RunCommands : 31 < param [32] 8 8 ∧ param [31] 8 8 ≤ 31 ∧ 15 < param [16] 8 8 ∧ param [15] 8 8 ≤ 15 ∧ (reducing.coll 2).cur.isSome = true ∧
    param [] 8 8 = 0 ∧ 2 ^ 48 < param (leBytes 8 (2 ^ 48 + 1)) 8 8 ∧ param (leBytes 8 (2 ^ 48)) 8 8 ≤ 2 ^ 48 ∧
    ((up.updRings fun h => { h with boundary := [⟨1, 0, 0x10, []⟩] }).rings.boundary.map fun b => b.op) = [0x10] ∧ up.rings.boundary = [] ∧
    up.quiescent = true ∧ running.quiescent = false ∧ running.tender.step ≤ param [4] 8 8 ∧ param [3] 8 8 < running.tender.step ∧
    (haltedAt running).halt.state = 2 ∧ voidPending (haltedAt running) = false ∧ running.halt.state ≠ 2 ∧ running.tender.contrib63 = false ∧
    entered.tender.contrib63 = false ∧ combining.tender.contrib63 = true ∧ up.tender.run = false ∧
    inRange 0 (param (leBytes 8 3 ++ leBytes 8 0x10000000 ++ [0]) 0x10 8 : Nat) (64 * param [] 0x18 2) = true ∧
    inRange 0 (param (leBytes 8 3 ++ leBytes 8 0xFFFFFFFFFF ++ [1]) 0x10 8 : Nat) (64 * param (leBytes 8 3 ++ leBytes 8 0 ++ [1]) 0x18 2) = false ∧
    param (leBytes 8 60 ++ leBytes 8 4) 0x10 8 ≤ running.tender.step ∧ up.tender.step < param (leBytes 8 60 ++ leBytes 8 4) 0x10 8 := by decide +kernel
theorem test_nop : ask running 0 0 [] (.cmdNop 3 7) = some [some (0, 0)] := by decide +kernel
theorem test_mover_cmd : ask running 0 1 [32] (.cmdMover 3 7) = some [some (4, 0)] := by decide +kernel
theorem test_run_start : (ask up 0 0x10 [] (.cmdRunStart 3 7), after (.cmdRunStart 3 7) (cmdAt up 0 0x10 [9]) (fun t => (t.tender.run, t.tender.n))) =
    (some [some (4, 0)], some (true, 9)) := by decide +kernel
/-- R512: the first step that is not recorded waits; one that is past completes. -/
theorem test_step_cmd : (ask running 0 0x11 [4] (.cmdStep 3 7), ask running 0 0x11 [3] (.cmdStep 3 7)) = (some [none], some [some (0, 0)]) := by decide +kernel
theorem test_resume : after (.cmdResume 3 7) (cmdAt (haltedAt up) 0 0x13 []) (fun t => (t.halt.state, doneOf t)) = some (0, [some (0, 0)]) := by decide +kernel
/-- R505: a restore is rejected while a step runs. -/
theorem test_restore : (ask running 0 0x14 [] (.cmdRestore 3 7), ask up 0 0x14 (leBytes 8 3 ++ leBytes 8 0x10000000) (.cmdRestore 3 7)) =
    (some [some (5, 0)], some [some (0, 0)]) := by decide +kernel
theorem test_meets_RunCommands_tables : (let q := readTable (cmdAt up 0 0x14 []) 0x10000000 0
    q.1 = some [] ∧ tableOk q.2 3 [] = true) ∧
    (let q := readTable ((cmdAt up 0 0x14 []).updTender fun t => { t with dir := [(0, { len := 1, valid := true })] }) 0x10000000 0
    q.1 = some [] ∧ tableOk q.2 3 [] = false) ∧
    (let s := upsetMem; (readTable (cmdAt s 0 0x14 []) 0x10000000 1).1.isSome = true) := by decide +kernel
theorem test_mtbf : after (.cmdMtbf 3 7) (cmdAt up 0 0x15 [60]) (fun t => (t.way.mtbf, doneOf t)) = some (60, [some (0, 0)]) := by decide +kernel

/-- Staging slot 1 holds a checkpoint that waits for its release. -/
def releasing : State := up.updWay fun w => { w with unreleased := [1], slots := [(5, some ⟨33, 0, 0, 0, 3, [], 0⟩)] }
def expertAt (n : Nat) (s : State) : State := s.updMgmt fun m => { m with cur := { m.cur with expert := BitVec.ofNat 13 (2 ^ n), floorMv := some 700 } }

theorem test_meets_ServiceCommands : 1 < param [2] 8 8 ∧ param [1] 8 8 ≤ 1 ∧ param [] 8 8 ∉ releasing.way.unreleased ∧ param [1] 8 8 ∈ releasing.way.unreleased ∧
    (mget none releasing.way.slots (4 + 1)).isSome = true ∧ 65536 < param (leBytes 8 0 ++ leBytes 2 0xFFFF ++ [2]) 0x10 2 + param (leBytes 8 0 ++ leBytes 2 0xFFFF ++ [2]) 0x12 2 ∧
    inRange 0 (param (leBytes 8 0x10000000 ++ [1, 0, 1]) 8 8 : Nat) (64 * param (leBytes 8 0x10000000 ++ [1, 0, 1]) 0x12 2) = true ∧
    running.quiescent = false ∧ 7 < param [8] 8 4 ∧ param [7] 8 4 ≤ 7 ∧ rateOk 0xBF800000 = false ∧ rateOk 0x3F800000 = true ∧ up.expert 0 = false ∧
    (expertAt 0 running).expert 0 = true ∧ (expertAt 0 running).consist.floorMv.isSome = true ∧ (expertAt 0 running).quiescent = false ∧
    1 < param (leBytes 8 0 ++ [2]) 0x10 8 ∧ param [] 0xC 4 = 0 ∧ 274659 < param (leBytes 4 274659 ++ [1]) 8 4 + param (leBytes 4 274659 ++ [1]) 0xC 4 ∧
    ¬274659 < param (leBytes 4 274658 ++ [1]) 8 4 + param (leBytes 4 274658 ++ [1]) 0xC 4 ∧ up.expert 1 = false ∧ (expertAt 1 up).expert 1 = true ∧
    (expertAt 1 up).quiescent = true ∧ 7 < param [8] 8 8 ∧ 11 < param [12] 8 8 ∧ 4095 < param [0, 16] 8 2 ∧ carriage.consist.ranks.length ≤ param [9, 0, 3] 0xA 2 ∧
    param [9, 0, 0] 0xA 2 = carriage.consist.rank ∧ param [9, 0, 1, 0, 3] 0xC 8 ≠ 1 ∧ param [9, 0, 1, 0, 1] 0xC 8 = 1 ∧ (carriage.flow 5).bound = true ∧
    (carriage.flow 9).bound = false ∧ inRake carriage 1 = true ∧ ((carriage.flow 5).unacked = [] ∧ carriage.ports.all (fun e => e.2.txq = []) = true) ∧
    (unacked.flow 5).unacked ≠ [] ∧ (carriage.flow 5).closing = none ∧ 95 < param [96] 8 1 ∧ 3 < param [2, 4] 9 1 ∧ ¬100 ≤ posOf up (param [2] 8 1) ∧
    (seated id).seat r21 = up.seat r21 ∧ (up.seat r21).pend.getLsbD 7 = false ∧ 2 ≤ param (leBytes 8 0 ++ [2]) 0x10 1 ∧
    (up.updMgmt fun m => { m with cur := { m.cur with ppsIn := true } }).consist.ppsIn = true ∧ param (leBytes 8 5) 8 8 % 10 ^ 9 ≠ 0 ∧
    up.consist.ppsIn = false ∧ up.time.tods = [] ∧ up.time.state = 0 ∧ up.time.ns < param [1] 8 8 ∧ param [] 8 8 ≤ up.time.ns := by decide +kernel
theorem test_meets_ServiceCommands_install : (let q := installOf (cmdAt running 0 0x20 []) 0x10000000 5 1
    (q.1.map fun i => i.entries.length) = some 1) ∧
    (installOf ({ cmdAt running 0 0x20 [] with mem := { running.mem with cells := putBytes [] 0x10000006 [1] } }) 0x10000000 5 1).1 = none := by
  decide +kernel
theorem test_release : (ask releasing 0 0x16 [1] (.cmdTier3Release 3 7), ask releasing 0 0x16 [] (.cmdTier3Release 3 7)) =
    (some [some (0, 33)], some [some (5, 0)]) := by decide +kernel
theorem test_rate_cmd : ask running 0 0x21 (leBytes 4 7 ++ leBytes 4 0xBF800000) (.cmdTenderRate 3 7) = some [some (5, 0)] := by decide +kernel
theorem test_page_class : ask running 0 0x23 (leBytes 4 3 ++ leBytes 4 1) (.cmdPageClass 3 7) = some [some (5, 0)] := by decide +kernel
theorem test_seat_int : after (.cmdSeatInt 3 7) (cmdAt up 0 0x34 [2, 1]) (fun t => ((t.seat r21).pend, mget 0 (t.seat r21).pendDet 7)) = some (0x80, 3) := by
  decide +kernel
theorem test_time_of_day : after (.cmdTimeOfDay 3 7) (cmdAt up 0 0x35 (leBytes 8 5000)) (fun t => (t.time.ns, t.time.set, doneOf t)) =
    some (5000, true, [some (0, 5000)]) := by decide +kernel
theorem test_open_flow : after (.cmdOpenFlow 3 7) (cmdAt carriage 0 0x32 [9, 0, 1, 0, 1]) (fun t => ((t.flow 9).bound, (t.flow 9).peer, (t.flow 9).cls)) =
    some (true, 1, 1) := by decide +kernel

/-- Slot 0 of tier 1 holds a checkpoint of label 3 whose only shard is the scale history. -/
def histCkpt : Ckpt := ⟨3, 0, 0, 0, 1, [⟨none, 0, 0, shaNat [], []⟩], 0⟩
def histSource : Source := ⟨allOnes64, 0, 1, 0, 0xFFFF, 0, 0, 0, 0, true⟩
def stored : State := up.updWay fun w => { w with slots := [(0, some { histCkpt with mandig := mandigOf histCkpt })] }
/-- A table whose one entry names tier 3. -/
def tier3Table : State := up.updMem fun m => { m with cells := [(0x1000000A, 3)] }

/-- R505, R506: a table with the scale history and one without; a table that names the host's tier, over a link that is down. -/
theorem test_meets_RunCommands_history : tableOk stored 3 [histSource] = true ∧ histSource.isHistory = true ∧
    ([] : List Source).any Source.isHistory = false ∧
    ((readTable (tier3Table.updSys fun y => { y with cxlUp := false }) 0x10000000 1).1.map fun ys => ys.any fun y => y.tier = 3) = some true ∧
    tier3Table.sys.cxlUp = true := by decide +kernel
/-- R531: without its link a command that wants host memory completes with status 7; with it, a descriptor is taken up. -/
theorem test_no_link : (ask (running.updSys fun y => { y with cxlUp := false }) 0 1 [] (.cmdMover 3 7), ask running 0 1 [] (.cmdMover 3 7),
    ask (tier3Table.updSys fun y => { y with cxlUp := false }) 0 0x14 (leBytes 8 3 ++ leBytes 8 0x10000000 ++ [1]) (.cmdRestore 3 7)) =
    (some [some (7, 0)], some [none], some [some (7, 0)]) := by decide +kernel
theorem test_meets_Startable_no_link : (((cmdAt (running.updSys fun y => { y with cxlUp := false }) 0 1 [1]).pair 3).cmds.find? fun c => c.idx = 7 && c.op = 1) =
    some (cmd7 1 [1]) ∧ mayStart (cmdAt (running.updSys fun y => { y with cxlUp := false }) 0 1 [1]) 3 (cmd7 1 [1]) = true ∧
    up.quiescent = true ∧ up.rings.boundary = [] ∧ (expertAt 0 up).expert 0 = true ∧ (expertAt 0 up).quiescent = true ∧
    (expertAt 0 up).consist.floorMv.isSome = true := by decide +kernel

-- epoch time, power and cooling

/-- The consist declares a time source; the clock stands 50 ns after second 5. -/
def timed (f : Time → Time) : State := (up.updMgmt fun m => { m with cur := { m.cur with ppsIn := true, ppsOut := true } }).updTime fun t =>
  f { t with ns := 5000000050, ticks := 500000005, lastEdge := some (4000000000, 400000000), prevOk := true, state := 1, good := 7 }
def rejectedEdge : State := timed fun t => { t with lastEdge := some (4999999999, 1) }

theorem test_meets_PulseDiscipline : (timed id).consist.ppsIn = true ∧ up.consist.ppsIn = false ∧ edgeOk (timed id).time = true ∧ (timed id).time.tods = [] ∧
    (timed id).time.offset = 0 ∧ (timed fun t => { t with prevOk := false }).time.prevOk = false ∧ edgeOk rejectedEdge.time = false ∧
    fourthReject rejectedEdge.time = false ∧ (timed fun t => { t with state := 2, ns := 5000010001 }).time.state = 2 ∧
    edgeOk (timed fun t => { t with state := 2, ns := 5000010001 }).time = false ∧ edgeOk (timed fun t => { t with state := 2, ns := 5000010000 }).time = true ∧
    edgeOk (timed fun t => { t with state := 2, ns := 5200000000, rej := [4200000000, 3200000000, 2200000000] }).time = false ∧
    fourthReject (timed fun t => { t with state := 2, ns := 5200000000, rej := [4200000000, 3200000000, 2200000000] }).time = true ∧
    ((timed fun t => { t with state := 0, tods := [⟨some (3, 7), none, 6000000000, true, 0⟩] }).time.tods = [⟨some (3, 7), none, 6000000000, true, 0⟩]) ∧
    (timed fun t => { t with state := 0 }).time.ns < 6000000000 := by decide +kernel
/-- R546, R547: e is 50 ns; y moves by an eighth of the 50 units that the interval is too long; the eighth good edge locks. -/
theorem test_pps : after .ppsEdge (timed id) (fun t => (t.time.phase, t.time.y, t.time.state)) = some (50, ⟨50, 8⟩, 2) := by decide +kernel
theorem test_pps_rejected : after .ppsEdge rejectedEdge (fun t => (t.time.rejected.val, t.time.prevOk)) = some (1, false) := by decide +kernel

def holding (ns : Nat) : State := (timed id).updTime fun t => { t with state := 3, holdAt := 0, ns := ns }
def alarmed (armed : Bool) : State := up.updTime fun t => { t with ns := 100, alarms := [(2, { time := 50, notify := 0x201, armed := armed })] }

theorem test_meets_HoldoverAndAlarms : (timed id).time.state = 1 ∧ ¬(4000000000 + 25 * 10 ^ 8 ≤ (timed id).time.ns) ∧
    4000000000 + 25 * 10 ^ 8 ≤ (timed fun t => { t with ns := 6500000000 }).time.ns ∧ 3600 ≤ holdNow (holding 3600000000000).time ∧
    (holding 0).time.holdEv = false ∧ holdNow (holding 3599999999999).time < 3600 ∧ up.time.set = false ∧
    (timed fun t => { t with set := true }).consist.ppsOut = true ∧ up.time.lastEdge = none ∧ (timed id).time.lastEdge ≠ none ∧
    (timed fun t => { t with lastEdge := none }).consist.ppsIn = true ∧ (50 : Word).toNat ≤ (alarmed false).time.ns ∧
    (alarmed false).time.ns < (101 : Word).toNat ∧ ((alarmed true).alarm 2).notify.getLsbD 9 = true ∧ (up.alarm 2).notify.getLsbD 9 = false ∧
    notifySeat ((alarmed true).alarm 2).notify.toNat = some ⟨1, 0⟩ ∧ ((alarmed true).alarm 2).armed = true ∧ ((alarmed true).alarm 2).time ≤ (alarmed true).time.ns ∧
    (alarmed false).time.ns < ((alarmed false).alarm 2).time + 51 := by decide +kernel
theorem test_meets_HoldoverAndAlarms_setting : (let s := timed fun t => { t with ns := 3000000000, tods := [⟨some (3, 7), none, 9, false, 500000000⟩] }
    ∀ d ∈ s.time.tods, d.at0 + 25 * 10 ^ 8 ≤ s.time.ns) := by decide +kernel
theorem test_meets_HoldoverAndAlarms_missing : (let s := timed fun t => { t with lastEdge := none, ns := 10000000000 }
    s.time.lastEdge = none ∧ s.sys.ready = true ∧ s.sys.readyAt + 10 ^ 10 ≤ s.time.ns) ∧ up.time.ns < up.sys.readyAt + 10 ^ 10 ∧ held.sys.ready = false := by
  decide +kernel
/-- R548: 3,600 s of holdover raise event 0x64. -/
theorem test_holdover : (after .ppsLossHoldover (timed fun t => { t with ns := 6500000000 }) (fun t => t.time.state),
    after .holdoverAlarm (holding 3600000000000) (fun t => (t.time.alarm, t.rings.events.map fun e => (e.code, e.arg)))) =
    (some 3, some (true, [(0x64, 3600)])) := by decide +kernel
/-- R551: an alarm whose time has passed fires at once and is late. -/
theorem test_alarm : after (.epochAlarmWrite 2 50) (alarmed false) (fun t => ((t.alarm 2).fired, (t.alarm 2).late, (t.alarm 2).armed, (t.seat ⟨1, 0⟩).pend))
    = some (true, true, false, 0x10) := by decide +kernel
theorem test_pps_out : after .ppsOutPulse (timed fun t => { t with set := true }) (fun t => t.time.ppsOut) = some true := by decide +kernel

def pacing (f : Power → Power) : State := up.updPower fun p => f { p with changing := true, tCoreW := 620, tSramW := 700, tCoreE := 620, tSramE := 700 }
def paced2 : State := (expertAt 0 up).updPower fun p => { p with paceCmd := some (660, 640) }

theorem test_meets_PaceAndLimits : running.quiescent = false ∧ running.power.changing = false ∧ up.quiescent = true ∧ up.power.tdp = false ∧
    up.power.hot = false ∧ up.expert 0 = false ∧ up.power.trimW = 0 ∧ up.power.trimE = 0 ∧ paced2.expert 0 = true ∧ paced2.power.paceCmd = some (660, 640) ∧
    paced2.consist.floorMv = some 700 ∧ (pacing id).power.changing = true ∧ ¬((pacing id).power.coreW ≤ (pacing id).power.tCoreW + 5) ∧
    (pacing fun p => { p with coreW := 625, coreE := 620, sramW := 700, sramE := 705 }).power.coreW ≤ 620 + 5 ∧
    (2201 : Half).toNat > 2200 ∧ (841 : BitVec 16).toInt > 840 ∧ (3 ∈ coachesOf up true ∨ 3 ∈ coachesOf up false) := by decide +kernel
/-- R48: the rails start towards the targets of pace 0 in steps of 5 mV. -/
theorem test_pace : after .paceChange (up.updMgmt fun m => { m with cur := { m.cur with pace := 0 } })
    (fun t => (t.power.changing, t.power.tCoreW, t.power.tSramW, t.power.coreW, t.power.sramE)) = some (true, 620, 700, 695, 745) := by decide +kernel
theorem test_pace_complete : after .paceChangeComplete (pacing fun p => { p with coreW := 625, coreE := 620, sramW := 700, sramE := 705 })
    (fun t => (t.power.changing, t.power.coreW, t.power.sramE)) = some (false, 625, 705) := by decide +kernel
/-- R49: above 2,200 W the hotter half gives 5 mV. -/
theorem test_tdp : after (.tdpLimit 2201 800 700) up (fun t => (t.power.coreW, t.power.coreE, t.power.limited, t.rings.events.map fun e => e.code)) =
    some (695, 700, true, [0x13]) := by decide +kernel

/-- Four steps with a rise to 1,500 W at 5 ms. -/
def recurring : State := up.updPower fun p => { p with past := [[(50, 1500)], [(50, 1500)], [(50, 1500)], [(50, 1500)]], target := 10000, cnt := 45 }

theorem test_meets_Governor : up.power.past = [] ∧ recurring.power.past = [(50, 1500)] :: [[(50, 1500)], [(50, 1500)], [(50, 1500)]] ∧
    recurs recurring.power.past 50 = true ∧ recurring.power.cnt < 50 ∧
    recurring.power.target + slewRate recurring * (50 - recurring.power.cnt) ≤ 10 * 1500 + slewRate recurring ∧
    bit (0x1258 : Word).toNat 12 = true ∧ bit (0x0258 : Word).toNat 12 = false ∧ bits (0x1258 : Word).toNat 16 48 * 1000 ≤ up.time.ns ∧
    (up.updPower fun p => { p with rampEn := true, rampTime := 5 }).power.rampEn = true ∧ up.time.ns < 5 * 1000 := by decide +kernel
/-- R561: level 600 W at a time that has passed is the floor at once. -/
theorem test_ramp : after (.pwrRampWrite 0x1258) up floorNow = some 600 := by decide +kernel
theorem test_governor : after (.governorTick 1000) (up.updPower fun p => { p with target := 9999 }) (fun t => (t.power.target, t.power.throttle, t.power.fill)) =
    some (10000, false, false) := by decide +kernel

theorem test_meets_Coolant : up.power.draw < 500 ∧ (2005 : Nat) ≥ 500 ∧ (8 : Int) ≤ (39 * 8 : BitVec 16).toInt - (32 * 8 : BitVec 16).toInt ∧
    (up.updPower fun p => { p with tripAt := some 0 }).time.ns < 0 + 60 * 10 ^ 9 ∧ up.power.tripAt = none ∧ up.sys.leakTrip = false ∧
    (up.updSys fun y => { y with leakTrip := true }).sys.leakTrip = true := by decide +kernel
/-- R563: 2,005 W from 32 °C to 39 °C is 4.32 L/min; R565: it asks for duty 821. -/
theorem test_coolant : (after (.coolantSample 256 312) (up.updPower fun p => { p with draw := 2005 }) (fun t => t.power.flow),
    after .coolDemUpdate ((stepping id).updPower fun p => { p with means := [2005] }) (fun t => (t.power.predict, t.power.duty))) =
    (some 432, some (2005, 821)) := by decide +kernel

theorem test_meets_TripsAndFaults : (379 : Half).toNat < 380 ∧ 600 < (601 : Half).toNat ∧ 380 ≤ (380 : Half).toNat ∧ (600 : Half).toNat ≤ 600 ∧
    (919 : Half).toInt < 920 ∧ 920 ≤ (920 : Half).toInt ∧ (up.rings.events.filter fun e => e.code != 1).length < 256 ∧
    envBound up .inputVoltage 480 = none ∧ (envBound up .coolantFlow 0).isSome = true ∧ envNumber .coolantFlow ∉ up.power.envSet ∧
    envNumber .coolantFlow ∈ (up.updPower fun p => { p with envSet := [2] }).power.envSet ∧ 400 ≤ (400 : Half).toNat ∧ (580 : Half).toNat ≤ 580 := by
  decide +kernel
/-- R554: below 38.0 V the rails go off and event 0x63 carries the voltage. -/
theorem test_supply_trip : after (.supplyTrip 379) up (fun t => (t.sys.railCore, t.sys.tripped, t.halt.source, t.rings.events.map fun e => (e.code, e.arg))) =
    some (false, true, 4, [(0x63, 379)]) := by decide +kernel
theorem test_leak : after .leakDetect up (fun t => (t.power.duty, t.sys.leakTrip, t.rings.events.map fun e => e.code)) = some (41, true, [0x61]) := by
  decide +kernel
theorem test_env_clear : after (.environmentFaultClear .coolantFlow) (up.updPower fun p => { p with envFault := true, envSet := [2] })
    (fun t => (t.power.envFault, t.power.envSet)) = some (false, []) := by decide +kernel

-- management

/-- A GET request outside any session, one within session 5, and that session. -/
def getStatus : List Byte := request 3 0 0 []
def session5 : Session := ⟨5, .i3c, 0, [], [], [7], 9, 0, true⟩
def inSession (f : Mgmt → Mgmt) : State := up.updMgmt fun m => f { m with sessions := [session5] }

theorem test_meets_ManagementMessages : pathUp unpowered .i3c = false ∧ pathUp up .i3c = true ∧ Path.i3c ≠ .mailbox ∧ msgOk [1, 2] = false ∧
    thonarRestarts up = false ∧ thonarRestarts (up.updMgmt fun m => { m with priv := some (.firmware 1 none) }) = true ∧ mgmtCmd 0x13 = none ∧
    mgmtCmd 3 = some (false, 0, 0, []) ∧ mgmtCmd 0x10 = some (false, 36, 36, [1, 2, 3]) ∧ mgmtCmd 0x20 = some (true, 36, 36, [1, 2, 3]) := by decide +kernel
theorem test_meets_ManagementMessages_session : (∀ i ∈ [1, 2, 3], (List.replicate 36 (0 : Byte)).getD i 0 = 0) ∧ (1 ∈ [1, 2, 3] ∧ (List.replicate 36 (1 : Byte)).getD 1 0 ≠ 0) ∧
    sessionOf (inSession id) .i3c 5 = some session5 ∧ sessionOf (inSession id) .uart 5 = none ∧ 10 = (session5.seq + 1) % 2 ^ 32 ∧
    privBusy (inSession fun m => { m with priv := some .retrain }) 0x31 = true ∧ privBusy (inSession id) 0x31 = false ∧
    (hmac384 session5.ks (request 0x53 5 10 [])).length = 48 := by decide +kernel
/-- R569, R570: a request that passes its checks waits; a malformed one is answered with status 4. -/
theorem test_receive : (after (.mgmtMessageReceive .i3c getStatus) up (fun t => t.mgmt.inbox.length),
    after (.mgmtMessageReceive .i3c [1, 2]) up (fun t => t.outbox.length)) = (some 1, some 1) := by decide +kernel
/-- R575: the right MAC with the next SEQ is taken, and SEQ advances; the MAC of another key is not. -/
theorem test_session_mac : (after (.mgmtMessageReceive .i3c (request 0x53 5 10 [] ++ hmac384 [7] (request 0x53 5 10 []))) (inSession id)
      (fun t => (t.mgmt.inbox.length, t.mgmt.sessions.map fun x => x.seq)),
    after (.mgmtMessageReceive .i3c (request 0x53 5 10 [] ++ hmac384 [8] (request 0x53 5 10 []))) (inSession id)
      (fun t => (t.mgmt.inbox.length, t.mgmt.sessions.map fun x => x.seq))) = (some (1, [10]), some (0, [9])) := by decide +kernel

/-- The mailbox holds a request of n bytes. -/
def boxed (n st : Nat) : State := up.updMgmt fun m => { m with len := n, state := st, buf := [(0, 3)] }
def responding (ien : Bool) : State := up.updMgmt fun m => { m with resp := some [1, 2], ien := ien, vec := 5, state := 1 }

theorem test_meets_Mailbox : (up.updSys fun y => { y with cxlUp := false }).sys.cxlUp = false ∧ up.sys.cxlUp = true ∧ (boxed 16 1).mgmt.state ≠ 0 ∧
    (boxed 15 0).mgmt.state = 0 ∧ (boxed 15 0).mgmt.len < 16 ∧ 4096 < (boxed 4097 0).mgmt.len ∧ 16 ≤ (boxed 16 0).mgmt.len ∧ up.mgmt.resp = none ∧
    (responding true).mgmt.resp = some [1, 2] ∧ (responding true).rings.unmasked.getLsbD 5 = false ∧
    ((responding true).updRings fun h => { h with unmasked := 0x20 }).rings.unmasked.getLsbD (responding true).mgmt.vec = true ∧
    (responding false).mgmt.ien = false := by decide +kernel
theorem test_go : (after (.mgmtGo 0) (boxed 16 1) (fun t => t.mgmt.reject), after (.mgmtGo 0) (boxed 16 0) (fun t => (t.mgmt.state, t.mgmt.inbox.length)),
    after (.mgmtGo 0) (boxed 15 0) (fun t => t.mgmt.resp.isSome)) = (some true, some (1, 1), some true) := by decide +kernel
theorem test_response : after .mgmtResponseReady (responding true) (fun t => (t.mgmt.state, t.mgmt.done, t.mgmt.len, t.rings.pba)) = some (2, true, 2, 0x20) := by
  decide +kernel
theorem test_done_clear : after .mgmtDoneClear (boxed 16 2 |>.updMgmt fun m => { m with done := true }) (fun t => (t.mgmt.done, t.mgmt.state)) = some (false, 0) := by
  decide +kernel

/-- Each request waits on its path. -/
theorem test_meets_Serves : ∀ cmd ∈ [1, 2, 3, 4, 5, 6, 7, 0x10, 0x11, 0x12, 0x20, 0x21, 0x30, 0x31, 0x32, 0x33, 0x34, 0x40, 0x41, 0x42, 0x43, 0x50, 0x51, 0x52, 0x53, 0x54,
      0x55, 0x56], ∀ p ∈ [Path.i3c, .uart, .cxl, .mailbox], Oldest (asked p cmd [1]) p cmd ⟨p, cmd, 0, 0, [], 0⟩ [1] := by
  intro cmd h p hp
  have : ∀ cmd ∈ [1, 2, 3, 4, 5, 6, 7, 0x10, 0x11, 0x12, 0x20, 0x21, 0x30, 0x31, 0x32, 0x33, 0x34, 0x40, 0x41, 0x42, 0x43, 0x50, 0x51, 0x52, 0x53, 0x54,
      0x55, 0x56], ∀ p ∈ [Path.i3c, .uart, .cxl, .mailbox],
      ((asked p cmd [1]).mgmt.inbox.find? fun e => e.1.path = p && e.1.cmd = cmd) = some (⟨p, cmd, 0, 0, [], 0⟩, [1]) := by decide +kernel
  exact this cmd h p hp
theorem test_meets_StatusCommands : 7 < entryNat [8] 0 1 ∧ entryNat [7] 0 1 ≤ 7 ∧ 11 < entryNat [12] 0 1 ∧ 63 < entryNat [64] 0 1 ∧ entryNat [63] 0 1 ≤ 63 := by
  decide +kernel
/-- R572: a stack that is not there has status 4; STATUS answers 40 bytes. -/
theorem test_status_commands : (after (.mgmtMemStatus .i3c) (asked .i3c 5 [8]) (fun t => t.outbox), after (.mgmtStatusCmd .i3c) (asked .i3c 3 []) (fun t =>
    t.outbox.map fun o => match o with | .response _ b => b.length | _ => 0)) = (some [.response .i3c [5, 0, 4, 0, 0, 0, 0, 0, 0, 0, 0, 0, 0, 0, 0, 0]], some [56]) := by
  decide +kernel

def lockedPath : State := up.updMgmt fun m => { m with locked := [(.i3c, 5)] }
/-- A session is offered under a credential of zeros. -/
def offered : State := (asked .i3c 0x11 (leBytes 4 6 ++ hmac384 (zeros 32) (treq ++ [] ++ [] ++ leBytes 4 6))).updMgmt fun m =>
  { m with creds := [(1, some 0)], sessions := [⟨6, .i3c, 1, [], [], [1], 0, 0, false⟩] }

theorem test_meets_Sessions : (∃ l ∈ lockedPath.mgmt.locked, l.1 = Path.i3c ∧ lockedPath.time.ns < l.2) ∧ up.mgmt.locked = [] ∧ 3 < entryNat [4] 0 1 ∧
    entryNat [3] 0 1 ≤ 3 ∧ mget none up.mgmt.creds 3 = none ∧ (mget none up.mgmt.creds 0).isSome = true ∧
    (up.mgmt.sessions.filter fun x => x.isOpen).length < 8 ∧
    8 ≤ ((up.updMgmt fun m => { m with sessions := List.replicate 8 session5 }).mgmt.sessions.filter fun x => x.isOpen).length ∧
    (offered.mgmt.sessions.find? fun x => x.sid = 6 && x.path = .i3c && !x.isOpen) = some ⟨6, .i3c, 1, [], [], [1], 0, 0, false⟩ ∧
    mget none offered.mgmt.creds 1 = some 0 ∧ ([] : List (Path × Nat)).length + 1 < 5 ∧ [(Path.i3c, 0), (.i3c, 0), (.i3c, 0), (.i3c, 0)].length + 1 ≥ 5 := by
  refine ⟨⟨(.i3c, 5), by decide +kernel⟩, ?_⟩; decide +kernel
theorem test_meets_Sessions_proof : leBytes 32 (0 : BitVec 256).toNat = zeros 32 := by decide +kernel
/-- R577: the fifth failed proof within 60 s locks the path for 60 s. -/
theorem test_lockout : (failProof .i3c (up.updMgmt fun m => { m with fails := [(.i3c, 0), (.i3c, 0), (.i3c, 0), (.i3c, 0)] })).mgmt.locked = [(.i3c, 60000000000)] ∧
    (failProof .i3c (up.updMgmt fun m => { m with fails := [(.uart, 0), (.i3c, 0), (.i3c, 0), (.i3c, 0)] })).mgmt.locked = [] := by decide +kernel
/-- R574: the right proof opens the session. -/
theorem test_prove : after (.sessionProve .i3c) offered (fun t => t.mgmt.sessions.map fun x => x.isOpen) = some [true] := by decide +kernel
/-- R576: 900 s of idleness end a session. -/
theorem test_idle : (after (.sessionIdleTimeout 5) ((inSession id).updTime fun t => { t with ns := 900000000000 }) (fun t => t.mgmt.sessions.length),
    after (.sessionIdleTimeout 5) ((inSession id).updTime fun t => { t with ns := 899999999999 }) (fun t => t.mgmt.sessions.length)) = (some 0, some 1) := by
  decide +kernel

/-- A chunk of 4 bytes at 0 of 8. -/
def chunk : List Byte := leBytes 4 0 ++ leBytes 4 8 ++ leBytes 4 4 ++ [1, 2, 3, 4]
theorem test_meets_ConsistLoading : entryNat [5] 0 1 ≠ 4 ∧ entryNat [4] 0 1 = 4 ∧ chunk.length = 12 + entryNat chunk 8 4 ∧ entryNat chunk 4 4 ≠ 0 ∧
    entryNat chunk 4 4 ≤ 2 ^ 20 ∧ entryNat chunk 0 4 + entryNat chunk 8 4 ≤ entryNat chunk 4 4 ∧ (putChunk [] 0 (chunk.drop 12)).length < 8 ∧
    8 ≤ (putChunk (putChunk [] 0 [1, 2, 3, 4]) 4 [5, 6, 7, 8]).length ∧ up.mgmt.opKey = none ∧ (consistCheck up [1]).2 = none := by decide +kernel
/-- R589: a chunk that is not the last answers how much has come. -/
theorem test_load : after (.consistLoad .i3c) (asked .i3c 0x30 chunk) (fun t => (t.mgmt.stageLen, t.mgmt.stage.length)) = some (8, 4) := by decide +kernel
theorem test_unsigned : (consistCheck up [1, 2, 3]).1 = 13 := by decide +kernel

/-- A consist is staged, and another was current before. -/
def stagedConsist : State := up.updMgmt fun m => { m with staged := some { number := 7, rank := 0 }, prev := some { number := 3 } }
def changeDue : State := stagedConsist.updMgmt fun m => { m with change := some (0, 0) }

theorem test_meets_ConsistChanges : stagedConsist.mgmt.staged = some { number := 7, rank := 0 } ∧ stagedConsist.mgmt.prev = some { number := 3 } ∧ up.mgmt.staged = none ∧
    up.mgmt.prev = none ∧ stagedConsist.mgmt.change = none ∧ changeDue.mgmt.change = some (0, 0) ∧ changeDue.quiescent = true ∧ running.quiescent = false ∧
    entryNat [4] 0 8 ≠ 0 ∧ running.tender.run = true ∧ running.halt.state ≠ 2 ∧ entryNat [4] 0 8 ≤ running.tender.step ∧ ¬entryNat [5] 0 8 ≤ running.tender.step ∧
    (haltedAt running).halt.state = 2 ∧ entryNat [3] 0 8 < running.tender.step := by decide +kernel
/-- R449: the staged consist's group 1 has three members, and a collective of vote bits for the Tender names it. -/
def unvoted : State := (stagedConsist.updMgmt fun m => { m with staged := some { number := 7, rank := 0, groups := [(1, (0, [0, 1, 2]))] } }).updColl 2 fun k =>
  { k with cur := some ⟨((collDesc 1).set 1 3).set 6 4, none, [], [], true, false, false, 0, false⟩ }
theorem test_meets_ConsistChanges_vote : (∀ c, stagedConsist.mgmt.staged = some c → votesOk stagedConsist c = true) ∧
    (unvoted.mgmt.staged.map (votesOk unvoted)) = some false := by
  refine ⟨fun c h => ?_, by decide +kernel⟩
  cases (Option.some.inj h); decide +kernel
theorem test_apply_later : after (.consistApply .i3c) ((asked .i3c 0x31 (leBytes 8 5)).updMgmt (fun m => { m with staged := some { number := 7 } }) |>.updTender fun t =>
    { t with run := true, step := 4 }) (fun t => (t.mgmt.change, t.mgmt.priv)) = some (some (5, 0), some .consist) := by decide +kernel
theorem test_apply_none : after (.consistApply .i3c) (asked .i3c 0x31 (leBytes 8 0)) (fun t => t.outbox) =
    some [.response .i3c [0x31, 0, 5, 0, 0, 0, 0, 0, 0, 0, 0, 0, 0, 0, 0, 0]] := by decide +kernel

def onProbation (s : State) : State := s.updMgmt fun m => { m with probEnd := some 600000000000, prev := some { number := 3 } }
theorem test_meets_Probation : up.mgmt.probEnd = none ∧ (onProbation up).mgmt.probEnd = some 600000000000 ∧ (onProbation up).time.ns < 600000000000 ∧
    600000000000 ≤ ((onProbation up).updTime fun t => { t with ns := 600000000000 }).time.ns ∧ (onProbation up).mgmt.prev = some { number := 3 } ∧
    (onProbation running).tender.run = true ∧ (onProbation running).halt.state ≠ 2 ∧ (onProbation running).time.ns < (onProbation running).mgmt.lastCommit + 120 * 10 ^ 9 ∧
    (onProbation running).mgmt.lastCommit + 120 * 10 ^ 9 ≤ ((onProbation running).updTime fun t => { t with ns := 120000000000 }).time.ns := by decide +kernel
theorem test_confirm : after (.consistConfirm .i3c) (onProbation (asked .i3c 0x32 [])) (fun t => t.mgmt.probEnd) = some none := by decide +kernel
theorem test_probation_over : after .probationExpiry ((onProbation up).updTime fun t => { t with ns := 600000000000 }) (fun t => t.mgmt.probEnd) = some none := by
  decide +kernel

/-- The inactive slot of the Tender's image holds version 9. -/
def image (n : Nat) : Image := ⟨3, n, n, 0, 0⟩
def fwUp (s : State) : State := s.updMgmt fun m => { m with fw := [(3, { b := some (image 9), minSvn := 2 })] }
def activated (ask : Option Ticket) : State := (fwUp up).updMgmt fun m => { m with priv := some (.firmware 3 ask) }

theorem test_meets_Firmware : compOk 4 = false ∧ compOk 3 = true ∧ entryNat [3, 0] 0 2 = 3 ∧ entryNat (leBytes 4 3 ++ leBytes 4 0 ++ leBytes 4 8 ++ [1, 2]) 8 4 ≠ 0 ∧
    0 + [1, 2].length ≤ 8 ∧ (putChunk [] 0 [1, 2]).length < 8 ∧ ((up.fwOf 3).inactive = none) ∧ ((fwUp up).fwOf 3).inactive = some (image 9) ∧
    ((fwUp up).fwOf 3).minSvn ≤ (image 9).svn ∧ (image 1).svn < ((fwUp up).fwOf 3).minSvn ∧
    ((fwUp up).fwOf 3).active = some ⟨0, 0, 0, 0, 0⟩ ∧ (image 9).compat = 0 ∧ up.halt.state ≠ 2 ∧ (0xFE : BitVec 8) ∉ (up.updSys fun y => { y with posMap := [] }).sys.posMap ∧
    activating up 3 = none ∧ activating (activated none) (compCode .tender) = some none ∧
    activating (activated (some ⟨.i3c, 0x41, 5, 1, [7], 0⟩)) 3 = some (some ⟨.i3c, 0x41, 5, 1, [7], 0⟩) ∧
    (up.updMgmt fun m => { m with ucodeLeft := [4] }).mgmt.ucodeLeft ≠ [] := by decide +kernel
/-- R584: the component runs its other slot; a failed self-test returns and raises event 0x70. -/
theorem test_activation : (after (.fwActivationComplete .tender) (activated none) (fun t => ((t.fwOf 3).slotB, t.mgmt.priv)),
    after (.fwSelfTestRevert .tender) (activated none) (fun t => ((t.fwOf 3).slotB, t.rings.events.map fun e => (e.code, e.arg, e.extra)))) =
    (some (true, none), some (false, [(0x70, 3, 0)])) := by decide +kernel
/-- R585: a commit raises the minimum to the active image's version, and never lowers it. -/
theorem test_fw_commit : after (.fwCommit .i3c) (fwUp (asked .i3c 0x43 [3, 0])) (fun t => (t.fwOf 3).minSvn) = some 2 := by decide +kernel

theorem test_meets_Maintenance : 3 < entryNat [4, 0] 0 1 ∧ entryNat [3, 1] 0 1 ≤ 3 ∧ 1 < entryNat [3, 2] 1 1 ∧ entryNat [3, 1] 1 1 ≤ 1 ∧
    (lit (laserOf ((lighted .sharing .sharing).engine 0) .a) = true ∧ lit (laserOf ((lighted .sharing .sharing).engine 0) .b) = true) ∧
    lit (laserOf ((lighted .failed .alone).engine 0) .a) = false ∧ 7 < entryNat [8, 0] 0 1 ∧ 31 < entryNat [7, 32] 1 1 ∧ entryNat [7, 31] 0 1 ≤ 7 ∧
    upkeep.mem.retrain ≠ none ∧ up.mem.retrain = none ∧ entryNat [255, 255] 0 2 = 0xFFFF ∧ entryNat [0, 0] 0 2 ≠ 0xFFFF ∧ up.mgmt.priv = none ∧
    (up.updMgmt fun m => { m with priv := some (.calibrate 3 4 none) }).mgmt.priv = some (.calibrate 3 4 none) ∧ up.expert 0 = false ∧
    (expertAt 0 up).expert 0 = true ∧ (4 : Word32).toNat ∉ up.mgmt.flashBad ∧ up.mgmt.flashRo = false ∧ up.consist.partner = none ∧
    (4 : Word32).toNat ∈ (up.updMgmt fun m => { m with flashBad := [4] }).mgmt.flashBad := by decide +kernel
/-- R597: 5 mV for an error beyond 10 mV, up to 30 mV. -/
theorem test_trim : (trimStep 0 11, trimStep 0 10, trimStep (-30) 11, trimStep 25 (-11)) = ((-5, false), (0, false), (-30, true), (30, false)) := by decide
theorem test_laser_retire : after (.laserRetire .i3c) (asked .i3c 0x50 [0, 0] |>.updEngine 0 fun k => { k with a := .sharing, b := .sharing })
    (fun t => ((t.engine 0).a, (t.engine 0).b)) = some (.retired, .alone) := by decide +kernel
theorem test_retrain_cmd : after (.retrain .i3c) (asked .i3c 0x51 [0, 3]) (fun t => t.mem.retrain.map fun r => (r.stack, r.channel)) = some (some (0, 3)) := by
  decide +kernel
theorem test_calibration : after .sensorCalibrationComplete (up.updMgmt fun m => { m with priv := some (.calibrate 3 5 none) }) (fun t => (t.mgmt.sensor, t.mgmt.priv)) =
    some (some 4, some (.calibrate 4 5 none)) := by decide +kernel

theorem test_meets_TimeOfDayPath : 2 ≤ entryNat (leBytes 8 5 ++ [2]) 8 1 ∧ entryNat (leBytes 8 5 ++ [1]) 8 1 < 2 ∧ (timed id).consist.ppsIn = true ∧
    entryNat (leBytes 8 5 ++ [1]) 0 8 % 10 ^ 9 ≠ 0 ∧ up.consist.ppsIn = false ∧ up.time.tods = [] ∧ up.time.state = 0 ∧
    (up.updTime fun t => { t with state := 1, set := true, ns := 9 }).time.set = true ∧ (5 : Int) - 9 < 0 := by decide +kernel
theorem test_tod_path : after (.mgmtTimeOfDay .i3c) (asked .i3c 0x55 (leBytes 8 5000 ++ [0])) (fun t => (t.time.ns, t.time.state, t.outbox)) =
    some (5000, 1, [.response .i3c ([0x55, 0, 0, 0, 0, 0, 0, 0, 0, 0, 0, 0, 8, 0, 0, 0] ++ leBytes 8 5000)]) := by decide +kernel

-- coaches that Thonar moves, and the register spaces

/-- The map of a part whose spares are positions 4, 9, 14 and 19. -/
def spared (f : Sys → Sys) : State := up.updSys fun y => f { y with posMap := posMapOf [4, 9, 14, 19] }
/-- Coach 2 has stopped, and stopped n times before within the hour. -/
def stoppedCoach (n : Nat) : State := (spared id).updCoach 2 fun k => { k with stopped := some (1, 0x06, 0x33), stops := List.replicate n 0 }
def substituting : State := ((spared id).updMgmt fun m => { m with priv := some (.substitute 2 ⟨.i3c, 0x54, 0, 0, [], 0⟩) }).updMgmt fun m =>
  { m with ucodeLeft := [2], ucodeAt := none }

theorem test_meets_CoachSubstitution : spareFor (spared id) 3 = some 4 ∧ spareFor up 3 = spareFor State.reset 3 ∧ ((spared id).coach 2).stopped = none ∧
    ((stoppedCoach 0).coach 2).stopped = some (1, 0x06, 0x33) ∧ (recent (stoppedCoach 1).time.ns ((stoppedCoach 1).coach 2).stops).length < 2 ∧
    2 ≤ (recent (stoppedCoach 2).time.ns ((stoppedCoach 2).coach 2).stops).length ∧ (recent 0 ((stoppedCoach 1).coach 2).aFaults).length < 3 ∧
    (stoppedCoach 2).mgmt.probEnd = none ∧ tileInFlight (stoppedCoach 2) 2 = false ∧ (substituteAsk (spared id) 2).isSome = false ∧
    substituteAsk substituting 2 = some ⟨.i3c, 0x54, 0, 0, [], 0⟩ ∧ mapped substituting 2 = true ∧ tileInFlight substituting 2 = false ∧
    96 ≤ entryNat [96] 0 1 ∧ (2 : Fin 96).val = entryNat [2] 0 1 ∧ up.way.testDue = false ∧
    ((spared id).updWay fun w => { w with testDue := true }).way.testDue = true ∧ up.quiescent = true ∧ 2 ∈ substituting.mgmt.ucodeLeft ∧
    substituting.mgmt.ucodeAt ≠ some substituting.tender.step := by decide +kernel
/-- R101: a seat of the coach that has not drained holds a substitution back. -/
theorem test_meets_CoachSubstitution_drain : Machine.draining (substituting.updSeat ⟨2, 0⟩ fun q => { q with pend := 8 }) 2 = true := by decide +kernel
/-- R15, R343: a substitution that is due, and one that waits for a mover that writes to a tile of the coach. -/
def dueCoach : State := (stoppedCoach 0).updCoach 2 fun k => { k with subDue := true }
def tiling : State := dueCoach.updMover 3 fun k => { k with cur := some ⟨desc 1 0 0x18 0x10000000 2 0 1 0 128, none, 0, 128, false, none⟩ }
theorem test_meets_CoachSubstitution_due : ((dueCoach.coach 2).stopped).isSome = true ∧ (dueCoach.coach 2).subDue = true ∧ dueCoach.mgmt.probEnd = none ∧
    tileInFlight dueCoach 2 = false ∧ tileInFlight tiling 2 = true ∧ mapped dueCoach 2 = true ∧ Machine.draining dueCoach 2 = false ∧
    ((spared id).coach 2).subDue = false := by decide +kernel
/-- R101: the first stop reloads the coach in place and is reported; R15: the third moves it to the spare of its half. -/
theorem test_coach_stop : after (.coachResetReload 2) (stoppedCoach 0) (fun t => (posOf t 2, t.rings.events.map fun e => (e.code, e.arg, e.extra))) =
    some (2, [(0x10, 2 + 2 ^ 7 + 6 * 2 ^ 9, 0x33)]) := by decide +kernel
theorem test_coach_third_stop : after (.coachResetReload 2) (stoppedCoach 2) (fun t => (posOf t 2, t.sys.mapGen, t.rings.events.map fun e => e.code)) =
    some (4, 2, [0x10, 0x11]) := by decide +kernel

theorem test_meets_SetupRegisters : (up.updSys fun y => { y with cxlUp := false }).sys.cxlUp = false ∧ 65536 < (0xFFFF : BitVec 40).toNat + (2 : Fin 9).val ∧
    (0x101 : BitVec 40).toNat % (2 : Fin 9).val ≠ 0 ∧ (3 : Fin 9).val ∉ [1, 2, 4, 8] ∧ ((2 : Fin 9).val < 4 ∧ (0x188 : BitVec 40).toNat < 0x1000) ∧
    (0x4400 ≤ (0xE000 : BitVec 40).toNat ∧ (0xE000 : BitVec 40).toNat + (8 : Fin 9).val ≤ 0xF000) ∧ 0x1000 ≤ (0x1FFE : BitVec 40).toNat ∧
    (0x1FFE : BitVec 40).toNat + (2 : Fin 9).val ≤ 0x2000 ∧ (0x1FFE : BitVec 40).toNat % (2 : Fin 9).val = 0 ∧ up.mgmt.state = 0 ∧ (boxed 16 1).mgmt.state ≠ 0 ∧
    (0x3FE8 : BitVec 40).toNat = 0x2000 + 32 * (255 : RingNo).val + 8 ∧ (0x3FE0 : BitVec 40).toNat = 0x2000 + 32 * (255 : RingNo).val ∧
    (0x43FC : BitVec 40).toNat = 0x4000 + 16 * (63 : Fin 64).val + 12 := by decide +kernel
theorem test_ring_base : (after (.registerWrite .bar0 0x2060 8 0x123456) up (fun t => (t.pair 3).addr),
    after (.registerWrite .bar0 0x2060 8 0x123456) (ringed id) (fun t => ((t.pair 3).addr, (t.pair 3).err))) = (some 0x123, some (16, 5)) := by decide +kernel
theorem test_box_write : after (.registerWrite .bar0 0x1FFE 2 0xABCD) up (fun t => (mget 0 t.mgmt.buf 0xFFE, mget 0 t.mgmt.buf 0xFFF)) = some (0xCD, 0xAB) := by
  decide +kernel
/-- R561: a 4-byte write of PWR_RAMP is dropped. -/
theorem test_ramp_half : after (.registerWrite .bar0 0x180 4 0x1258) up (fun t => t.power.rampEn) = some false := by decide +kernel

theorem test_meets_Windows : windowEnd ≤ (0xFFFFFFFFFF : BitVec 40).toNat ∧ (8 : BitVec 40).toNat < 4096 ∧ (4096 : BitVec 40).toNat < 0x200000 ∧
    (0x200FF0 : BitVec 40).toNat = 0x200100 + 16 * (239 : Fin 240).val ∧ (0x4007CC : BitVec 40).toNat = 0x400000 + 64 * (31 : MoverNo).val + 0xC ∧
    (0x6001EC : BitVec 40).toNat = 0x600000 + 32 * (15 : QueueNo).val + 0xC ∧ (0x8007E0 : BitVec 40).toNat = 0x800000 + 32 * (63 : Fin 64).val ∧
    (0x810FF0 : BitVec 40).toNat = 0x801000 + 16 * (4095 : BitVec 12).toNat ∧ (0x810FF4 : BitVec 40).toNat = 0x801000 + 16 * (4095 : BitVec 12).toNat + 4 ∧
    up.rings.latched = [] ∧ ((up.updRings fun h => { h with latched := [(1, .timeNow, 5)] }).rings.latched.filter fun e => e.1 = (1 : Byte).toNat && e.2.1 = .timeNow) =
      [((1 : Byte).toNat, .timeNow, 5)] := by decide +kernel
theorem test_window_semaphore : after (.registerWrite .window 0x801070 8 0x0000000900000008) up (fun t => ((t.sem 7).value, (t.sem 7).arm)) = some (8, 9) := by
  decide +kernel
/-- R600: the low half latches the high half for the same requester. -/
theorem test_latch : after (.halfReadLatch 1 .timeNow false) (up.updTime fun t => { t with ns := 5 * 2 ^ 32 + 6 }) (fun t => (t.outbox, t.rings.latched)) =
    some ([.data [6, 0, 0, 0] false], [(1, .timeNow, 5)]) := by decide +kernel
theorem test_geometry_write : after (.registerWrite .window 8 4 1) up (fun t => t.sys.geomWr.val) = some 1 := by decide +kernel

-- the machine

/-- A queue of two commands. -/
def queueOf (cs : List Instr) : State := { up with pending := cs }

theorem test_meets_StepRunsFront : (queueOf [.ppsOutPulseEnd, .leakClear]).pending = .ppsOutPulseEnd :: [.leakClear] ∧ up.pending = [] ∧ up.time.c.num = 0 ∧
    0 < up.time.c.den ∧ up.time.c.num.natAbs ≤ 50000 * up.time.c.den := by decide +kernel
/-- R540: with no correction a tick is 10 ns. -/
theorem test_tick : (nextState (step up)).map (fun t => (t.time.ns, t.time.ticks)) = some (10, 1) := by decide +kernel
/-- R546: a correction of 50 ppm makes a tick 10.0005 ns. -/
theorem test_tick_fast : tickStep { up.time with c := ⟨50000, 1⟩ } = 42951820443 ∨ tickStep { up.time with c := ⟨50000, 1⟩ } = 42951820444 := by decide +kernel
theorem test_queue : (nextState (step (queueOf [.ppsOutPulseEnd, .leakClear]))).map (fun t => t.pending) = some [.leakClear] := by decide +kernel
theorem test_no_word : decodeTableWord 32 5 = none := rfl

theorem test_meets_EveryCommandGoesOn : wf .leakClear = true ∧ wf (.memoryRead 18000000000 none) = false := by decide
theorem test_meets_QueueRunsInOrder : wfAll (queueOf [.ppsOutPulseEnd, .leakClear]).pending = true := by decide +kernel
theorem test_meets_QueueRunsInOrder_step : (nextState (step up)).isSome = true := by decide +kernel
theorem test_meets_MemoriesStayCanonical : Canonical State.reset ∧ (nextState (step State.reset)).isSome = true := by
  refine ⟨⟨?_, ?_, ?_⟩, by decide +kernel⟩ <;> decide +kernel
theorem test_meets_MemoriesStayCanonical_listed : Canonical submitted := by refine ⟨?_, ?_, ?_⟩ <;> decide +kernel
theorem test_meets_EpochNeverSteps : (queueOf [.leakClear]).pending.head? ≠ some .powerOn ∧ up.time.ns + (tickStep up.time + up.time.frac) / 2 ^ 32 < 2 ^ 64 ∧
    (∀ p, Instr.leakClear ≠ .mgmtTimeOfDay p) ∧ (∀ r idx, Instr.leakClear ≠ .cmdTimeOfDay r idx) ∧ Instr.leakClear ≠ .powerOn ∧
    (nextState (exec .leakClear up)).isSome = true := by
  refine ⟨by decide, by decide +kernel, by intro p; simp, by intro r i; simp, by decide, by decide +kernel⟩
/-- R8: reset leaves what the register rules give. -/
theorem test_reset : (State.reset.sys.ready, State.reset.sys.active, State.reset.time.ns, (State.reset.chan 62).locArr) = (false, 96, 0, 1) := by decide +kernel

end Sys2Proof.Tests
end

section
/-! Exceptions: entry to the two pairs (R85, R86, R100), the coach stop (R101), and ERET (R98, R99). -/

namespace Sys2Proof.Machine

-- what keeps the stop of every coach as it is (R101)

/-- R101: what has stopped each coach: a seat, its cause, and whether by a drain timeout. -/
def stoppedBy (s : State) (c : Nat) : Option (Fin 4 × BitVec 6 × Nat) := (s.coach c).stopped

theorem stoppedBy_of_coaches {s t : State} (h : t.coaches = s.coaches) : stoppedBy t = stoppedBy s := by
  funext c
  simp [stoppedBy, State.coach, h]

theorem stoppedBy_updCoach (s : State) (c : Nat) (f : Coach → Coach) (h : ∀ k, (f k).stopped = k.stopped) :
    stoppedBy (s.updCoach c f) = stoppedBy s := by
  funext d
  unfold stoppedBy
  rw [updCoach_coach]
  split <;> simp_all

@[simp] theorem stoppedBy_updSeat (s : State) (r : SeatRef) (f : Seat → Seat) : stoppedBy (s.updSeat r f) = stoppedBy s :=
  stoppedBy_updCoach s _ _ fun _ => rfl

@[simp] theorem stoppedBy_pendInt (s : State) (r : SeatRef) (k d : Nat) : stoppedBy (s.pendInt r k d) = stoppedBy s := by
  unfold State.pendInt
  split
  · rfl
  · dsimp only
    split
    · refine (stoppedBy_updCoach _ _ _ ?_).trans (stoppedBy_updSeat s r _)
      exact fun _ => rfl
    · rw [stoppedBy_updSeat]

-- codewords and lines of module memory belong to no coach

theorem bump_coaches (s : State) (r : StatRef) (k : Nat) (h : ∀ v, (statSet r v s).coaches = s.coaches) :
    (s.bump r k).coaches = s.coaches := by
  unfold State.bump
  dsimp only
  split
  · rw [overflowed_coaches, h]
  · exact h _

@[simp] theorem bump_stack_coaches (s : State) (st : Stack) (b : Fin 6) (k : Nat) : (s.bump (.stack st b) k).coaches = s.coaches :=
  bump_coaches s _ k fun _ => rfl

@[simp] theorem bump_pseudoChannel_coaches (s : State) (pc : Fin 512) (b : Fin 2) (k : Nat) :
    (s.bump (.pseudoChannel pc b) k).coaches = s.coaches := bump_coaches s _ k fun _ => rfl

@[simp] theorem bump_llcSlice_coaches (s : State) (x : Fin 64) (b : Fin 5) (k : Nat) :
    (s.bump (.llcSlice x b) k).coaches = s.coaches := bump_coaches s _ k fun _ => rfl

@[simp] theorem storeCw_coaches (s : State) (cw : Nat) (d : BitVec 256) (rel : BitVec 32) : (storeCw s cw d rel).coaches = s.coaches := rfl

@[simp] theorem drainPc_coaches (s : State) (pc keep : Nat) : (drainPc s pc keep).coaches = s.coaches := by
  unfold drainPc
  dsimp only
  rw [updMem_coaches]
  exact foldl_proj State.coaches _ (fun t _ => storeCw_coaches t _ _ _) _ s

@[simp] theorem pageWritten_coaches (s : State) (cw : Nat) : (pageWritten s cw).coaches = s.coaches := by
  unfold pageWritten
  dsimp only
  repeat' split
  all_goals rfl

@[simp] theorem memWriteCw_coaches (s : State) (cw : Nat) (d : BitVec 256) (rel : BitVec 32) :
    (memWriteCw s cw d rel).coaches = s.coaches := by
  unfold memWriteCw
  split
  · rfl
  · dsimp only
    rw [pageWritten_coaches, updMem_coaches]
    split
    · exact drainPc_coaches s _ _
    · rfl

@[simp] theorem memWriteSeg_coaches (s : State) (cw : Nat) (g : Seg) : (memWriteSeg s cw g).coaches = s.coaches :=
  memWriteCw_coaches s cw _ _

@[simp] theorem recomputeHit_coaches (s : State) (page : Nat) : (recomputeHit s page).2.coaches = s.coaches := by
  unfold recomputeHit
  dsimp only
  split
  · rfl
  · refine (foldl_proj State.coaches _ ?_ _ _).trans ((foldl_proj State.coaches _ ?_ _ _).trans (foldl_proj State.coaches _ ?_ _ _))
    all_goals
      intro t i
      split <;> simp

@[simp] theorem rowError_coaches (s : State) (cw : Nat) (now : Bool) : (rowError s cw now).coaches = s.coaches := by
  unfold rowError
  dsimp only
  split <;> rfl

@[simp] theorem stateError_coaches (s : State) (cw : Nat) : (stateError s cw).coaches = s.coaches := by
  unfold stateError
  dsimp only
  split <;> simp

@[simp] theorem memReadCw_coaches (s : State) (cw : Nat) : (memReadCw s cw).2.coaches = s.coaches := by
  unfold memReadCw
  dsimp only
  repeat' split
  all_goals simp

@[simp] theorem memReadLine_coaches (s : State) (line : Nat) : (memReadLine s line).2.coaches = s.coaches := by
  unfold memReadLine
  exact foldl_proj (fun p : List Seg × State => p.2.coaches) _ (fun p i => memReadCw_coaches p.2 _) _ ([], s)

@[simp] theorem putLine_coaches (s : State) (line : Nat) (l : Option LLine) : (putLine s line l).coaches = s.coaches := rfl

@[simp] theorem touch_coaches (s : State) (line : Nat) : (touch s line).coaches = s.coaches := by
  unfold touch
  split <;> rfl

@[simp] theorem writeBack_coaches (s : State) (line : Nat) (l : LLine) : (writeBack s line l).coaches = s.coaches :=
  foldl_proj State.coaches _ (fun t _ => memWriteSeg_coaches t _ _) _ s

@[simp] theorem allocLine_coaches (s : State) (line : Nat) (d : BitVec 1024) (p dd : BitVec 4) (dirty : Bool) :
    (allocLine s line d p dd dirty).coaches = s.coaches := by
  unfold allocLine
  dsimp only
  repeat' split
  all_goals simp

-- an add that meets poison is reported to its seat (R287), which stops no coach

@[simp] theorem stoppedBy_addLost (s : State) (a : LaddReq) : stoppedBy (addLost s a) = stoppedBy s :=
  (stoppedBy_pendInt _ _ _ _).trans (stoppedBy_of_coaches (bump_llcSlice_coaches s _ _ _))

@[simp] theorem stoppedBy_memReadCw (s : State) (cw : Nat) : stoppedBy (memReadCw s cw).2 = stoppedBy s :=
  stoppedBy_of_coaches (memReadCw_coaches s cw)

@[simp] theorem stoppedBy_memWriteSeg (s : State) (cw : Nat) (g : Seg) : stoppedBy (memWriteSeg s cw g) = stoppedBy s :=
  stoppedBy_of_coaches (memWriteSeg_coaches s cw g)

@[simp] theorem stoppedBy_nearAdd (s : State) (a : LaddReq) : stoppedBy (nearAdd s a) = stoppedBy s := by
  unfold nearAdd
  dsimp only
  split <;> simp

@[simp] theorem stoppedBy_narrowApply (s : State) (r : NReq) : stoppedBy (narrowApply s r) = stoppedBy s := by
  unfold narrowApply
  dsimp only
  split
  · simp
  · split <;> simp

@[simp] theorem stoppedBy_settleAdds (s : State) (p : Nat → Bool) : stoppedBy (settleAdds s p) = stoppedBy s :=
  (foldl_proj stoppedBy _ stoppedBy_nearAdd _ _).trans (stoppedBy_of_coaches rfl)

@[simp] theorem stoppedBy_settleCws (s : State) (stack : Nat) (p : Nat → Bool) : stoppedBy (settleCws s stack p) = stoppedBy s := by
  unfold settleCws
  exact (foldl_proj stoppedBy _ stoppedBy_narrowApply _ _).trans ((stoppedBy_of_coaches rfl).trans (stoppedBy_settleAdds s p))

@[simp] theorem stoppedBy_settle (s : State) (line : Nat) : stoppedBy (settle s line) = stoppedBy s := stoppedBy_settleCws s _ _

@[simp] theorem stoppedBy_memReadLine (s : State) (line : Nat) : stoppedBy (memReadLine s line).2 = stoppedBy s :=
  stoppedBy_of_coaches (memReadLine_coaches s line)

@[simp] theorem stoppedBy_touch (s : State) (line : Nat) : stoppedBy (touch s line) = stoppedBy s := stoppedBy_of_coaches (touch_coaches s line)

@[simp] theorem stoppedBy_putLine (s : State) (line : Nat) (l : Option LLine) : stoppedBy (putLine s line l) = stoppedBy s :=
  stoppedBy_of_coaches rfl

@[simp] theorem stoppedBy_writeBack (s : State) (line : Nat) (l : LLine) : stoppedBy (writeBack s line l) = stoppedBy s :=
  stoppedBy_of_coaches (writeBack_coaches s line l)

@[simp] theorem stoppedBy_allocLine (s : State) (line : Nat) (d : BitVec 1024) (p dd : BitVec 4) (dirty : Bool) :
    stoppedBy (allocLine s line d p dd dirty) = stoppedBy s := stoppedBy_of_coaches (allocLine_coaches s line d p dd dirty)

@[simp] theorem stoppedBy_llcRead (s : State) (line : Nat) (alloc : Bool) : stoppedBy (llcRead s line alloc).2 = stoppedBy s := by
  unfold llcRead
  split
  · simp
  · dsimp only
    split <;> simp

@[simp] theorem stoppedBy_llcWriteAs (whole : BitVec 4) (s : State) (line m d : Nat) (poison : BitVec 4) (alloc : Bool) :
    stoppedBy (llcWriteAs whole s line m d poison alloc) = stoppedBy s := by
  unfold llcWriteAs
  split
  · simp
  · dsimp only
    split
    · simp
    · refine (foldl_proj stoppedBy _ ?_ _ _).trans (stoppedBy_settle s line)
      intro t i
      repeat' split
      all_goals simp

@[simp] theorem stoppedBy_llcPut (s : State) (line : Nat) (d : BitVec 1024) (p dd : BitVec 4) :
    stoppedBy (llcPut s line d p dd) = stoppedBy s := by
  unfold llcPut
  split
  · simp
  · dsimp only
    split <;> simp

-- emptying a coach's caches (R81, R101) writes lines, and stops no coach

@[simp] theorem stoppedBy_backLine (s : State) (l : CLine) : stoppedBy (backLine s l) = stoppedBy s := by
  unfold backLine
  split
  · rfl
  · split
    · exact stoppedBy_of_coaches rfl
    · simp

@[simp] theorem stoppedBy_fetchLine (s : State) (tag : Nat) (host alloc : Bool) : stoppedBy (fetchLine s tag host alloc).2 = stoppedBy s := by
  unfold fetchLine
  split <;> simp

@[simp] theorem stoppedBy_toVictim (c : Nat) (l : CLine) (s : State) : stoppedBy (toVictim c l s) = stoppedBy s := by
  unfold toVictim
  dsimp only
  split
  · exact (stoppedBy_backLine _ _).trans (stoppedBy_updCoach s c _ fun _ => rfl)
  · exact stoppedBy_updCoach s c _ fun _ => rfl

@[simp] theorem stoppedBy_insertL1 (c : Nat) (l : CLine) (s : State) : stoppedBy (insertL1 c l s) = stoppedBy s := by
  unfold insertL1
  dsimp only
  split
  · exact (stoppedBy_toVictim _ _ _).trans (stoppedBy_updCoach s c _ fun _ => rfl)
  · exact stoppedBy_updCoach s c _ fun _ => rfl

@[simp] theorem stoppedBy_completeFill (c : Nat) (e : MEntry) (s : State) : stoppedBy (completeFill c e s) = stoppedBy s := by
  unfold completeFill
  exact (stoppedBy_insertL1 _ _ _).trans ((stoppedBy_fetchLine _ _ _ _).trans (stoppedBy_updCoach s c _ fun _ => rfl))

@[simp] theorem stoppedBy_fillAll (c : Nat) (s : State) : stoppedBy (fillAll c s) = stoppedBy s :=
  foldl_proj stoppedBy _ (fun t e => stoppedBy_completeFill c e t) _ s

@[simp] theorem stoppedBy_drainEntry (c : Nat) (e : MEntry) (s : State) : stoppedBy (drainEntry c e s) = stoppedBy s := by
  unfold drainEntry
  dsimp only
  split
  · refine (foldl_proj stoppedBy _ ?_ _ _).trans ?_
    · intro t i
      split <;> simp
    · split
      · exact stoppedBy_of_coaches rfl
      · simp
  · split
    · exact stoppedBy_of_coaches rfl
    · simp

@[simp] theorem stoppedBy_drainFirst (c n : Nat) (s : State) : stoppedBy (drainFirst c n s) = stoppedBy s :=
  (foldl_proj stoppedBy _ (fun t e => stoppedBy_drainEntry c e t) _ _).trans (stoppedBy_updCoach s c _ fun _ => rfl)

@[simp] theorem stoppedBy_drainAll (c : Nat) (s : State) : stoppedBy (drainAll c s) = stoppedBy s := stoppedBy_drainFirst c _ s

@[simp] theorem stoppedBy_flushCopies (c : Nat) (s : State) : stoppedBy (flushCopies c s) = stoppedBy s :=
  (foldl_proj stoppedBy _ stoppedBy_backLine _ _).trans (stoppedBy_updCoach s c _ fun _ => rfl)

@[simp] theorem stoppedBy_flushCoach (c : Nat) (s : State) : stoppedBy (flushCoach c s) = stoppedBy s := by
  unfold flushCoach
  simp

-- what an entry writes, field by field (R85, R100), and what it leaves (R86)

section Fields

variable (q : Seat) (cause prog detail : Nat)

@[simp] theorem enterFirst_level : (enterFirst q cause prog detail).level = if q.level = .m then .m else .s := rfl
@[simp] theorem enterFirst_pc : (enterFirst q cause prog detail).pc = q.vbase + BitVec.ofNat 64 (16 * cause) := rfl
@[simp] theorem enterFirst_mask : (enterFirst q cause prog detail).mask = true := rfl
@[simp] theorem enterFirst_epc : (enterFirst q cause prog detail).epc = q.pc := rfl
@[simp] theorem enterFirst_estat : (enterFirst q cause prog detail).estat = entryStat q cause prog detail := rfl
@[simp] theorem enterFirst_epc2 : (enterFirst q cause prog detail).epc2 = q.epc2 := rfl
@[simp] theorem enterFirst_estat2 : (enterFirst q cause prog detail).estat2 = q.estat2 := rfl

@[simp] theorem enterSecond_level : (enterSecond q cause prog detail).level = if q.level = .m then .m else .s := by
  simp only [enterSecond, toHandler]
@[simp] theorem enterSecond_pc : (enterSecond q cause prog detail).pc = q.vbase + BitVec.ofNat 64 0x400 := by
  simp only [enterSecond, toHandler]
@[simp] theorem enterSecond_mask : (enterSecond q cause prog detail).mask = q.mask := by
  simp only [enterSecond, toHandler]
@[simp] theorem enterSecond_epc : (enterSecond q cause prog detail).epc = q.epc := by
  simp only [enterSecond, toHandler]
@[simp] theorem enterSecond_estat : (enterSecond q cause prog detail).estat = q.estat := by
  simp only [enterSecond, toHandler]
@[simp] theorem enterSecond_epc2 : (enterSecond q cause prog detail).epc2 = q.pc := by
  simp only [enterSecond, toHandler]
@[simp] theorem enterSecond_estat2 : (enterSecond q cause prog detail).estat2 = entryStat q cause prog detail := by
  simp only [enterSecond, toHandler]

end Fields

/-- R86: from one state of a seat to another, no field has changed but those that an entry writes. -/
def OnlyEntry (q e : Seat) : Prop :=
  e = { q with epc := e.epc, estat := e.estat, epc2 := e.epc2, estat2 := e.estat2, mask := e.mask, level := e.level, pc := e.pc
               resume := 0, wait := .none }

theorem onlyEntry_enterFirst (q : Seat) (cause prog detail : Nat) : OnlyEntry q (enterFirst q cause prog detail) := rfl

theorem onlyEntry_enterSecond (q : Seat) (cause prog detail : Nat) : OnlyEntry q (enterSecond q cause prog detail) := by
  unfold OnlyEntry enterSecond toHandler
  dsimp only

/-- R85, R100: entry to the first pair, or to the second while the first is in use. -/
def enterFree (q : Seat) (cause prog detail : Nat) : Seat :=
  if q.estat.ex then enterSecond q cause prog detail else enterFirst q cause prog detail

theorem enterFree_first {q : Seat} (cause prog detail : Nat) (h : q.estat.ex = false) :
    enterFree q cause prog detail = enterFirst q cause prog detail := by
  simp [enterFree, h]

theorem enterFree_second {q : Seat} (cause prog detail : Nat) (h : q.estat.ex = true) :
    enterFree q cause prog detail = enterSecond q cause prog detail := by
  simp [enterFree, h]

theorem enterFree_level (q : Seat) (cause prog detail : Nat) :
    (enterFree q cause prog detail).level = if q.level = .m then .m else .s := by
  unfold enterFree
  split
  · exact enterSecond_level q cause prog detail
  · exact enterFirst_level q cause prog detail

theorem onlyEntry_enterFree (q : Seat) (cause prog detail : Nat) : OnlyEntry q (enterFree q cause prog detail) := by
  unfold enterFree
  split
  · exact onlyEntry_enterSecond q cause prog detail
  · exact onlyEntry_enterFirst q cause prog detail

-- a synchronous exception (R85, R100, R101)

theorem onlySeat_raiseSync {s : State} {r : SeatRef} (cause detail prog : Nat) (h : (s.seat r).estat2.ex = false) :
    OnlySeat s (raiseSync r cause detail prog s) r (enterFree (s.seat r) cause prog detail) := by
  simp only [raiseSync, enterFree, h, Bool.false_eq_true, if_false]
  split <;> exact (onlySeat_updSeat _ _ _ _).2 rfl

theorem raiseSync_seat {s : State} {r : SeatRef} (cause detail prog : Nat) (h : (s.seat r).estat2.ex = false) :
    (raiseSync r cause detail prog s).seat r = enterFree (s.seat r) cause prog detail := by
  obtain ⟨-, -, hseat, -⟩ := onlySeat_raiseSync cause detail prog h
  exact hseat

theorem stopCoach_stopped (r : SeatRef) (cause extra : Nat) (s : State) :
    ((stopCoach r cause extra s).coach r.coach).stopped = some (r.seat, BitVec.ofNat 6 cause, extra) := by
  change stoppedBy (flushCoach _ _) _ = _
  rw [stoppedBy_flushCoach, stoppedBy, updCoach_coach_same]

/-- A synchronous exception of no progress is what `Traps` says, into either pair or with the coach stop. -/
theorem traps_raiseSync (r : SeatRef) (cause detail : Nat) (s : State) : Traps s (raiseSync r cause detail 0 s) r cause detail := by
  refine ⟨fun h2 h1 => ?_, fun h2 h1 => ?_, fun h2 => ?_⟩
  · rw [← enterFree_first _ _ _ h1]
    exact onlySeat_raiseSync cause detail 0 h2
  · rw [← enterFree_second _ _ _ h1]
    exact onlySeat_raiseSync cause detail 0 h2
  · simp only [raiseSync, h2, if_true, stopCoach_stopped]

/-- R84, R100: an exception in progress holds interrupts back. -/
theorem takeable_of_ex {s : State} {r : SeatRef} (h : (s.seat r).estat.ex = true) : takeable s r = false := by
  simp [takeable, due, h]

/-- Settles O4: in either pair only the seat changes, and its new state is the one that the pair's entry builds from the old. -/
theorem exceptionEntry : Obligations.ExceptionEntry := by
  unfold Obligations.ExceptionEntry
  refine ⟨?_, ?_, fun s r => takeable_of_ex⟩
  · intro s r cause detail prog hc hp hd
    dsimp only
    refine ⟨fun h2 => ?_, fun h2 h1 => ?_, fun h2 h1 => ?_⟩
    · obtain ⟨hframe, hcoach, hseat, hother⟩ := onlySeat_raiseSync cause detail prog h2
      rw [hseat]
      exact ⟨hframe, hcoach, hother, enterFree_level _ _ _ _, onlyEntry_enterFree _ _ _ _⟩
    · rw [raiseSync_seat _ _ _ h2, enterFree_first _ _ _ h1]
      simp [entryStat, hc, hp, hd]
    · rw [raiseSync_seat _ _ _ h2, enterFree_second _ _ _ h1]
      simp [entryStat, hc, hp, hd]
  · intro q x xp ssp cause prog detail
    rw [List.forall_mem_cons, List.forall_mem_singleton]
    exact ⟨rfl, rfl⟩

-- an instruction of a seat that may issue

theorem seatRun_of_mayIssue {s : State} {r : SeatRef} {i : Instr} (f : State → State) (h : mayIssue s r i = true) :
    seatRun r i f s = f s := by
  simp only [mayIssue, canIssue, Bool.and_eq_true] at h
  obtain ⟨⟨hb, hd⟩, hh⟩ := h
  simp [seatRun, hb, hd, hh]

@[simp] theorem checkedAt_nil (r : SeatRef) (prog : Nat) (f : State → State) (s : State) : checkedAt r prog [] f s = f s := rfl

/-- R646: the first check that fails raises its exception. -/
theorem checkedAt_cons (r : SeatRef) (prog : Nat) (bad : Bool) (cause detail : Nat) (cs : List (Bool × Nat × Nat))
    (f : State → State) (s : State) :
    checkedAt r prog ((bad, cause, detail) :: cs) f s = if bad then raiseSync r cause detail prog s else checkedAt r prog cs f s := by
  cases bad <;> simp [checkedAt]

/-- Two checks that raise the same exception and end the list act as one. -/
theorem checkedAt_pair (r : SeatRef) (prog : Nat) (a b : Bool) (cause detail : Nat) (f : State → State) (s : State) :
    checkedAt r prog [(a, cause, detail), (b, cause, detail)] f s = if a || b then raiseSync r cause detail prog s else f s := by
  rw [checkedAt_cons, checkedAt_cons, checkedAt_nil]
  cases a <;> rfl

-- ERET (R98, R99)

/-- R98: the status of the pair that ERET uses. -/
def pairInUse (q : Seat) : Estat := if q.estat2.ex then q.estat2 else q.estat

/-- R64, R99, R642: what makes an ERET illegal. -/
def EretIllegal (q : Seat) (w : SysWord) : Prop :=
  q.level = .u ∨ w.rd ≠ 0 ∨ w.rs1 ≠ 0 ∨ w.num ≠ 0 ∨ w.rsv ≠ 0 ∨ levelCode q.level < levelCode (pairInUse q).pl

/-- R98: the seat after an ERET. -/
def eretSeat (q : Seat) : Seat :=
  { q with
    pc := if q.estat2.ex then q.epc2 else q.epc
    level := (pairInUse q).pl, mask := (pairInUse q).pmask, resume := (pairInUse q).prog.toNat
    estat := if q.estat2.ex then q.estat else { q.estat with ex := false }
    estat2 := if q.estat2.ex then { q.estat2 with ex := false } else q.estat2 }

theorem eret_of_illegal {r : SeatRef} {w : SysWord} {s : State} (h : EretIllegal (s.seat r) w) : eret r w s = raiseSync r 0 0 0 s := by
  unfold EretIllegal pairInUse at h
  rw [eret, checked, checkedAt_pair]
  exact if_pos (by simpa [or_assoc] using h)

theorem eret_of_legal {r : SeatRef} {w : SysWord} {s : State} (h : ¬EretIllegal (s.seat r) w) : eret r w s = s.updSeat r eretSeat := by
  unfold EretIllegal pairInUse at h
  rw [eret, checked, checkedAt_pair]
  refine (if_neg (by simpa [or_assoc] using h)).trans (congrArg (s.updSeat r) (funext fun q => ?_))
  unfold eretSeat pairInUse
  split <;> rfl

theorem exec_eret_of_mayIssue {s : State} {r : SeatRef} {w : SysWord} (h : mayIssue s r (.eret r w) = true) :
    exec (.eret r w) s = .next (eret r w s) := congrArg Host.Outcome.next (seatRun_of_mayIssue (eret r w) h)

/-- Settles O5: a legal ERET rewrites its seat alone; an illegal one raises cause 0. -/
theorem exceptionReturn : Obligations.ExceptionReturn := by
  unfold Obligations.ExceptionReturn
  intro s sr w hi
  refine ⟨fun (h : ¬EretIllegal (s.seat sr) w) => ⟨_, exec_eret_of_mayIssue hi, ?_⟩,
    fun (h : EretIllegal (s.seat sr) w) => ⟨_, exec_eret_of_mayIssue hi, ?_⟩⟩
  · rw [eret_of_legal h]
    exact (onlySeat_updSeat s sr eretSeat _).2 rfl
  · rw [eret_of_illegal h]
    exact traps_raiseSync sr 0 0 s

end Sys2Proof.Machine
end

section
/-! The count of epoch time (R540), and how an operation keeps it. -/

namespace Sys2Proof.Machine

/-- R540: the epoch counter: its nanoseconds, and the fraction below them. -/
def clock (s : State) : Nat × Nat := (s.time.ns, s.time.frac)

theorem clock_of_reading {s t : State} (h : (t.time.ns, t.time.frac) = (s.time.ns, s.time.frac)) : clock t = clock s := h

theorem clock_of_time {s t : State} (h : t.time = s.time) : clock t = clock s := by rw [clock, clock, h]

@[simp] theorem clock_updTime (s : State) {f : Time → Time} (h : ∀ m, (f m).ns = m.ns ∧ (f m).frac = m.frac) :
    clock (s.updTime f) = clock s :=
  clock_of_reading (Prod.ext (h s.time).1 (h s.time).2)

-- branches and folds

@[simp] theorem clock_ite (p : Prop) [Decidable p] (s t : State) :
    clock (if p then s else t) = if p then clock s else clock t := apply_ite clock p s t

@[simp] theorem clock_snd_ite {α : Type} (p : Prop) [Decidable p] (x y : α × State) :
    clock (if p then x else y).2 = if p then clock x.2 else clock y.2 := apply_ite (fun q => clock q.2) p x y

@[simp] theorem clock_foldl {α : Type} (f : State → α → State) (h : ∀ s a, clock (f s a) = clock s) (l : List α) (s : State) :
    clock (l.foldl f s) = clock s := foldl_proj clock f h l s

@[simp] theorem clock_foldl_snd {α β : Type} (f : β × State → α → β × State) (h : ∀ p a, clock (f p a).2 = clock p.2) (l : List α)
    (p : β × State) : clock (l.foldl f p).2 = clock p.2 := foldl_proj (fun p => clock p.2) f h l p

theorem clock_foldl_fst {α β : Type} (f : State × β → α → State × β) (h : ∀ p a, clock (f p a).1 = clock p.1) (l : List α)
    (p : State × β) : clock (l.foldl f p).1 = clock p.1 := foldl_proj (fun p => clock p.1) f h l p

@[simp] theorem clock_foldr {α : Type} (f : α → State → State) (h : ∀ a s, clock (f a s) = clock s) (l : List α) (s : State) :
    clock (l.foldr f s) = clock s := by
  induction l with
  | nil => rfl
  | cons a l ih => rw [List.foldr_cons, h, ih]

-- the state that an operation answers beside a value

theorem clock_of_snd {α : Type} {p : α × State} {x : α} {s t : State} (h : p = (x, t)) (hp : clock p.2 = clock s) : clock t = clock s := by
  rwa [h] at hp

theorem clock_of_fst {α : Type} {p : State × α} {x : α} {s t : State} (h : p = (t, x)) (hp : clock p.1 = clock s) : clock t = clock s := by
  rwa [h] at hp

/-- What a command answers, when it leaves the count as it was: a state of the same count, or a fault. -/
inductive KeepsClock (s : State) : Result → Prop
  | next {t : State} (h : clock t = clock s) : KeepsClock s (.next t)
  | fault (f : Fault) : KeepsClock s (.fault f)

@[simp] theorem keepsClock_next (s t : State) : KeepsClock s (.next t) ↔ clock t = clock s := ⟨fun | .next h => h, .next⟩

@[simp] theorem keepsClock_fault (s : State) (f : Fault) : KeepsClock s (.fault f) := .fault f

end Sys2Proof.Machine
end

section
/-! What keeps the count of epoch time (R541): the named operations on the state, answers to the outside, and what of the time window is not
the count. -/

namespace Sys2Proof.Machine

@[simp] theorem clock_updCoach (s : State) (c : Nat) (f : Coach → Coach) : clock (s.updCoach c f) = clock s := clock_of_time rfl
@[simp] theorem clock_updSeat (s : State) (r : SeatRef) (f : Seat → Seat) : clock (s.updSeat r f) = clock s := clock_of_time rfl
@[simp] theorem clock_updMover (s : State) (m : Nat) (f : Mover → Mover) : clock (s.updMover m f) = clock s := clock_of_time rfl
@[simp] theorem clock_updEngine (s : State) (e : Nat) (f : Engine → Engine) : clock (s.updEngine e f) = clock s := clock_of_time rfl
@[simp] theorem clock_updPort (s : State) (p : Nat) (f : PortState → PortState) : clock (s.updPort p f) = clock s := clock_of_time rfl
@[simp] theorem clock_updFlow (s : State) (n : Nat) (f : Flow → Flow) : clock (s.updFlow n f) = clock s := clock_of_time rfl
@[simp] theorem clock_updColl (s : State) (q : Nat) (f : CollQ → CollQ) : clock (s.updColl q f) = clock s := clock_of_time rfl
@[simp] theorem clock_updChan (s : State) (c : Nat) (f : Channel → Channel) : clock (s.updChan c f) = clock s := clock_of_time rfl
@[simp] theorem clock_updSem (s : State) (n : Nat) (f : Sem → Sem) : clock (s.updSem n f) = clock s := clock_of_time rfl
@[simp] theorem clock_updSlot (s : State) (n : Nat) (f : Slot → Slot) : clock (s.updSlot n f) = clock s := clock_of_time rfl
@[simp] theorem clock_updAgree (s : State) (c : Nat) (f : Agree → Agree) : clock (s.updAgree c f) = clock s := clock_of_time rfl
@[simp] theorem clock_updStack (s : State) (k : Nat) (f : StackState → StackState) : clock (s.updStack k f) = clock s := clock_of_time rfl
@[simp] theorem clock_updPair (s : State) (r : Nat) (f : Pair → Pair) : clock (s.updPair r f) = clock s := clock_of_time rfl
@[simp] theorem clock_updFw (s : State) (k : Nat) (f : Fw → Fw) : clock (s.updFw k f) = clock s := clock_of_time rfl
@[simp] theorem clock_updAlarm (s : State) (a : Nat) (f : Alarm → Alarm) : clock (s.updAlarm a f) = clock s := clock_of_reading rfl
@[simp] theorem clock_updTender (s : State) (f : Tender → Tender) : clock (s.updTender f) = clock s := clock_of_time rfl
@[simp] theorem clock_updWay (s : State) (f : Waybill → Waybill) : clock (s.updWay f) = clock s := clock_of_time rfl
@[simp] theorem clock_updMem (s : State) (f : Mem → Mem) : clock (s.updMem f) = clock s := clock_of_time rfl
@[simp] theorem clock_updLlc (s : State) (f : Llc → Llc) : clock (s.updLlc f) = clock s := clock_of_time rfl
@[simp] theorem clock_updMgmt (s : State) (f : Mgmt → Mgmt) : clock (s.updMgmt f) = clock s := clock_of_time rfl
@[simp] theorem clock_updPower (s : State) (f : Power → Power) : clock (s.updPower f) = clock s := clock_of_time rfl
@[simp] theorem clock_updSys (s : State) (f : Sys → Sys) : clock (s.updSys f) = clock s := clock_of_time rfl
@[simp] theorem clock_updHalt (s : State) (f : Halt → Halt) : clock (s.updHalt f) = clock s := clock_of_time rfl
@[simp] theorem clock_updLedger (s : State) (f : Ledger → Ledger) : clock (s.updLedger f) = clock s := clock_of_time rfl
@[simp] theorem clock_updWatch (s : State) (f : Watch → Watch) : clock (s.updWatch f) = clock s := clock_of_time rfl
@[simp] theorem clock_updRings (s : State) (f : Rings → Rings) : clock (s.updRings f) = clock s := clock_of_time rfl
@[simp] theorem clock_send (s : State) (o : Out) : clock (s.send o) = clock s := clock_of_time rfl
@[simp] theorem clock_free (s : State) : clock s.free.2 = clock s := clock_of_time rfl
@[simp] theorem clock_raise (s : State) (code arg extra : Nat) : clock (s.raise code arg extra) = clock s := clock_of_time (raise_time ..)

/-- No counter is the time of day, though REJECTED stands beside it. -/
@[simp] theorem clock_statSet (r : StatRef) (v : Stat) (s : State) : clock (statSet r v s) = clock s := by
  cases r <;> rfl

@[simp] theorem clock_overflowed (s : State) (r : StatRef) : clock (s.overflowed r) = clock s := clock_of_time (overflowed_time ..)
@[simp] theorem clock_bump (s : State) (r : StatRef) (k : Nat) : clock (s.bump r k) = clock s := by simp [State.bump]

@[simp] theorem clock_pendInt (s : State) (r : SeatRef) (k detail : Nat) : clock (s.pendInt r k detail) = clock s :=
  clock_of_time (pendInt_time ..)

@[simp] theorem clock_notify (s : State) (n k detail : Nat) : clock (s.notify n k detail) = clock s := clock_of_time (notify_time ..)
@[simp] theorem clock_semSet (s : State) (n : Nat) (v : BitVec 32) : clock (s.semSet n v) = clock s := clock_of_time (semSet_time ..)
@[simp] theorem clock_semAdd (s : State) (n : Nat) (k : BitVec 32) : clock (s.semAdd n k) = clock s := by simp [State.semAdd]
@[simp] theorem clock_stopModule (s : State) (source : Nat) : clock (s.stopModule source) = clock s := clock_of_time (stopModule_time ..)
@[simp] theorem clock_enqueueFrame (s : State) (f : Frame) : clock (enqueueFrame s f) = clock s := clock_of_time rfl
@[simp] theorem clock_flitTo (s : State) (rs : List Nat) (w : Word) : clock (s.flitTo rs w) = clock s := clock_of_time (flitTo_time ..)
@[simp] theorem clock_spreadStop (s : State) (w : Word) : clock (s.spreadStop w) = clock s := clock_of_time (spreadStop_time ..)

@[simp] theorem clock_raiseStop (s : State) (source scope : Nat) : clock (s.raiseStop source scope) = clock s :=
  clock_of_time (raiseStop_time ..)

@[simp] theorem clock_envEvent (s : State) (quantity port found expected : Nat) :
    clock (s.envEvent quantity port found expected) = clock s := by simp [State.envEvent]

@[simp] theorem clock_ringDone (s : State) (r : Nat) (idx : BitVec 32) (status result : Nat) :
    clock (ringDone s r idx status result) = clock s := clock_of_time rfl

@[simp] theorem clock_msix (s : State) (vec : Nat) : clock (msix s vec) = clock s := clock_of_time (msix_time ..)

@[simp] theorem clock_respond (s : State) (t : Ticket) (status : Nat) (payload : List Byte) :
    clock (respond s t status payload) = clock s := clock_of_time (respond_time ..)

@[simp] theorem clock_respondOpt (s : State) (t : Option Ticket) (status : Nat) (payload : List Byte) :
    clock (respondOpt s t status payload) = clock s := by
  unfold respondOpt
  split <;> simp

@[simp] theorem clock_todAnswer (s : State) (d : TodSet) (status : Nat) (e : Int) : clock (todAnswer s d status e) = clock s := by
  unfold todAnswer
  split <;> simp

@[simp] theorem clock_alarmFire (s : State) (a : Nat) (late : Bool) : clock (alarmFire s a late) = clock s := by simp [alarmFire]
@[simp] theorem clock_alarmWrite (s : State) (a v : Nat) : clock (alarmWrite s a v) = clock s := by simp [alarmWrite]

end Sys2Proof.Machine
end

section
/-! What keeps the count of epoch time (R541): module memory, the adds of its slices, and its controllers (R274 to R325). -/

namespace Sys2Proof.Machine

@[simp] theorem clock_storeCw (s : State) (cw : Nat) (d : BitVec 256) (rel : BitVec 32) : clock (storeCw s cw d rel) = clock s :=
  clock_of_time rfl

@[simp] theorem clock_pageWritten (s : State) (cw : Nat) : clock (pageWritten s cw) = clock s := by
  unfold pageWritten
  dsimp only
  split <;> simp

@[simp] theorem clock_drainPc (s : State) (pc keep : Nat) : clock (drainPc s pc keep) = clock s := by simp [drainPc]

@[simp] theorem clock_memWriteCw (s : State) (cw : Nat) (d : BitVec 256) (rel : BitVec 32) : clock (memWriteCw s cw d rel) = clock s := by
  simp [memWriteCw]

@[simp] theorem clock_memWriteSeg (s : State) (cw : Nat) (g : Seg) : clock (memWriteSeg s cw g) = clock s := by simp [memWriteSeg]

@[simp] theorem clock_recomputeHit (s : State) (page : Nat) : clock (recomputeHit s page).2 = clock s := by
  unfold recomputeHit
  dsimp only
  split
  · rfl
  · rw [clock_foldl, clock_foldl, clock_foldl]
    all_goals
      intro t i
      split <;> simp

@[simp] theorem clock_rowError (s : State) (cw : Nat) (now : Bool) : clock (rowError s cw now) = clock s := by simp [rowError]
@[simp] theorem clock_stateError (s : State) (cw : Nat) : clock (stateError s cw) = clock s := by simp [stateError]

@[simp] theorem clock_memReadCw (s : State) (cw : Nat) : clock (memReadCw s cw).2 = clock s := by
  unfold memReadCw
  dsimp only
  repeat' split
  all_goals simp

@[simp] theorem clock_putLine (s : State) (line : Nat) (l : Option LLine) : clock (putLine s line l) = clock s := clock_of_time rfl
@[simp] theorem clock_writeBack (s : State) (line : Nat) (l : LLine) : clock (writeBack s line l) = clock s := by simp [writeBack]

@[simp] theorem clock_touch (s : State) (line : Nat) : clock (touch s line) = clock s := by
  unfold touch
  split <;> simp

@[simp] theorem clock_addLost (s : State) (a : LaddReq) : clock (addLost s a) = clock s := by simp [addLost]
@[simp] theorem clock_nearAdd (s : State) (a : LaddReq) : clock (nearAdd s a) = clock s := by simp [nearAdd]

@[simp] theorem clock_narrowApply (s : State) (r : NReq) : clock (narrowApply s r) = clock s := by
  unfold narrowApply
  split <;> simp

@[simp] theorem clock_settleAdds (s : State) (p : Nat → Bool) : clock (settleAdds s p) = clock s := by simp [settleAdds]
@[simp] theorem clock_settleCws (s : State) (stack : Nat) (p : Nat → Bool) : clock (settleCws s stack p) = clock s := by simp [settleCws]
@[simp] theorem clock_settle (s : State) (line : Nat) : clock (settle s line) = clock s := by simp [settle]
@[simp] theorem clock_memReadLine (s : State) (line : Nat) : clock (memReadLine s line).2 = clock s := by simp [memReadLine]

@[simp] theorem clock_allocLine (s : State) (line : Nat) (d : BitVec 1024) (p dd : BitVec 4) (dirty : Bool) :
    clock (allocLine s line d p dd dirty) = clock s := by
  unfold allocLine
  dsimp only
  repeat' split
  all_goals simp

@[simp] theorem clock_llcRead (s : State) (line : Nat) (alloc : Bool) : clock (llcRead s line alloc).2 = clock s := by
  unfold llcRead
  split <;> simp

@[simp] theorem clock_narrowPut (s : State) (r : NReq) : clock (narrowPut s r) = clock s := clock_of_time rfl

@[simp] theorem clock_narrowRead (s : State) (cw : Nat) : clock (narrowRead s cw).2 = clock s := by
  unfold narrowRead
  split <;> simp

@[simp] theorem clock_llcWriteAs (whole : BitVec 4) (s : State) (line m d : Nat) (poison : BitVec 4) (alloc : Bool) :
    clock (llcWriteAs whole s line m d poison alloc) = clock s := by
  unfold llcWriteAs
  split <;> simp

@[simp] theorem clock_llcWrite (s : State) (line m d : Nat) (poison : BitVec 4) (alloc : Bool) :
    clock (llcWrite s line m d poison alloc) = clock s := by simp [llcWrite]

@[simp] theorem clock_sysRead (s : State) (pa n : Nat) (alloc : Bool) : clock (sysRead s pa n alloc).2 = clock s := by simp [sysRead]

@[simp] theorem clock_sysWrite (s : State) (pa : Nat) (bs : List Byte) (poison alloc : Bool) :
    clock (sysWrite s pa bs poison alloc) = clock s := by simp [sysWrite]

@[simp] theorem clock_sysPut (s : State) (pa n v : Nat) : clock (sysPut s pa n v) = clock s := by simp [sysPut]
@[simp] theorem clock_forwardAdd (s : State) (a : LaddReq) : clock (forwardAdd s a) = clock s := by simp [forwardAdd]
@[simp] theorem clock_sendAdd (s : State) (a : LaddReq) : clock (sendAdd s a) = clock s := by simp [sendAdd]

@[simp] theorem clock_laddArrive (s : State) (a : LaddReq) : clock (laddArrive s a) = clock s := by
  unfold laddArrive
  dsimp only
  repeat' split
  all_goals simp

@[simp] theorem clock_pullHeld (s : State) (slice : Nat) : clock (pullHeld s slice) = clock s := by
  unfold pullHeld
  repeat' split
  all_goals simp

@[simp] theorem clock_applyToLine (s : State) (l : LLine) (a : LaddReq) : clock (applyToLine s l a) = clock s := by simp [applyToLine]

@[simp] theorem clock_applyAdd (s : State) (a : LaddReq) : clock (applyAdd s a) = clock s := by
  unfold applyAdd
  dsimp only
  repeat' split
  all_goals simp

@[simp] theorem clock_sliceStep (s : State) (slice : Nat) : clock (sliceStep s slice) = clock s := by
  unfold sliceStep
  split <;> simp

@[simp] theorem clock_issueNarrow (s : State) (stack : Nat) (r : NReq) : clock (issueNarrow s stack r) = clock s := by
  unfold issueNarrow
  split <;> simp

@[simp] theorem clock_nearStep (s : State) (stack : Nat) : clock (nearStep s stack) = clock s := by
  unfold nearStep
  split <;> simp

@[simp] theorem clock_upsetStored (s : State) (cw : Nat) (u : Option (Fin 36 × Byte)) : clock (upsetStored s cw u) = clock s := by
  unfold upsetStored
  split <;> simp

@[simp] theorem clock_raiseRange (s : State) (code n extra : Nat) : clock (raiseRange s code n extra) = clock s := by simp [raiseRange]
@[simp] theorem clock_retirePc (s : State) (pc : Nat) : clock (retirePc s pc) = clock s := by simp [retirePc]

@[simp] theorem clock_copyCw (s : State) (cw : Nat) : clock (copyCw s cw) = clock s := by
  unfold copyCw
  dsimp only
  repeat' split
  all_goals simp

@[simp] theorem clock_trainedNow (stack channel : Nat) (s : State) : clock (trainedNow stack channel s) = clock s := clock_of_time rfl

end Sys2Proof.Machine
end

section
/-! What keeps the count of epoch time (R541): the Cord, the numerics watch and the slot ledger (R225 to R249, R408 to R433, R469 to R474).
-/

namespace Sys2Proof.Machine

@[simp] theorem clock_sendUp (s : State) (ch phase kind : Nat) : clock (sendUp s ch phase kind) = clock s := by simp [sendUp]

@[simp] theorem clock_recordArrival (s : State) (ch phase rank : Nat) (flags : BitVec 4) :
    clock (recordArrival s ch phase rank flags) = clock s := clock_of_time rfl

@[simp] theorem clock_arrive (s : State) (ch : Nat) : clock (arrive s ch) = clock s := by simp [arrive]
@[simp] theorem clock_phaseDone (s : State) (ch : Nat) : clock (phaseDone s ch) = clock s := by simp [phaseDone]
@[simp] theorem clock_configWrite (s : State) (ch v : Nat) : clock (configWrite s ch v) = clock s := by simp [configWrite]

@[simp] theorem clock_armWrite (s : State) (n : Nat) (arm : BitVec 32) (value : Option (BitVec 32)) :
    clock (armWrite s n arm value) = clock s := by
  unfold armWrite
  split <;> simp

@[simp] theorem clock_schedule (s : State) (time : Nat) : clock (schedule s time) = clock s := by simp [schedule]
@[simp] theorem clock_haltFields (s : State) (v : Nat) : clock (haltFields s v) = clock s := clock_of_time rfl
@[simp] theorem clock_spreadSched (s : State) (scope time : Nat) : clock (spreadSched s scope time) = clock s := by simp [spreadSched]
@[simp] theorem clock_haltWrite (s : State) (v : Nat) : clock (haltWrite s v) = clock s := by simp [haltWrite]
@[simp] theorem clock_stopFrom (s : State) (scope origin : Nat) : clock (stopFrom s scope origin) = clock s := by simp [stopFrom]

@[simp] theorem clock_flitEffect (s : State) (fromParent : Bool) (w : Word) : clock (flitEffect s fromParent w) = clock s := by
  unfold flitEffect
  dsimp only
  split <;> simp

@[simp] theorem clock_watchCount (s : State) (k e z sat nf : Nat) : clock (watchCount s k e z sat nf) = clock s := by simp [watchCount]
@[simp] theorem clock_watchMax (s : State) (k code : Nat) : clock (watchMax s k code) = clock s := by simp [watchMax]
@[simp] theorem clock_contribute (s : State) (off size v : Nat) : clock (contribute s off size v) = clock s := by simp [contribute]
@[simp] theorem clock_lossEvaluate (s : State) : clock (lossEvaluate s) = clock s := clock_of_time rfl

@[simp] theorem clock_lossUpdate (s : State) (l : Nat) (spike : Bool) (d : Nat) : clock (lossUpdate s l spike d) = clock s := by
  simp [lossUpdate]

@[simp] theorem clock_lossEnd (s : State) (skipped : Bool) : clock (lossEnd s skipped) = clock s := by simp [lossEnd]
@[simp] theorem clock_postWatch (s : State) : clock (postWatch s) = clock s := by simp [postWatch]

@[simp] theorem clock_underflowRun (s : State) (k : Nat) (w : Slot) (skipped : Bool) : clock (underflowRun s k w skipped) = clock s := by
  simp [underflowRun]

@[simp] theorem clock_latchSlot (s : State) (k : Nat) (skipped : Bool) : clock (latchSlot s k skipped) = clock s := by simp [latchSlot]
@[simp] theorem clock_latchAgree (s : State) : clock (latchAgree s) = clock s := clock_of_time rfl
@[simp] theorem clock_latchWatch (s : State) (skipped : Bool) : clock (latchWatch s skipped) = clock s := by simp [latchWatch]
@[simp] theorem clock_ledgerConfig (s : State) (v : Nat) : clock (ledgerConfig s v) = clock s := by simp [ledgerConfig]

@[simp] theorem clock_ledgerReject (s : State) (j part : Nat) (folded : Bool) : clock (ledgerReject s j part folded) = clock s := by
  simp [ledgerReject]

@[simp] theorem clock_ledgerOpen (s : State) (v : Nat) : clock (ledgerOpen s v) = clock s := by
  unfold ledgerOpen
  dsimp only
  split <;> simp

@[simp] theorem clock_ledgerFolded (s : State) (v : Nat) : clock (ledgerFolded s v) = clock s := by
  unfold ledgerFolded
  dsimp only
  split <;> simp

@[simp] theorem clock_ledgerReset (s : State) : clock (ledgerReset s) = clock s := by simp [ledgerReset]

end Sys2Proof.Machine
end

section
/-! What keeps the count of epoch time (R541): optical ports and the sending side of Carriage (R354 to R399). -/

namespace Sys2Proof.Machine

@[simp] theorem clock_portDown (s : State) (p : Nat) : clock (portDown s p) = clock s := clock_of_time rfl
@[simp] theorem clock_darken (s : State) (e : Nat) : clock (darken s e) = clock s := by simp [darken]
@[simp] theorem clock_loseUnit (s : State) (e : Nat) (u : LaserUnit) (v : Laser) : clock (loseUnit s e u v) = clock s := by simp [loseUnit]

theorem clock_of_retireLaser {s t : State} {e : Nat} {u : LaserUnit} (h : retireLaser s e u = some t) : clock t = clock s := by
  unfold retireLaser at h
  dsimp only at h
  split at h
  · obtain rfl := Option.some.inj h
    rfl
  · cases h

@[simp] theorem clock_loseLane (s : State) (p l : Nat) : clock (loseLane s p l) = clock s := by simp [loseLane]
@[simp] theorem clock_moveLane (s : State) (p l : Nat) : clock (moveLane s p l) = clock s := by simp [moveLane]
@[simp] theorem clock_laneRequest (s : State) (p : Nat) (f : Frame) : clock (laneRequest s p f) = clock s := by simp [laneRequest]
@[simp] theorem clock_startTraining (s : State) (p : Nat) : clock (startTraining s p) = clock s := clock_of_time rfl
@[simp] theorem clock_sendIdentity (s : State) (p : Nat) : clock (sendIdentity s p) = clock s := clock_of_time rfl
@[simp] theorem clock_alignPort (s : State) (p : Nat) : clock (alignPort s p) = clock s := by simp [alignPort]

@[simp] theorem clock_bringUp (s : State) (e : Nat) (st : BringUp) : clock (bringUp s e st) = clock s := by
  unfold bringUp
  split <;> simp

@[simp] theorem clock_retrainLink (s : State) (p : Nat) : clock (retrainLink s p) = clock s := by simp [retrainLink]

@[simp] theorem clock_portFault (s : State) (p q found expected : Nat) : clock (portFault s p q found expected) = clock s := by
  simp [portFault]

@[simp] theorem clock_identityPassed (s : State) (p : Nat) : clock (identityPassed s p) = clock s := clock_of_time rfl

@[simp] theorem clock_identityCheck (s t : State) (p : Nat) (f : IdFrame) : clock (identityCheck s t p f) = clock t := by
  simp [identityCheck]

@[simp] theorem clock_couplingAgain (s : State) (p : Nat) : clock (couplingAgain s p) = clock s := by simp [couplingAgain]

@[simp] theorem clock_scaleoutAgain (old s : State) (p : Nat) : clock (scaleoutAgain old s p) = clock s := by
  simp [scaleoutAgain]

@[simp] theorem clock_portAgain (old s : State) (p : Nat) : clock (portAgain old s p) = clock s := by
  simp [portAgain]

@[simp] theorem clock_portsNewConsist (old s : State) : clock (portsNewConsist old s) = clock s :=
  clock_foldl _ (clock_portAgain old) _ s

@[simp] theorem clock_measureBer (s : State) (p : Nat) : clock (measureBer s p) = clock s := by simp [measureBer]
@[simp] theorem clock_bindFlow (s : State) (n peer cls : Nat) : clock (bindFlow s n peer cls) = clock s := clock_of_time rfl

@[simp] theorem clock_sendMessage (s : State) (n type cls gen tag leaf offset : Nat) (bs : List Byte) (poison : Bool) :
    clock (sendMessage s n type cls gen tag leaf offset bs poison) = clock s := by simp [sendMessage]

@[simp] theorem clock_onWire (s : State) (p : Nat) (f : Frame) : clock (onWire s p f) = clock s := by simp [onWire]
@[simp] theorem clock_transmit (s : State) (p : Nat) (f : Frame) : clock (transmit s p f) = clock s := by simp [transmit]

@[simp] theorem clock_sendAck (s : State) (n : Nat) : clock (sendAck s n) = clock s := by
  unfold sendAck
  split <;> simp

@[simp] theorem clock_sendNack (s : State) (n : Nat) : clock (sendNack s n) = clock s := by
  unfold sendNack
  split <;> simp

@[simp] theorem clock_storeAcked (s : State) (f : Frame) : clock (storeAcked s f) = clock s := by
  unfold storeAcked
  repeat' split
  all_goals simp

@[simp] theorem clock_flowClosed (s : State) (n : Nat) : clock (flowClosed s n) = clock s := by
  unfold flowClosed
  dsimp only
  split <;> simp

@[simp] theorem clock_ackFlow (s : State) (n : Nat) (ack : BitVec 24) (ece : Bool) : clock (ackFlow s n ack ece) = clock s := by
  simp [ackFlow]

@[simp] theorem clock_memberLost (s : State) (rank : Nat) : clock (memberLost s rank) = clock s := clock_of_time rfl
@[simp] theorem clock_flowFail (s : State) (n : Nat) : clock (flowFail s n) = clock s := by simp [flowFail]

@[simp] theorem clock_resend (s : State) (n : Nat) (seq : BitVec 24) : clock (resend s n seq) = clock s := by
  unfold resend
  repeat' split
  all_goals simp

@[simp] theorem clock_resendAll (s : State) (n : Nat) : clock (resendAll s n) = clock s := by simp [resendAll]

@[simp] theorem clock_requeue (s : State) (n : Nat) : clock (requeue s n) = clock s :=
  (clock_foldl _ clock_enqueueFrame _ _).trans rfl

end Sys2Proof.Machine
end

section
/-! What keeps the count of epoch time (R541): data movers, the Tender and collective queues (R326 to R353, R400 to R407, R434 to R465). -/

namespace Sys2Proof.Machine

@[simp] theorem clock_countBlocks (s : State) (slot : Nat) (bs : List CvtBlock) : clock (countBlocks s slot bs) = clock s := by
  simp [countBlocks]

@[simp] theorem clock_moverTail (s : State) (m : Nat) (v : BitVec 32) : clock (moverTail s m v) = clock s := by simp [moverTail]

@[simp] theorem clock_moverConfig (s : State) (m : Nat) (size : Bool) (v : Nat) : clock (moverConfig s m size v) = clock s := by
  simp [moverConfig]

@[simp] theorem clock_signalDesc (s : State) (d : List Byte) (k who : Nat) : clock (signalDesc s d k who) = clock s := by simp [signalDesc]

@[simp] theorem clock_moverDone (s : State) (m : Nat) (c : MoverCur) (code : Nat) : clock (moverDone s m c code) = clock s := by
  unfold moverDone
  repeat' split
  all_goals simp

@[simp] theorem clock_beginDesc (s : State) (m : Nat) (d : List Byte) (ring : Option (Nat × Nat)) (bad : Bool) :
    clock (beginDesc s m d ring bad) = clock s := by
  unfold beginDesc
  repeat' split
  all_goals simp

@[simp] theorem clock_moverStart (s : State) (m : Nat) : clock (moverStart s m) = clock s := by
  unfold moverStart
  dsimp only
  repeat' split
  all_goals simp

@[simp] theorem clock_readPoison (s : State) (pa n : Nat) (alloc : Bool) : clock (readPoison s pa n alloc).2 = clock s := by
  simp [readPoison]

@[simp] theorem clock_readNarrow (s : State) (pa n : Nat) : clock (readNarrow s pa n).2 = clock s := by simp [readNarrow]

@[simp] theorem clock_writePoison (s : State) (pa : Nat) (bs : List (Byte × Bool)) (alloc narrow : Bool) :
    clock (writePoison s pa bs alloc narrow) = clock s := by simp [writePoison]

@[simp] theorem clock_readKind (s : State) (kind : Nat) (a : Int) (n : Nat) (alloc narrow : Bool) :
    clock (readKind s kind a n alloc narrow).2 = clock s := by
  unfold readKind
  repeat' split
  all_goals simp

@[simp] theorem clock_writeKind (s : State) (m : Nat) (d : List Byte) (kind : Nat) (a : Int) (bs : List (Byte × Bool)) (last : Bool) :
    clock (writeKind s m d kind a bs last) = clock s := by
  unfold writeKind
  split
  · rfl
  · split
    · rfl
    · split <;> simp

@[simp] theorem clock_moverResult (s : State) (m code : Nat) : clock (moverResult s m code) = clock s := clock_of_time rfl
@[simp] theorem clock_indexAt (s : State) (d : List Byte) (i : Nat) : clock (indexAt s d i).2 = clock s := by simp [indexAt]

@[simp] theorem clock_moverChunk (s : State) (m : Nat) (c : MoverCur) : clock (moverChunk s m c) = clock s := by
  unfold moverChunk
  dsimp only
  repeat' split
  all_goals simp

theorem clock_moverRun (n m : Nat) (fail : Option Nat) (s : State) : clock (moverRun n m fail s) = clock s := by
  induction n generalizing s with
  | zero => rfl
  | succ n ih =>
    unfold moverRun
    split
    · rfl
    · simp [ih]

@[simp] theorem clock_moverTransfer (s : State) (m op : Nat) (fail : Option Nat) : clock (moverTransfer s m op fail) = clock s := by
  unfold moverTransfer
  split
  · exact clock_moverRun _ _ _ s
  · rfl

@[simp] theorem clock_readRows (s : State) (d : List Byte) (n : Nat) : clock (readRows s d n).2 = clock s := by simp [readRows]

@[simp] theorem clock_tileBytes (s : State) (coach seat tile row off : Nat) (bs : List (Byte × Bool)) :
    clock (tileBytes s coach seat tile row off bs) = clock s := clock_of_time rfl

@[simp] theorem clock_putOut (s : State) (d : List Byte) (i : Nat) (bs : List (Byte × Bool)) : clock (putOut s d i bs) = clock s := by
  simp [putOut]

@[simp] theorem clock_moverPerformed (s : State) (m : Nat) (poison : Bool) : clock (moverPerformed s m poison) = clock s :=
  clock_of_time rfl

@[simp] theorem clock_moverTranspose (s : State) (m : Nat) (d : List Byte) : clock (moverTranspose s m d) = clock s := by
  simp [moverTranspose]

@[simp] theorem clock_putCvt (s : State) (d : List Byte) (f : Fmt) (i : Nat) (es : List (Nat × Bool)) :
    clock (putCvt s d f i es) = clock s := by simp [putCvt]

@[simp] theorem clock_moverConvert (s : State) (m : Nat) (d : List Byte) : clock (moverConvert s m d) = clock s := by
  unfold moverConvert
  split <;> simp

@[simp] theorem clock_moverTmap (s : State) (m : Nat) (d : List Byte) : clock (moverTmap s m d) = clock s := by simp [moverTmap]

@[simp] theorem clock_sendSlot (s : State) (d : List Byte) (me : Nat) (flows : List Nat) (j who : Nat) :
    clock (sendSlot s d me flows j who).1 = clock s := by simp [sendSlot]

@[simp] theorem clock_moverTexch (s : State) (m : Nat) (d : List Byte) : clock (moverTexch s m d) = clock s := by
  unfold moverTexch
  dsimp only
  rw [clock_moverPerformed]
  exact clock_foldl_fst _ (fun q x => by simp) _ _

@[simp] theorem clock_consumeSlots (s : State) (d : List Byte) : clock (consumeSlots s d) = clock s := by
  unfold consumeSlots
  split <;> rfl

@[simp] theorem clock_moverComplete (s : State) (m : Nat) : clock (moverComplete s m) = clock s := by
  unfold moverComplete
  repeat' split
  all_goals simp

@[simp] theorem clock_saveRead (s : State) (k x b : Nat) : clock (saveRead s k x b) = clock s := by
  unfold saveRead
  split <;> simp

@[simp] theorem clock_drainRead (s : State) (x b : Nat) : clock (drainRead s x b) = clock s := by simp [drainRead]

@[simp] theorem clock_saveReadAll (s : State) (k : Nat) : clock (saveReadAll s k) = clock s := by
  unfold saveReadAll
  split <;> simp

@[simp] theorem clock_putBlock (s : State) (x b : Nat) (ws ms : List (Nat × Bool)) (f : Nat → Nat → Nat → Nat × Nat) :
    clock (putBlock s x b ws ms f) = clock s := by simp [putBlock]

@[simp] theorem clock_readBlock (s : State) (x b : Nat) : clock (readBlock s x b).2.2 = clock s := by simp [readBlock]
@[simp] theorem clock_blockDone (s : State) (x b : Nat) : clock (blockDone s x b) = clock s := clock_of_time rfl
@[simp] theorem clock_addMargin (s : State) (e : DirEntry) (q : TBlock) : clock (addMargin s e q) = clock s := clock_of_time rfl
@[simp] theorem clock_blockFlag (s : State) (e : DirEntry) (q : TBlock) : clock (blockFlag s e q) = clock s := by simp [blockFlag]
@[simp] theorem clock_applyNative (s : State) (q : TBlock) : clock (applyNative s q) = clock s := by simp [applyNative]
@[simp] theorem clock_dropBlock (s : State) (e : DirEntry) (q : TBlock) : clock (dropBlock s e q) = clock s := by simp [dropBlock]

theorem clock_of_rejectBlock {s t : State} {q : TBlock} (h : rejectBlock s q = some t) : clock t = clock s := by
  unfold rejectBlock at h
  dsimp only at h
  repeat' split at h
  case isFalse.isFalse.isFalse => cases h
  all_goals
    obtain rfl := Option.some.inj h
    simp

@[simp] theorem clock_tenderArrive (s : State) (q : TBlock) : clock (tenderArrive s q) = clock s := by
  unfold tenderArrive
  dsimp only
  split
  · rfl
  · split
    · simp
    · split
      next h => exact clock_of_rejectBlock h
      next => simp

@[simp] theorem clock_popBlock (s : State) : clock (popBlock s) = clock s := clock_of_time rfl
@[simp] theorem clock_drainStall (s : State) : clock (drainStall s) = clock s := by simp [drainStall]

@[simp] theorem clock_applyFront (s : State) : clock (applyFront s) = clock s := by
  unfold applyFront
  split
  · rfl
  · split
    next h => rw [clock_popBlock, clock_of_rejectBlock h]
    next => simp

@[simp] theorem clock_partialCame (s : State) (layer leaf qm qw : Nat) : clock (partialCame s layer leaf qm qw) = clock s := by
  unfold partialCame
  dsimp only
  repeat' split
  all_goals simp

@[simp] theorem clock_sendPartials (s : State) (x : Nat) : clock (sendPartials s x) = clock s := by
  unfold sendPartials
  dsimp only
  split
  · refine clock_foldl _ (fun t r => ?_) _ _
    repeat' split
    all_goals simp
  · rfl

@[simp] theorem clock_pass1 (s : State) (q : TBlock) : clock (pass1 s q) = clock s := by simp [pass1]

@[simp] theorem clock_compatFront (s : State) : clock (compatFront s) = clock s := by
  unfold compatFront
  split
  · rfl
  · dsimp only
    split
    · rfl
    · split
      next h => rw [clock_popBlock, clock_of_rejectBlock h]
      next => simp

@[simp] theorem clock_pass2Block (rho : Nat) (s : State) (r : Nat × Nat) : clock (pass2Block rho s r) = clock s := by simp [pass2Block]

@[simp] theorem clock_pass2 (s : State) (layer : Nat) : clock (pass2 s layer) = clock s := by
  unfold pass2
  split <;> simp

@[simp] theorem clock_drainResume (s : State) : clock (drainResume s) = clock s := by simp [drainResume]

@[simp] theorem clock_installOf (s : State) (table first count : Nat) : clock (installOf s table first count).2 = clock s := by
  simp [installOf]

@[simp] theorem clock_installApply (s : State) (i : Install) : clock (installApply s i) = clock s := clock_of_time rfl
@[simp] theorem clock_installsApply (s : State) : clock (installsApply s) = clock s := by simp [installsApply]
@[simp] theorem clock_copyExtent (s : State) (x : Nat) : clock (copyExtent s x) = clock s := by simp [copyExtent]
@[simp] theorem clock_tenderInstallApply (s : State) : clock (tenderInstallApply s) = clock s := by simp [tenderInstallApply]
@[simp] theorem clock_collTail (s : State) (q : Nat) (v : BitVec 32) : clock (collTail s q v) = clock s := by simp [collTail]

@[simp] theorem clock_collConfig (s : State) (q : Nat) (size : Bool) (v : Nat) : clock (collConfig s q size v) = clock s := by
  simp [collConfig]

@[simp] theorem clock_leafMessage (s : State) (d : List Byte) (c : Nat) : clock (leafMessage s d c).2 = clock s := by
  unfold leafMessage
  dsimp only
  repeat' split
  all_goals simp

@[simp] theorem clock_storeMessage (s : State) (q chunk kind i : Nat) (bs : List (Byte × Bool)) :
    clock (storeMessage s q chunk kind i bs) = clock s := clock_of_time rfl

@[simp] theorem clock_sendNode (s : State) (q : Nat) (d : List Byte) (who chunk kind i : Nat) (bs : List (Byte × Bool)) :
    clock (sendNode s q d who chunk kind i bs) = clock s := by
  unfold sendNode
  repeat' split
  all_goals simp

@[simp] theorem clock_toTender (s : State) (q : Nat) (d : List Byte) (chunk : Nat) (bs : List (Byte × Bool)) :
    clock (toTender s q d chunk bs) = clock s := by
  unfold toTender
  refine clock_foldl _ (fun t j => ?_) _ _
  split <;> simp

@[simp] theorem clock_deliver (s : State) (q : Nat) (d : List Byte) (i : Nat) (bs : List (Byte × Bool)) :
    clock (deliver s q d i bs) = clock s := by
  unfold deliver
  split <;> simp

@[simp] theorem clock_deliverAll (s : State) (q : Nat) : clock (deliverAll s q) = clock s := by
  unfold deliverAll
  split
  · rfl
  · refine clock_foldl _ (fun t e => ?_) _ _
    repeat' split
    all_goals simp

@[simp] theorem clock_rootDone (s : State) (q : Nat) (d : List Byte) (chunk : Nat) (es : List (Nat × Bool)) :
    clock (rootDone s q d chunk es) = clock s := by simp [rootDone]

@[simp] theorem clock_reduceNode (s : State) (q chunk level i : Nat) : clock (reduceNode s q chunk level i) = clock s := by
  unfold reduceNode
  dsimp only
  repeat' split
  all_goals simp

@[simp] theorem clock_collFrame (s : State) (q : Nat) (c : CollCur) (f : Frame) : clock (collFrame s q c f) = clock s := by simp [collFrame]

@[simp] theorem clock_collReceive (s : State) (f : Frame) : clock (collReceive s f) = clock s := by
  unfold collReceive
  repeat' split
  · simp
  all_goals rfl

@[simp] theorem clock_collBegin (s : State) (q : Nat) (d : List Byte) (ring : Option (Nat × Nat)) (bad : Bool) :
    clock (collBegin s q d ring bad) = clock s :=
  (clock_foldl _ clock_collReceive _ _).trans rfl

@[simp] theorem clock_collLoad (s : State) (q : Nat) : clock (collLoad s q) = clock s := by
  unfold collLoad
  dsimp only
  repeat' split
  all_goals simp

@[simp] theorem clock_sendLeaves (s : State) (q : Nat) (d : List Byte) : clock (sendLeaves s q d) = clock s := by simp [sendLeaves]
@[simp] theorem clock_sendSlices (s : State) (q : Nat) (d : List Byte) : clock (sendSlices s q d) = clock s := by simp [sendSlices]

@[simp] theorem clock_collRun (s : State) (q op : Nat) : clock (collRun s q op) = clock s := by
  unfold collRun
  dsimp only
  split <;> simp

@[simp] theorem clock_collDone (s : State) (q : Nat) (c : CollCur) (code : Nat) : clock (collDone s q c code) = clock s := by
  unfold collDone
  repeat' split
  all_goals simp

@[simp] theorem clock_collComplete (s : State) (q : Nat) : clock (collComplete s q) = clock s := by
  unfold collComplete
  dsimp only
  split <;> simp

end Sys2Proof.Machine
end

section
/-! What keeps the count of epoch time (R541): power, consists, boundaries and the end of a step (R35 to R54, R456 to R458, R483 to R510,
R552 to R593). -/

namespace Sys2Proof.Machine

@[simp] theorem clock_retarget (s : State) : clock (retarget s) = clock s := clock_of_time rfl
@[simp] theorem clock_restorePace (s : State) : clock (restorePace s) = clock s := by simp [restorePace]
@[simp] theorem clock_lowerHalf (s : State) (west : Bool) : clock (lowerHalf s west) = clock s := clock_of_time rfl
@[simp] theorem clock_powerStepEnd (s : State) (committed : Bool) : clock (powerStepEnd s committed) = clock s := clock_of_time rfl
@[simp] theorem clock_rampWrite (s : State) (v : Nat) : clock (rampWrite s v) = clock s := clock_of_time rfl
@[simp] theorem clock_engineOff (s : State) (e : Nat) : clock (engineOff s e) = clock s := by simp [engineOff]
@[simp] theorem clock_powerDown (s : State) : clock (powerDown s) = clock s := by simp [powerDown]
@[simp] theorem clock_railsOff (s : State) : clock (railsOff s) = clock s := by simp [railsOff]
@[simp] theorem clock_findEntry (s : State) (n : Nat) : clock (findEntry s n).2 = clock s := by simp [findEntry]
@[simp] theorem clock_history (s : State) : clock (history s).2 = clock s := by simp [history]

@[simp] theorem clock_askPartner (s : State) (n : Nat) : clock (askPartner s n) = clock s := by
  unfold askPartner
  repeat' split
  all_goals simp

@[simp] theorem clock_answerPartner (s : State) (n : Nat) : clock (answerPartner s n) = clock s := by
  unfold answerPartner
  repeat' split
  all_goals simp

@[simp] theorem clock_beginStep (s : State) : clock (beginStep s) = clock s := by
  unfold beginStep
  dsimp only
  repeat' split
  all_goals simp

@[simp] theorem clock_coldStart (s : State) : clock (coldStart s) = clock s := clock_of_time rfl
@[simp] theorem clock_runStart (s : State) (n seed : Nat) : clock (runStart s n seed) = clock s := by simp [runStart]
@[simp] theorem clock_paceApply (s : State) (w e : Nat) : clock (paceApply s w e).1 = clock s := clock_of_time rfl
@[simp] theorem clock_pageClass (s : State) (first n cls : Nat) : clock (pageClass s first n cls) = clock s := clock_of_time rfl
@[simp] theorem clock_bcApply (s : State) (b : BCmd) : clock (bcApply s b) = clock s := by simp [bcApply]

@[simp] theorem clock_bcRun (s : State) (l : List BCmd) : clock (bcRun s l) = clock s := by
  induction l generalizing s with
  | nil => rfl
  | cons b rest ih => simp [bcRun, ih]

@[simp] theorem clock_boundaryRun (s : State) : clock (boundaryRun s) = clock s := by simp [boundaryRun]
@[simp] theorem clock_bcAccept (s : State) (b : BCmd) : clock (bcAccept s b) = clock s := by simp [bcAccept]

@[simp] theorem clock_watchChanged (old s : State) : clock (watchChanged old s) = clock s := by
  unfold watchChanged
  simp

@[simp] theorem clock_bindFlows (s : State) : clock (bindFlows s) = clock s := by simp [bindFlows]
@[simp] theorem clock_consistSettle (old s : State) : clock (consistSettle old s) = clock s := by simp [consistSettle]

@[simp] theorem clock_consistTake (s : State) (kind : Nat) : clock (consistTake s kind) = clock s := by
  unfold consistTake
  dsimp only
  repeat' split
  all_goals simp

@[simp] theorem clock_consistRun (s : State) (boundary : Bool) : clock (consistRun s boundary) = clock s := by
  unfold consistRun
  split <;> simp

@[simp] theorem clock_probRevert (s : State) (code : Nat) : clock (probRevert s code) = clock s := by
  unfold probRevert
  dsimp only
  split <;> simp

@[simp] theorem clock_probFail (s : State) (code : Nat) : clock (probFail s code) = clock s := by simp [probFail]
@[simp] theorem clock_stepFlit (s : State) (ch : Nat) (f : BitVec 4) : clock (stepFlit s ch f) = clock s := by simp [stepFlit]
@[simp] theorem clock_contribute62 (s : State) : clock (contribute62 s) = clock s := by simp [contribute62]
@[simp] theorem clock_contribute63 (s : State) : clock (contribute63 s) = clock s := by simp [contribute63]
@[simp] theorem clock_tenderDoneNow (s : State) : clock (tenderDoneNow s) = clock s := by simp [tenderDoneNow]
@[simp] theorem clock_entryFetched (s : State) (e : List Byte) : clock (entryFetched s e) = clock s := by simp [entryFetched]
@[simp] theorem clock_readyWrite (s : State) (v : Nat) : clock (readyWrite s v) = clock s := by simp [readyWrite]
@[simp] theorem clock_stepPhase (s : State) (ch : Nat) : clock (stepPhase s ch) = clock s := by simp [stepPhase]
@[simp] theorem clock_resultDown (s : State) (ch : Nat) (f : BitVec 4) : clock (resultDown s ch f) = clock s := by simp [resultDown]
@[simp] theorem clock_endOfStep (s : State) (f0 : BitVec 4) : clock (endOfStep s f0) = clock s := by simp [endOfStep]
@[simp] theorem clock_barrierDone (s : State) : clock (barrierDone s) = clock s := by simp [barrierDone]

@[simp] theorem clock_sendEntry (s : State) (n : Nat) (e : List Byte) : clock (sendEntry s n e) = clock s := by
  unfold sendEntry
  dsimp only
  repeat' split
  all_goals simp

@[simp] theorem clock_putEntry (s : State) (n : Nat) (e : List Byte) : clock (putEntry s n e) = clock s := by simp [putEntry]

@[simp] theorem clock_entryBuild (s : State) : clock (entryBuild s) = clock s := by
  unfold entryBuild
  split <;> simp

@[simp] theorem clock_durableNow (s : State) (n : Nat) : clock (durableNow s n) = clock s := by simp [durableNow]

@[simp] theorem clock_mirrorAck (s : State) : clock (mirrorAck s) = clock s := by
  unfold mirrorAck
  split <;> simp

@[simp] theorem clock_mirrorTimeout (s : State) : clock (mirrorTimeout s) = clock s := by
  unfold mirrorTimeout
  split <;> simp

@[simp] theorem clock_flashWritten (s : State) : clock (flashWritten s) = clock s := by
  unfold flashWritten
  repeat' split
  all_goals simp

@[simp] theorem clock_mirrorReceive (s : State) (e : List Byte) : clock (mirrorReceive s e) = clock s := by
  unfold mirrorReceive
  dsimp only
  repeat' split
  all_goals simp

@[simp] theorem clock_rewriteEntry (s : State) (n : Nat) (f : Nat → Nat) : clock (rewriteEntry s n f) = clock s := by simp [rewriteEntry]
@[simp] theorem clock_entryVoid (s : State) : clock (entryVoid s) = clock s := by simp [entryVoid]

@[simp] theorem clock_saveStart (s : State) (n k : Nat) : clock (saveStart s n k) = clock s := by
  unfold saveStart
  split
  · rfl
  · dsimp only
    split
    · rw [clock_updWay]
      simp
    · simp

@[simp] theorem clock_extentBytes (s : State) (base : Nat) (e : DirEntry) : clock (extentBytes s base e).2 = clock s := by
  simp [extentBytes]

@[simp] theorem clock_stageOut (s : State) (i : Nat) (c : Ckpt) : clock (stageOut s i c) = clock s := clock_of_time rfl

@[simp] theorem clock_saveComplete (s : State) (k : Nat) : clock (saveComplete s k) = clock s := by
  unfold saveComplete
  dsimp only
  split <;> simp

@[simp] theorem clock_tier3Staged (s : State) : clock (tier3Staged s) = clock s := by
  unfold tier3Staged
  split <;> simp

@[simp] theorem clock_regenQueue (s : State) : clock (regenQueue s) = clock s := clock_of_time rfl
@[simp] theorem clock_regenerate (s : State) (commit : Bool) : clock (regenerate s commit) = clock s := by simp [regenerate]
@[simp] theorem clock_stepsDone (s : State) (n result : Nat) : clock (stepsDone s n result) = clock s := by simp [stepsDone]
@[simp] theorem clock_tenderEnd (s : State) (commit : Bool) : clock (tenderEnd s commit) = clock s := by simp [tenderEnd]
@[simp] theorem clock_mismatch (s : State) (commit : Bool) : clock (mismatch s commit) = clock s := by simp [mismatch]
@[simp] theorem clock_queueFlash (s : State) (n : Nat) : clock (queueFlash s n) = clock s := by simp [queueFlash]
@[simp] theorem clock_savesStart (s : State) (n : Nat) (commit : Bool) : clock (savesStart s n commit) = clock s := by simp [savesStart]

@[simp] theorem clock_recordEnd (s : State) (n : Nat) (commit finite : Bool) : clock (recordEnd s n commit finite) = clock s := by
  simp [recordEnd]

@[simp] theorem clock_stepClear (s : State) : clock (stepClear s) = clock s := clock_of_time rfl
@[simp] theorem clock_stepBoundary (s : State) : clock (stepBoundary s) = clock s := by simp [stepBoundary]
@[simp] theorem clock_stepEnd (s : State) (commit : Bool) : clock (stepEnd s commit) = clock s := by simp [stepEnd]

@[simp] theorem clock_shardDiff (s : State) (c : Ckpt) : clock (shardDiff s c).2 = clock s := by
  refine clock_foldl_snd _ (fun q p => ?_) _ _
  split
  · split
    next => exact clock_extentBytes q.2 _ _
    next => rfl
  · rfl

@[simp] theorem clock_labelDiff (s : State) (n : Nat) : clock (labelDiff s n).2 = clock s := by
  refine clock_foldl_snd _ (fun q p => ?_) _ _
  repeat' split
  all_goals simp

@[simp] theorem clock_shardDiverged (s : State) : clock (shardDiverged s) = clock s := clock_of_time rfl

@[simp] theorem clock_replayCheck (s : State) : clock (replayCheck s) = clock s := by
  unfold replayCheck
  dsimp only
  repeat' split
  all_goals simp

end Sys2Proof.Machine
end

section
/-! What keeps the count of epoch time (R541): rings, management messages, and the registers as they are written (R523 to R539, R569 to
R582, R598 to R616). -/

namespace Sys2Proof.Machine

@[simp] theorem clock_ringErr (s : State) (r code : Nat) : clock (ringErr s r code) = clock s := clock_of_time rfl
@[simp] theorem clock_cfgWrite (s : State) (r v : Nat) : clock (cfgWrite s r v) = clock s := by simp [cfgWrite]
@[simp] theorem clock_baseWrite (s : State) (r v : Nat) : clock (baseWrite s r v) = clock s := by simp [baseWrite]
@[simp] theorem clock_ringDiscard (s : State) (r : Nat) : clock (ringDiscard s r) = clock s := by simp [ringDiscard]
@[simp] theorem clock_newTail (s : State) (r : Nat) (v : BitVec 32) : clock (newTail s r v) = clock s := by simp [newTail]
@[simp] theorem clock_newHead (s : State) (r : Nat) (v : BitVec 32) : clock (newHead s r v) = clock s := by simp [newHead]

@[simp] theorem clock_doorbell (s : State) (r : Nat) (head : Bool) (v : BitVec 32) : clock (doorbell s r head v) = clock s := by
  simp [doorbell]

@[simp] theorem clock_shadowReread (s : State) (r : Nat) : clock (shadowReread s r) = clock s := by simp [shadowReread]
@[simp] theorem clock_entryFetch (s : State) (r : Nat) : clock (entryFetch s r) = clock s := by simp [entryFetch]

/-- A ring command that starts has its effect, or only its completion, on a state of the same count. -/
theorem startCmd_cases (s : State) (r : RingNo) (idx : BitVec 32) (op : Nat) (f : RingCmd → State → State) :
    clock (startCmd s r idx op f) = clock s ∨ ∃ c t, clock t = clock s ∧ startCmd s r idx op f = f c t := by
  unfold startCmd
  split
  · exact .inl rfl
  next c _ =>
    split
    · exact .inl rfl
    · dsimp only
      split
      · exact .inr ⟨c, _, clock_updPair .., rfl⟩
      · exact .inl (by simp)

@[simp] theorem clock_startCmd (s : State) (r : RingNo) (idx : BitVec 32) (op : Nat) {f : RingCmd → State → State}
    (hf : ∀ c t, clock (f c t) = clock t) : clock (startCmd s r idx op f) = clock s := by
  obtain h | ⟨c, t, ht, h⟩ := startCmd_cases s r idx op f
  · exact h
  · rw [h, hf, ht]

@[simp] theorem clock_cqWrite (s : State) (r w0 w3 evBit status w8 : Nat) (irq : Bool) :
    clock (cqWrite s r w0 w3 evBit status w8 irq) = clock s := clock_of_time rfl

@[simp] theorem clock_completionWrite (s : State) (r : Nat) : clock (completionWrite s r) = clock s := by
  unfold completionWrite
  dsimp only
  repeat' split
  all_goals simp

@[simp] theorem clock_eventPost (s : State) : clock (eventPost s) = clock s := by
  unfold eventPost
  repeat' split
  all_goals simp

@[simp] theorem clock_msixSignal (s : State) (r : Nat) : clock (msixSignal s r) = clock s := by simp [msixSignal]
@[simp] theorem clock_sendPending (s : State) : clock (sendPending s) = clock s := by simp [sendPending]
@[simp] theorem clock_ringsResume (s : State) : clock (ringsResume s) = clock s := clock_of_time rfl
@[simp] theorem clock_dropStale (s : State) : clock (dropStale s) = clock s := clock_of_reading rfl

@[simp] theorem clock_restartStep (s : State) : clock (restartStep s) = clock s := by
  unfold restartStep
  dsimp only
  repeat' split
  all_goals simp

@[simp] theorem clock_leaveHalted (s : State) : clock (leaveHalted s) = clock s := by simp [leaveHalted]
@[simp] theorem clock_sessionAdvance (s : State) (sid : Nat) : clock (sessionAdvance s sid) = clock s := clock_of_time rfl

@[simp] theorem clock_receive (s : State) (p : Path) (b : List Byte) : clock (receive s p b) = clock s := by
  unfold receive
  dsimp only
  repeat' split
  all_goals simp

/-- A management request that waits is served on a state of the same count. -/
theorem serve_cases (p : Path) (cmd : Nat) (f : Ticket → List Byte → State → State) (s : State) :
    serve p cmd f s = s ∨ ∃ k b t, clock t = clock s ∧ serve p cmd f s = f k b t := by
  unfold serve
  split
  · exact .inl rfl
  next e _ => exact .inr ⟨e.1, e.2, _, clock_updMgmt .., rfl⟩

@[simp] theorem clock_serve (p : Path) (cmd : Nat) {f : Ticket → List Byte → State → State} (hf : ∀ k b t, clock (f k b t) = clock t)
    (s : State) : clock (serve p cmd f s) = clock s := by
  obtain h | ⟨k, b, t, ht, h⟩ := serve_cases p cmd f s
  · rw [h]
  · rw [h, hf, ht]

@[simp] theorem clock_deny (ask : Ticket) (status : Nat) (s : State) : clock (deny ask status s) = clock s := by simp [deny]
@[simp] theorem clock_mgmtGo (s : State) (v : Nat) : clock (mgmtGo s v) = clock s := by simp [mgmtGo]
@[simp] theorem clock_mgmtDoneClear (s : State) : clock (mgmtDoneClear s) = clock s := clock_of_time rfl
@[simp] theorem clock_boxReset (s : State) : clock (boxReset s) = clock s := clock_of_time rfl

@[simp] theorem clock_cmdGetIdentity (ask : Ticket) (pl : List Byte) (s : State) : clock (cmdGetIdentity ask pl s) = clock s := by
  simp [cmdGetIdentity]

@[simp] theorem clock_cmdAttest (ask : Ticket) (pl : List Byte) (s : State) : clock (cmdAttest ask pl s) = clock s := by simp [cmdAttest]
@[simp] theorem clock_cmdStatus (ask : Ticket) (pl : List Byte) (s : State) : clock (cmdStatus ask pl s) = clock s := by simp [cmdStatus]

@[simp] theorem clock_cmdPaceReport (ask : Ticket) (pl : List Byte) (s : State) : clock (cmdPaceReport ask pl s) = clock s := by
  simp [cmdPaceReport]

@[simp] theorem clock_cmdMgmtMem (ask : Ticket) (pl : List Byte) (s : State) : clock (cmdMgmtMem ask pl s) = clock s := by simp [cmdMgmtMem]

@[simp] theorem clock_cmdMgmtPort (ask : Ticket) (pl : List Byte) (s : State) : clock (cmdMgmtPort ask pl s) = clock s := by
  simp [cmdMgmtPort]

@[simp] theorem clock_cmdLlc (ask : Ticket) (pl : List Byte) (s : State) : clock (cmdLlc ask pl s) = clock s := by simp [cmdLlc]

@[simp] theorem clock_cmdSessionOpen (ask : Ticket) (pl : List Byte) (s : State) : clock (cmdSessionOpen ask pl s) = clock s := by
  unfold cmdSessionOpen
  dsimp only
  repeat' split
  all_goals simp

@[simp] theorem clock_failProof (p : Path) (s : State) : clock (failProof p s) = clock s := by simp [failProof]

@[simp] theorem clock_cmdSessionProve (ask : Ticket) (pl : List Byte) (s : State) : clock (cmdSessionProve ask pl s) = clock s := by
  simp [cmdSessionProve]

@[simp] theorem clock_closeSid (sid : Nat) (s : State) : clock (closeSid sid s) = clock s := clock_of_time rfl

@[simp] theorem clock_cmdSessionClose (ask : Ticket) (pl : List Byte) (s : State) : clock (cmdSessionClose ask pl s) = clock s := by
  simp [cmdSessionClose]

@[simp] theorem clock_cmdCredSet (ask : Ticket) (pl : List Byte) (s : State) : clock (cmdCredSet ask pl s) = clock s := by simp [cmdCredSet]
@[simp] theorem clock_cmdKeySet (ask : Ticket) (pl : List Byte) (s : State) : clock (cmdKeySet ask pl s) = clock s := by simp [cmdKeySet]

@[simp] theorem clock_wfield (off len : Nat) (cur : State → Nat) {act : Nat → State → State} (a : Nat) (bs : List Byte) (s : State)
    (hact : ∀ v t, clock (act v t) = clock t) : clock (wfield off len cur act a bs s) = clock s := by
  simp [wfield, hact]

@[simp] theorem clock_clearIf (b : Bool) (r : StatRef) (s : State) : clock (clearIf b r s) = clock s := by simp [clearIf]

@[simp] theorem clock_timeStatusWrite (v : Nat) (s : State) : clock (timeStatusWrite v s) = clock s := by
  simp [timeStatusWrite]

@[simp] theorem clock_alarmRecordWrite (x a : Nat) (bs : List Byte) (s : State) : clock (alarmRecordWrite x a bs s) = clock s := by
  simp [alarmRecordWrite]

@[simp] theorem clock_moverRecordWrite (m a : Nat) (bs : List Byte) (s : State) : clock (moverRecordWrite m a bs s) = clock s := by
  simp [moverRecordWrite]

@[simp] theorem clock_collRecordWrite (q a : Nat) (bs : List Byte) (s : State) : clock (collRecordWrite q a bs s) = clock s := by
  simp [collRecordWrite]

@[simp] theorem clock_chanRecordWrite (c a : Nat) (bs : List Byte) (s : State) : clock (chanRecordWrite c a bs s) = clock s := by
  simp [chanRecordWrite]

@[simp] theorem clock_semRecordWrite (n a : Nat) (bs : List Byte) (s : State) : clock (semRecordWrite n a bs s) = clock s := by
  unfold semRecordWrite
  split <;> simp

@[simp] theorem clock_slotRecordWrite (k a : Nat) (bs : List Byte) (s : State) : clock (slotRecordWrite k a bs s) = clock s := by
  simp [slotRecordWrite]

@[simp] theorem clock_agreeRecordWrite (c a : Nat) (bs : List Byte) (s : State) : clock (agreeRecordWrite c a bs s) = clock s := by
  simp [agreeRecordWrite]

@[simp] theorem clock_schedWrite (a : Nat) (bs : List Byte) (s : State) : clock (schedWrite a bs s) = clock s := by simp [schedWrite]
@[simp] theorem clock_wayWrite (a : Nat) (bs : List Byte) (s : State) : clock (wayWrite a bs s) = clock s := by simp [wayWrite]
@[simp] theorem clock_tenderWrite (a : Nat) (bs : List Byte) (s : State) : clock (tenderWrite a bs s) = clock s := by simp [tenderWrite]

@[simp] theorem clock_records (base len count : Nat) {f : Nat → Nat → List Byte → State → State} (a : Nat) (bs : List Byte) (s : State)
    (hf : ∀ k o b t, clock (f k o b t) = clock t) : clock (records base len count f a bs s) = clock s := by
  simp [records, hf]

@[simp] theorem clock_windowWrite (s : State) (pa : Nat) (bs : List Byte) : clock (windowWrite s pa bs) = clock s := by
  unfold windowWrite
  split <;> simp

@[simp] theorem clock_hostMemRead (s : State) (addr n : Nat) : clock (hostMemRead s addr n).2.2 = clock s := by
  unfold hostMemRead
  dsimp only
  repeat' split
  all_goals simp

@[simp] theorem clock_hostMemWrite (s : State) (addr : Nat) (bs : List Byte) : clock (hostMemWrite s addr bs) = clock s := by
  simp [hostMemWrite]

@[simp] theorem clock_mgmtLenWrite (v : Nat) (s : State) : clock (mgmtLenWrite v s) = clock s := by simp [mgmtLenWrite]
@[simp] theorem clock_mgmtStatusWrite (v : Nat) (s : State) : clock (mgmtStatusWrite v s) = clock s := by simp [mgmtStatusWrite]
@[simp] theorem clock_mgmtBufWrite (o : Nat) (bs : List Byte) (s : State) : clock (mgmtBufWrite o bs s) = clock s := by simp [mgmtBufWrite]
@[simp] theorem clock_pwrStatusWrite (v : Nat) (s : State) : clock (pwrStatusWrite v s) = clock s := clock_of_time rfl
@[simp] theorem clock_ringStatWrite (r v : Nat) (s : State) : clock (ringStatWrite r v s) = clock s := by simp [ringStatWrite]
@[simp] theorem clock_pairWrite (r a : Nat) (bs : List Byte) (s : State) : clock (pairWrite r a bs s) = clock s := by simp [pairWrite]
@[simp] theorem clock_msixWrite (v a : Nat) (bs : List Byte) (s : State) : clock (msixWrite v a bs s) = clock s := by simp [msixWrite]
@[simp] theorem clock_bar0Put (s : State) (o : Nat) (bs : List Byte) : clock (bar0Put s o bs) = clock s := by simp [bar0Put]
@[simp] theorem clock_bar0Write (s : State) (o : Nat) (bs : List Byte) : clock (bar0Write s o bs) = clock s := by simp [bar0Write]

@[simp] theorem clock_registerWrite (space : RegSpace) (o size v : Nat) (s : State) : clock (registerWrite space o size v s) = clock s := by
  unfold registerWrite
  split <;> simp

@[simp] theorem clock_halfRead (requester : Nat) (reg : HalfReg) (high : Bool) (s : State) :
    clock (halfRead requester reg high s) = clock s := by simp [halfRead]

end Sys2Proof.Machine
end

section
/-! What keeps the count of epoch time (R541): translation, caches and exceptions of a coach (R56 to R107, R250 to R273). -/

namespace Sys2Proof.Machine

@[simp] theorem clock_walk (c va n table : Nat) (s : State) : clock (walk c va n table s).2 = clock s := by
  induction n generalizing table s with
  | zero => rfl
  | succ n ih =>
    unfold walk
    dsimp only
    repeat' split
    all_goals simp [ih]

@[simp] theorem clock_leafOf (r : SeatRef) (va : Nat) (s : State) : clock (leafOf r va s).2 = clock s := by
  unfold leafOf
  dsimp only
  split
  · rfl
  · split
    next h => simp [clock_of_snd h (clock_walk _ _ _ _ s)]
    next => simp

@[simp] theorem clock_translate (r : SeatRef) (a : Acc) (va : Nat) (s : State) : clock (translate r a va s).2 = clock s := by
  unfold translate
  dsimp only
  split
  · rfl
  · split
    · rfl
    · split
      all_goals next h => exact clock_of_snd h (clock_leafOf r va s)

@[simp] theorem clock_nearRoom (s : State) (a : LaddReq) : clock (nearRoom s a) = clock s := by simp [nearRoom]

@[simp] theorem clock_sliceAdvance (s : State) (slice : Nat) : clock (sliceAdvance s slice) = clock s := by
  unfold sliceAdvance
  split <;> simp

@[simp] theorem clock_waitSlice (p : LaddReq → Bool) (c slice n : Nat) (s : State) : clock (waitSlice p c slice n s) = clock s := by
  induction n generalizing s with
  | zero => rfl
  | succ n ih => simp [waitSlice, ih]

@[simp] theorem clock_waitForwarded (p : LaddReq → Bool) (s : State) : clock (waitForwarded p s) = clock s := by simp [waitForwarded]
@[simp] theorem clock_waitAdds (p : LaddReq → Bool) (c : Nat) (s : State) : clock (waitAdds p c s) = clock s := by simp [waitAdds]
@[simp] theorem clock_waitOwn (c line : Nat) (s : State) : clock (waitOwn c line s) = clock s := by simp [waitOwn]

@[simp] theorem clock_waitPinned (line n : Nat) (s : State) : clock (waitPinned line n s) = clock s := by
  induction n generalizing s with
  | zero => rfl
  | succ n ih => simp [waitPinned, ih]

@[simp] theorem clock_llcPut (s : State) (line : Nat) (d : BitVec 1024) (p dd : BitVec 4) : clock (llcPut s line d p dd) = clock s := by
  unfold llcPut
  split <;> simp

@[simp] theorem clock_backLine (s : State) (l : CLine) : clock (backLine s l) = clock s := by
  unfold backLine
  split
  · rfl
  · split
    · rfl
    · simp

@[simp] theorem clock_fetchLine (s : State) (tag : Nat) (host alloc : Bool) : clock (fetchLine s tag host alloc).2 = clock s := by
  unfold fetchLine
  split <;> simp

@[simp] theorem clock_toVictim (c : Nat) (l : CLine) (s : State) : clock (toVictim c l s) = clock s := by
  unfold toVictim
  dsimp only
  split <;> simp

@[simp] theorem clock_insertL1 (c : Nat) (l : CLine) (s : State) : clock (insertL1 c l s) = clock s := by
  unfold insertL1
  dsimp only
  split <;> simp

@[simp] theorem clock_drainEntry (c : Nat) (e : MEntry) (s : State) : clock (drainEntry c e s) = clock s := by
  unfold drainEntry
  cases e.host
  · simp
  · exact (clock_ite ..).trans (by simp; rfl)

@[simp] theorem clock_drainOldest (c : Nat) (s : State) : clock (drainOldest c s) = clock s := by
  unfold drainOldest
  split <;> simp

@[simp] theorem clock_drainFirst (c n : Nat) (s : State) : clock (drainFirst c n s) = clock s := by simp [drainFirst]
@[simp] theorem clock_drainAll (c : Nat) (s : State) : clock (drainAll c s) = clock s := by simp [drainAll]
@[simp] theorem clock_drainLine (c tag : Nat) (host : Bool) (s : State) : clock (drainLine c tag host s) = clock s := by simp [drainLine]
@[simp] theorem clock_completeFill (c : Nat) (e : MEntry) (s : State) : clock (completeFill c e s) = clock s := by simp [completeFill]

@[simp] theorem clock_fillLine (c tag : Nat) (host : Bool) (s : State) : clock (fillLine c tag host s) = clock s := by
  unfold fillLine
  split <;> simp

@[simp] theorem clock_fillAll (c : Nat) (s : State) : clock (fillAll c s) = clock s := by simp [fillAll]

@[simp] theorem clock_fillRoom (c : Nat) (s : State) : clock (fillRoom c s) = clock s := by
  unfold fillRoom
  split <;> simp

@[simp] theorem clock_lineForLoad (r : SeatRef) (tag : Nat) (host : Bool) (depth : Nat) (s : State) :
    clock (lineForLoad r tag host depth s).2 = clock s := by
  unfold lineForLoad
  dsimp only
  split <;> simp

@[simp] theorem clock_evictCopy (c tag : Nat) (host : Bool) (s : State) : clock (evictCopy c tag host s) = clock s := by
  unfold evictCopy
  dsimp only
  split <;> simp

@[simp] theorem clock_loadPhys (r : SeatRef) (p : Phys) (n : Nat) (s : State) : clock (loadPhys r p n s).2 = clock s := by
  unfold loadPhys
  dsimp only
  repeat' split
  all_goals simp

@[simp] theorem clock_deadRead (r : SeatRef) (v : Loaded) (s : State) : clock (deadRead r v s) = clock s := by simp [deadRead]

theorem clock_of_storeCopy {c tag : Nat} {host : Bool} {m d : Nat} {p : BitVec 4} {dirty : Bool} {s t : State}
    (h : storeCopy c tag host m d p dirty s = some t) : clock t = clock s := by
  obtain ⟨u, -, rfl⟩ := Option.map_eq_some_iff.mp h
  rfl

@[simp] theorem clock_getD_storeCopy (c tag : Nat) (host : Bool) (m d : Nat) (p : BitVec 4) (dirty : Bool) (s : State) :
    clock ((storeCopy c tag host m d p dirty s).getD s) = clock s := by
  cases h : storeCopy c tag host m d p dirty s with
  | none => rfl
  | some t => exact clock_of_storeCopy h

@[simp] theorem clock_storeThrough (r : SeatRef) (tag : Nat) (host : Bool) (m d : Nat) (p : BitVec 4) (s : State) :
    clock (storeThrough r tag host m d p s) = clock s := by
  simp [storeThrough]

@[simp] theorem clock_storeBack (r : SeatRef) (tag : Nat) (host : Bool) (m d : Nat) (p : BitVec 4) (s : State) :
    clock (storeBack r tag host m d p s) = clock s := by
  unfold storeBack
  dsimp only
  split
  next h => simp [clock_of_storeCopy h]
  next => simp

@[simp] theorem clock_storePhys (r : SeatRef) (p : Phys) (n d : Nat) (q : BitVec 4) (s : State) : clock (storePhys r p n d q s) = clock s := by
  unfold storePhys
  split <;> simp

@[simp] theorem clock_flushCopies (c : Nat) (s : State) : clock (flushCopies c s) = clock s := by simp [flushCopies]
@[simp] theorem clock_flushCoach (c : Nat) (s : State) : clock (flushCoach c s) = clock s := by simp [flushCoach]
@[simp] theorem clock_acquireCoach (c : Nat) (s : State) : clock (acquireCoach c s) = clock s := clock_of_time rfl

@[simp] theorem clock_stopCoach (r : SeatRef) (cause extra : Nat) (s : State) : clock (stopCoach r cause extra s) = clock s := by
  simp [stopCoach]

@[simp] theorem clock_raiseSync (r : SeatRef) (cause detail prog : Nat) (s : State) : clock (raiseSync r cause detail prog s) = clock s := by
  simp [raiseSync]

@[simp] theorem clock_completeBy (n : Nat) (r : SeatRef) (s : State) : clock (completeBy n r s) = clock s := clock_of_time rfl
@[simp] theorem clock_complete (r : SeatRef) (s : State) : clock (complete r s) = clock s := clock_of_time rfl
@[simp] theorem clock_finish (r : SeatRef) (f : Seat → Seat) (s : State) : clock (finish r f s) = clock s := clock_of_time rfl
@[simp] theorem clock_goto (r : SeatRef) (pc : Word) (s : State) : clock (goto r pc s) = clock s := clock_of_time rfl
@[simp] theorem clock_illegal (r : SeatRef) (s : State) : clock (illegal r s) = clock s := by simp [illegal]

@[simp] theorem clock_checkedAt (r : SeatRef) (prog : Nat) (cs : List (Bool × Nat × Nat)) {f : State → State} {s : State}
    (hf : clock (f s) = clock s) : clock (checkedAt r prog cs f s) = clock s := by
  unfold checkedAt
  split
  · simp
  · exact hf

@[simp] theorem clock_checked (r : SeatRef) (cs : List (Bool × Nat × Nat)) {f : State → State} {s : State}
    (hf : clock (f s) = clock s) : clock (checked r cs f s) = clock s := clock_checkedAt r 0 cs hf

@[simp] theorem clock_takeInterrupt (r : SeatRef) (s : State) : clock (takeInterrupt r s) = clock s := by
  unfold takeInterrupt
  repeat' split
  all_goals simp

@[simp] theorem clock_seatRun (r : SeatRef) (i : Instr) {f : State → State} {s : State} (hf : clock (f s) = clock s) :
    clock (seatRun r i f s) = clock s := by
  simp [seatRun, hf]

@[simp] theorem clock_drainRequest (r : SeatRef) (microcode : Bool) (s : State) : clock (drainRequest r microcode s) = clock s := by
  simp [drainRequest]

@[simp] theorem clock_intReg (r : SeatRef) (fn : BitVec 11) (rd rs1 rs2 : RegNo) (s : State) : clock (intReg r fn rd rs1 rs2 s) = clock s := by
  unfold intReg
  split <;> simp

@[simp] theorem clock_intImm (r : SeatRef) (op : ImmOp) (rd rs1 : RegNo) (imm : Half) (s : State) :
    clock (intImm r op rd rs1 imm s) = clock s := by simp [intImm]

@[simp] theorem clock_remoteLoad (r : SeatRef) (pa n : Nat) (d : LoadDest) (s : State) : clock (remoteLoad r pa n d s) = clock s := by
  unfold remoteLoad
  split <;> simp

@[simp] theorem clock_vecRemote (r : SeatRef) (vd : RegNo) (w : Nat) (l : List (Nat × Nat × Nat)) (s : State) :
    clock (vecRemote r vd w l s) = clock s := by
  induction l generalizing s with
  | nil => simp [vecRemote]
  | cons x rest ih =>
    unfold vecRemote
    dsimp only
    split <;> simp [ih]

@[simp] theorem clock_remoteArrive (r : SeatRef) (d : LoadDest) (v p : Nat) (s : State) : clock (remoteArrive r d v p s) = clock s := by
  cases d <;> simp [remoteArrive]

@[simp] theorem clock_remoteStore (r : SeatRef) (pa n d q : Nat) (s : State) : clock (remoteStore r pa n d q s) = clock s := by
  unfold remoteStore
  split <;> simp

@[simp] theorem clock_withPhys (r : SeatRef) (a : Acc) (va n : Nat) {f : Phys → State → State} (hf : ∀ p t, clock (f p t) = clock t)
    (s : State) : clock (withPhys r a va n f s) = clock s := by
  unfold withPhys
  split
  · simp
  · split
    all_goals next h => simp [hf, clock_of_snd h (clock_translate r a va s)]

@[simp] theorem clock_loadTo (r : SeatRef) (va n : Nat) (d : LoadDest) (s : State) : clock (loadTo r va n d s) = clock s := by simp [loadTo]
@[simp] theorem clock_storeFrom (r : SeatRef) (va n v : Nat) (s : State) : clock (storeFrom r va n v s) = clock s := by simp [storeFrom]

@[simp] theorem clock_scalarLoad (r : SeatRef) (signed : Bool) (size : BitVec 2) (off : BitVec 14) (rd rs1 : RegNo) (s : State) :
    clock (scalarLoad r signed size off rd rs1 s) = clock s := by simp [scalarLoad]

@[simp] theorem clock_scalarStore (r : SeatRef) (size : BitVec 2) (off : BitVec 14) (rd rs1 : RegNo) (s : State) :
    clock (scalarStore r size off rd rs1 s) = clock s := by simp [scalarStore]

@[simp] theorem clock_fpLoad (r : SeatRef) (size : BitVec 2) (off : BitVec 14) (rd rs1 : RegNo) (s : State) :
    clock (fpLoad r size off rd rs1 s) = clock s := by simp [fpLoad]

@[simp] theorem clock_fpStore (r : SeatRef) (size : BitVec 2) (off : BitVec 14) (rd rs1 : RegNo) (s : State) :
    clock (fpStore r size off rd rs1 s) = clock s := by simp [fpStore]

@[simp] theorem clock_laddSend (r : SeatRef) (pa ty : Nat) (v : Word) (s : State) : clock (laddSend r pa ty v s) = clock s := by
  simp [laddSend]

@[simp] theorem clock_ladd (r : SeatRef) (rd rs1 rs2 : RegNo) (ty : BitVec 3) (rsv : BitVec 8) (s : State) :
    clock (ladd r rd rs1 rs2 ty rsv s) = clock s := by
  refine clock_checked r _ ?_
  split
  all_goals next h => simp [clock_of_snd h (clock_translate r .store _ s)]

@[simp] theorem clock_shadowAt (r : SeatRef) (va align detail : Nat) (s : State) : clock (shadowAt r va align detail s).2 = clock s := by
  simp [shadowAt]

@[simp] theorem clock_withSlot (r : SeatRef) (va detail : Nat) {f : Phys → State → State} (hf : ∀ p t, clock (f p t) = clock t)
    (s : State) : clock (withSlot r va detail f s) = clock s := by
  unfold withSlot
  split
  all_goals next h => simp [hf, clock_of_snd h (clock_shadowAt r va 8 detail s)]

@[simp] theorem clock_callShadow (r : SeatRef) (target : Word) (s : State) : clock (callShadow r target s) = clock s := by simp [callShadow]
@[simp] theorem clock_callTo (r : SeatRef) (target : Word) (s : State) : clock (callTo r target s) = clock s := by simp [callTo]
@[simp] theorem clock_retShadow (r : SeatRef) (s : State) : clock (retShadow r s) = clock s := by simp [retShadow]

@[simp] theorem clock_branchCond (r : SeatRef) (cond rs1 : RegNo) (off : Half) (s : State) :
    clock (branchCond r cond rs1 off s) = clock s := by simp [branchCond]

@[simp] theorem clock_jump (r : SeatRef) (off : BitVec 26) (s : State) : clock (jump r off s) = clock s := clock_of_time rfl
@[simp] theorem clock_jr (r : SeatRef) (rd rs1 rs2 : RegNo) (s : State) : clock (jr r rd rs1 rs2 s) = clock s := by simp [jr]
@[simp] theorem clock_call (r : SeatRef) (off : BitVec 26) (s : State) : clock (call r off s) = clock s := by simp [call]
@[simp] theorem clock_callr (r : SeatRef) (rd rs1 rs2 : RegNo) (s : State) : clock (callr r rd rs1 rs2 s) = clock s := by simp [callr]
@[simp] theorem clock_ret (r : SeatRef) (rd rs1 rs2 : RegNo) (s : State) : clock (ret r rd rs1 rs2 s) = clock s := by simp [ret]

@[simp] theorem clock_headWord (r : SeatRef) (p : Phys) (off : Nat) (s : State) : clock (headWord r p off s).2 = clock s := by
  simp [headWord]

@[simp] theorem clock_switchStacks (r : SeatRef) (hOld hNew : Word) (po pn : Phys) (s : State) :
    clock (switchStacks r hOld hNew po pn s) = clock s := by simp [switchStacks]

@[simp] theorem clock_sspSwitch (r : SeatRef) (w : SysWord) (s : State) : clock (sspSwitch r w s) = clock s := by
  refine clock_checked r _ ?_
  dsimp only
  split <;> simp

@[simp] theorem clock_sspUnwind (r : SeatRef) (w : SysWord) (s : State) : clock (sspUnwind r w s) = clock s := by simp [sspUnwind]

@[simp] theorem clock_l1Upset (c : Fin 96) (u : L1Upset) (s : State) : clock (l1Upset c u s) = clock s := by
  unfold l1Upset
  dsimp only
  repeat' split
  all_goals simp

@[simp] theorem clock_llcUpset (line : Nat) (segs : BitVec 4) (s : State) : clock (llcUpset line segs s) = clock s := by
  unfold llcUpset
  split <;> simp

@[simp] theorem clock_hostHolds (s : State) (line : Nat) : clock (hostHolds s line) = clock s := by
  unfold hostHolds
  dsimp only
  repeat' split
  all_goals simp

@[simp] theorem clock_llcServe (req : LlcReq) (s : State) : clock (llcServe req s) = clock s := by
  unfold llcServe
  dsimp only
  repeat' split
  all_goals simp

end Sys2Proof.Machine
end

section
/-! What keeps the count of epoch time (R541): the receiving side of Carriage, Thonar, restoring, and ring commands (R380 to R397, R499 to
R506, R532 to R534, R583 to R597). -/

namespace Sys2Proof.Machine

@[simp] theorem clock_serveRead (s : State) (f : Frame) : clock (serveRead s f) = clock s := by
  unfold serveRead
  dsimp only
  split <;> simp

@[simp] theorem clock_serveWrite (s : State) (f : Frame) : clock (serveWrite s f) = clock s := by simp [serveWrite]

@[simp] theorem clock_remoteComplete (r : SeatRef) (v p : Nat) (s : State) : clock (remoteComplete r v p s) = clock s := by
  unfold remoteComplete
  split <;> simp

@[simp] theorem clock_remoteResponse (s : State) (f : Frame) : clock (remoteResponse s f) = clock s := by
  unfold remoteResponse
  split <;> simp

@[simp] theorem clock_flitFrame (s : State) (f : Frame) : clock (flitFrame s f) = clock s := by simp [flitFrame]
@[simp] theorem clock_controlFrame (s : State) (f : Frame) : clock (controlFrame s f) = clock s := by simp [controlFrame]

@[simp] theorem clock_dataFrame (s : State) (f : Frame) : clock (dataFrame s f) = clock s := by
  unfold dataFrame
  dsimp only
  repeat' split
  case _ => exact clock_writePoison ..
  case _ => rfl
  case _ => simp
  case _ => exact (clock_of_time rfl).trans (clock_writePoison s _ _ false false)
  case _ => rfl

@[simp] theorem clock_deliverFrame (s : State) (f : Frame) : clock (deliverFrame s f) = clock s := by
  unfold deliverFrame
  repeat' split
  all_goals simp

@[simp] theorem clock_deliverNext (k n : Nat) (s : State) : clock (deliverNext k n s) = clock s := by
  induction k generalizing s with
  | zero => rfl
  | succ k ih =>
    unfold deliverNext
    dsimp only
    split
    · rfl
    · simp [ih]

@[simp] theorem clock_sequenceFrame (s : State) (f : Frame) : clock (sequenceFrame s f) = clock s := by
  simp [sequenceFrame]

@[simp] theorem clock_rideAck (s : State) (f : Frame) : clock (rideAck s f) = clock s := by simp [rideAck]

@[simp] theorem clock_acceptFrame (s : State) (p : Nat) (f : Frame) : clock (acceptFrame s p f) = clock s := by
  unfold acceptFrame
  repeat' split
  all_goals simp

@[simp] theorem clock_frameReceive (s : State) (p : Port) (f : Frame) (symErrs : List Nat) (rx : FrameRx) :
    clock (frameReceive s p f symErrs rx) = clock s := by simp [frameReceive]

@[simp] theorem clock_cmdConsistLoad (ask : Ticket) (pl : List Byte) (s : State) : clock (cmdConsistLoad ask pl s) = clock s := by
  unfold cmdConsistLoad
  dsimp only
  repeat' split
  all_goals simp

@[simp] theorem clock_acceptChange (ask : Ticket) (kind : Nat) (pl : List Byte) (s : State) :
    clock (acceptChange ask kind pl s) = clock s := by simp [acceptChange]

@[simp] theorem clock_cmdConsistApply (ask : Ticket) (pl : List Byte) (s : State) : clock (cmdConsistApply ask pl s) = clock s := by
  unfold cmdConsistApply
  split <;> simp

@[simp] theorem clock_cmdConsistConfirm (ask : Ticket) (pl : List Byte) (s : State) : clock (cmdConsistConfirm ask pl s) = clock s := by
  simp [cmdConsistConfirm]

@[simp] theorem clock_cmdConsistRevert (ask : Ticket) (pl : List Byte) (s : State) : clock (cmdConsistRevert ask pl s) = clock s := by
  simp [cmdConsistRevert]

@[simp] theorem clock_cmdFwLoad (ask : Ticket) (pl : List Byte) (s : State) : clock (cmdFwLoad ask pl s) = clock s := by simp [cmdFwLoad]
@[simp] theorem clock_activationStart (s : State) (comp : Nat) : clock (activationStart s comp) = clock s := by simp [activationStart]

@[simp] theorem clock_activate (ask : Ticket) (pl : List Byte) (s : State) : clock (activate ask pl s) = clock s := by
  unfold activate
  dsimp only
  repeat' split
  all_goals simp

@[simp] theorem clock_cmdFwCommit (ask : Ticket) (pl : List Byte) (s : State) : clock (cmdFwCommit ask pl s) = clock s := by
  simp [cmdFwCommit]

@[simp] theorem clock_cmdLaserRetire (ask : Ticket) (pl : List Byte) (s : State) : clock (cmdLaserRetire ask pl s) = clock s := by
  unfold cmdLaserRetire
  dsimp only
  split
  · simp
  · split
    next => simp
    next h => rw [clock_respond, clock_of_retireLaser h]

@[simp] theorem clock_cmdRetrain (ask : Ticket) (pl : List Byte) (s : State) : clock (cmdRetrain ask pl s) = clock s := by simp [cmdRetrain]

@[simp] theorem clock_calibrate (s : State) (first stop : Nat) (ask : Option Ticket) : clock (calibrate s first stop ask) = clock s :=
  clock_of_time rfl

@[simp] theorem clock_cmdRecalibrate (ask : Ticket) (pl : List Byte) (s : State) : clock (cmdRecalibrate ask pl s) = clock s := by
  simp [cmdRecalibrate]

@[simp] theorem clock_retrim (s : State) : clock (retrim s) = clock s := by simp [retrim]
@[simp] theorem clock_cmdRetrim (ask : Ticket) (pl : List Byte) (s : State) : clock (cmdRetrim ask pl s) = clock s := by simp [cmdRetrim]
@[simp] theorem clock_flashRetire (s : State) (block : Nat) : clock (flashRetire s block) = clock s := by simp [flashRetire]
@[simp] theorem clock_remap (s : State) (f : List (BitVec 8) → List (BitVec 8)) : clock (remap s f) = clock s := clock_of_time rfl

@[simp] theorem clock_moveCoach (s : State) (c : Nat) (left : BitVec 8) : clock (moveCoach s c left) = clock s := by
  unfold moveCoach
  dsimp only
  repeat' split
  all_goals simp

@[simp] theorem clock_answerSubstitute (s : State) (c : Nat) : clock (answerSubstitute s c) = clock s := by
  unfold answerSubstitute
  split <;> simp

@[simp] theorem clock_substitution (s : State) (c : Nat) : clock (substitution s c) = clock s := by simp [substitution]

@[simp] theorem clock_coachReload (s : State) (c : Nat) : clock (coachReload s c) = clock s := by
  unfold coachReload
  split <;> simp

@[simp] theorem clock_cmdSubstitute (ask : Ticket) (pl : List Byte) (s : State) : clock (cmdSubstitute ask pl s) = clock s := by
  simp [cmdSubstitute]

@[simp] theorem clock_selfTest (s : State) (failed : List Nat) : clock (selfTest s failed) = clock s := by simp [selfTest]
@[simp] theorem clock_microcodeMove (s : State) (c : Nat) : clock (microcodeMove s c) = clock s := by simp [microcodeMove]

@[simp] theorem clock_copySource (label : Nat) (s : State) (x : Source) : clock (copySource label s x) = clock s := by
  unfold copySource
  split <;> simp

@[simp] theorem clock_rebuildLoss (s : State) (label : Nat) : clock (rebuildLoss s label) = clock s :=
  (clock_foldl _ (fun t l => by split <;> simp) _ _).trans rfl

@[simp] theorem clock_regenerateNow (s : State) : clock (regenerateNow s) = clock s := by simp [regenerateNow]
@[simp] theorem clock_restoreTo (s : State) (label : Nat) (xs : List Source) : clock (restoreTo s label xs) = clock s := by simp [restoreTo]
@[simp] theorem clock_readTable (s : State) (addr n : Nat) : clock (readTable s addr n).2 = clock s := by simp [readTable]
@[simp] theorem clock_acceptCmd (r : RingNo) (c : RingCmd) (s : State) : clock (acceptCmd r c s) = clock s := by simp [acceptCmd]

@[simp] theorem clock_doneCmd (r : RingNo) (c : RingCmd) (status result : Nat) (s : State) :
    clock (doneCmd r c status result s) = clock s := clock_of_time rfl

@[simp] theorem clock_overLink (r : RingNo) (c : RingCmd) {f : State → State} {s : State} (hf : clock (f s) = clock s) :
    clock (overLink r c f s) = clock s := by
  simp [overLink, hf]

@[simp] theorem clock_cmdMover (r : RingNo) (c : RingCmd) (s : State) : clock (cmdMover r c s) = clock s := by simp [cmdMover]

@[simp] theorem clock_cmdCollective (r : RingNo) (c : RingCmd) (s : State) : clock (cmdCollective r c s) = clock s := by
  simp [cmdCollective]

@[simp] theorem clock_cmdRunStart (r : RingNo) (c : RingCmd) (s : State) : clock (cmdRunStart r c s) = clock s := by simp [cmdRunStart]
@[simp] theorem clock_cmdStep (r : RingNo) (c : RingCmd) (s : State) : clock (cmdStep r c s) = clock s := by simp [cmdStep]
@[simp] theorem clock_cmdStopRequest (r : RingNo) (c : RingCmd) (s : State) : clock (cmdStopRequest r c s) = clock s := clock_of_time rfl
@[simp] theorem clock_cmdResume (r : RingNo) (c : RingCmd) (s : State) : clock (cmdResume r c s) = clock s := by simp [cmdResume]

@[simp] theorem clock_cmdRestore (r : RingNo) (c : RingCmd) (s : State) : clock (cmdRestore r c s) = clock s := by
  unfold cmdRestore
  dsimp only
  split
  · simp
  · split
    · simp
    · split
      all_goals next h => simp [clock_of_snd h (clock_readTable s _ _)]

@[simp] theorem clock_cmdTier3Release (r : RingNo) (c : RingCmd) (s : State) : clock (cmdTier3Release r c s) = clock s := by
  unfold cmdTier3Release
  dsimp only
  repeat' split
  all_goals simp

@[simp] theorem clock_cmdTenderInstall (r : RingNo) (c : RingCmd) (s : State) : clock (cmdTenderInstall r c s) = clock s := by
  unfold cmdTenderInstall
  dsimp only
  split
  · simp
  · split
    all_goals next h => simp [clock_of_snd h (clock_installOf s _ _ _)]

@[simp] theorem clock_cmdTenderRate (r : RingNo) (c : RingCmd) (s : State) : clock (cmdTenderRate r c s) = clock s := by
  simp [cmdTenderRate]

@[simp] theorem clock_cmdPace (r : RingNo) (c : RingCmd) (s : State) : clock (cmdPace r c s) = clock s := by simp [cmdPace]
@[simp] theorem clock_cmdPageClass (r : RingNo) (c : RingCmd) (s : State) : clock (cmdPageClass r c s) = clock s := by simp [cmdPageClass]

@[simp] theorem clock_writeRecord (r : RingNo) (c : RingCmd) (bs : List Byte) (s : State) : clock (writeRecord r c bs s) = clock s :=
  clock_of_time rfl

@[simp] theorem clock_cmdMemStatus (r : RingNo) (c : RingCmd) (s : State) : clock (cmdMemStatus r c s) = clock s := by simp [cmdMemStatus]

@[simp] theorem clock_cmdPortStatus (r : RingNo) (c : RingCmd) (s : State) : clock (cmdPortStatus r c s) = clock s := by
  simp [cmdPortStatus]

@[simp] theorem clock_cmdOpenFlow (r : RingNo) (c : RingCmd) (s : State) : clock (cmdOpenFlow r c s) = clock s := by simp [cmdOpenFlow]
@[simp] theorem clock_cmdCloseFlow (r : RingNo) (c : RingCmd) (s : State) : clock (cmdCloseFlow r c s) = clock s := by simp [cmdCloseFlow]
@[simp] theorem clock_cmdSeatInt (r : RingNo) (c : RingCmd) (s : State) : clock (cmdSeatInt r c s) = clock s := by simp [cmdSeatInt]

end Sys2Proof.Machine
end

section
/-! What keeps the count of epoch time (R541): vector, tile, matrix and system instructions, and the issue of words (R108 to R191, R264 to
R273). -/

namespace Sys2Proof.Machine

@[simp] theorem clock_vecBegin (r : SeatRef) (i : Instr) {f : State → State} (hf : ∀ t, clock (f t) = clock t) (s : State) :
    clock (vecBegin r i f s) = clock s := by
  simp [vecBegin, hf]

@[simp] theorem clock_vecIssue (r : SeatRef) (i : Instr) {f : State → State} (hf : ∀ t, clock (f t) = clock t) (s : State) :
    clock (vecIssue r i f s) = clock s := by
  simp [vecIssue, hf]

@[simp] theorem clock_flagNonfinite (b : Bool) (s : State) : clock (flagNonfinite b s) = clock s := by simp [flagNonfinite]

@[simp] theorem clock_lanewise (r : SeatRef) (w : VecWord) (bad : Bool) (srcs : List RegNo) (f : Seat → Nat → Nat) (flag : Nat → Bool) (s :
    State) :
    clock (lanewise r w bad srcs f flag s) = clock s := by simp [lanewise]

@[simp] theorem clock_vecIntOp (r : SeatRef) (op : VIntOp) (w : VecWord) (s : State) : clock (vecIntOp r op w s) = clock s := by
  simp [vecIntOp]

@[simp] theorem clock_vecFpOp (r : SeatRef) (op : VFpOp) (w : VecWord) (s : State) : clock (vecFpOp r op w s) = clock s := by
  unfold vecFpOp
  split <;> simp

@[simp] theorem clock_vecFma (r : SeatRef) (w : VecWord) (s : State) : clock (vecFma r w s) = clock s := by
  unfold vecFma
  split <;> simp

@[simp] theorem clock_vecCompare (r : SeatRef) (op : VCmpOp) (w : VecWord) (s : State) : clock (vecCompare r op w s) = clock s := by
  unfold vecCompare
  dsimp only
  split <;> simp

@[simp] theorem clock_vcvt (r : SeatRef) (src dst : CvtFmt) (w : VecWord) (s : State) : clock (vcvt r src dst w s) = clock s := by
  simp [vcvt]

@[simp] theorem clock_vbx (r : SeatRef) (w : VecWord) (s : State) : clock (vbx r w s) = clock s := by simp [vbx]

@[simp] theorem clock_vecPermute (r : SeatRef) (op : BitVec 4) (w : VecWord) (s : State) : clock (vecPermute r op w s) = clock s := by
  simp [vecPermute]

@[simp] theorem clock_vecReduction (r : SeatRef) (op : RedOp) (w : VecWord) (s : State) : clock (vecReduction r op w s) = clock s := by
  refine clock_checked r _ ?_
  dsimp only
  split <;> simp

@[simp] theorem clock_vmov (r : SeatRef) (form : VMovForm) (w : VecWord) (s : State) : clock (vmov r form w s) = clock s := by
  unfold vmov
  split <;> simp

@[simp] theorem clock_scalarFpOp (r : SeatRef) (op : SFpOp) (w : VecWord) (s : State) : clock (scalarFpOp r op w s) = clock s := by
  unfold scalarFpOp
  split <;> simp

@[simp] theorem clock_elemCheck (r : SeatRef) (a : Acc) (va w : Nat) (s : State) : clock (elemCheck r a va w s).2 = clock s := by
  unfold elemCheck
  split <;> simp

@[simp] theorem clock_checkElems (r : SeatRef) (a : Acc) (va : Nat → Nat) (w low : Nat) (ff : Bool) (l : List Nat) (s : State) :
    clock (checkElems r a va w low ff l s).s = clock s := by
  induction l generalizing s with
  | nil => rfl
  | cons i is ih =>
    unfold checkElems
    split
    next h => exact clock_of_snd h (clock_elemCheck r a (va i) w s)
    next h =>
      split
      · exact clock_of_snd h (clock_elemCheck r a (va i) w s)
      · exact (ih _).trans (clock_of_snd h (clock_elemCheck r a (va i) w s))

@[simp] theorem clock_loadElem (r : SeatRef) (w i : Nat) (p : Phys) (g : Gathered) : clock (loadElem r w i p g).s = clock g.s := by
  simp [loadElem, Gathered.elem]

@[simp] theorem clock_loadElems (r : SeatRef) (w : Nat) (es : List (Nat × Phys)) (s : State) : clock (loadElems r w es s).s = clock s :=
  foldl_proj (fun g => clock g.s) _ (fun g e => clock_loadElem r w e.1 e.2 g) es _

@[simp] theorem clock_putLoaded (r : SeatRef) (w : VecWord) (act k : Nat) (g : Gathered) :
    clock (putLoaded r w act k g) = clock g.s := clock_of_time rfl

@[simp] theorem clock_vld (r : SeatRef) (w : VecWord) (s : State) : clock (vld r w s) = clock s := by
  refine clock_checked r _ ?_
  dsimp only
  split <;> simp

@[simp] theorem clock_vldff (r : SeatRef) (w : VecWord) (s : State) : clock (vldff r w s) = clock s := by
  refine clock_checked r _ ?_
  dsimp only
  split <;> simp

@[simp] theorem clock_storeRun (r : SeatRef) (s : State) (x : Run) : clock (storeRun r s x) = clock s := by simp [storeRun]

@[simp] theorem clock_vst (r : SeatRef) (w : VecWord) (s : State) : clock (vst r w s) = clock s := by
  refine clock_checked r _ ?_
  dsimp only
  split <;> simp

@[simp] theorem clock_stopped (r : SeatRef) (k : Nat) (s : State) : clock (stopped r k s) = clock s := clock_of_time rfl

@[simp] theorem clock_indexCheck (r : SeatRef) (a : Acc) (t : Seat) (w : VecWord) (i : Nat) (s : State) :
    clock (indexCheck r a t w i s).2 = clock s := by
  unfold indexCheck
  dsimp only
  split
  · rfl
  · split
    next h => exact clock_of_snd h (clock_elemCheck r a _ _ s)
    next => simp

@[simp] theorem clock_gatherElems (r : SeatRef) (t : Seat) (w : VecWord) (low : Nat) (ff : Bool) (l : List Nat) (g : Gathered) :
    clock (gatherElems r t w low ff l g).g.s = clock g.s := by
  induction l generalizing g with
  | nil => rfl
  | cons i is ih =>
    unfold gatherElems
    dsimp only
    split
    all_goals next h =>
      have hu := clock_of_snd h (clock_indexCheck r .load t w i g.s)
      split <;> simp [ih, hu]

@[simp] theorem clock_gather (r : SeatRef) (ff : Bool) (w : VecWord) (lim : Option Nat) (s : State) :
    clock (gather r ff w lim s) = clock s := by
  unfold gather
  dsimp only
  split <;> simp

@[simp] theorem clock_scatterElems (r : SeatRef) (t : Seat) (w : VecWord) (l : List Nat) (s : State) :
    clock (scatterElems r t w l s).1 = clock s := by
  induction l generalizing s with
  | nil => rfl
  | cons i is ih =>
    unfold scatterElems
    split
    all_goals next h => simp [ih, clock_of_snd h (clock_indexCheck r .store t w i s)]

@[simp] theorem clock_scatter (r : SeatRef) (w : VecWord) (lim : Option Nat) (s : State) : clock (scatter r w lim s) = clock s := by
  unfold scatter
  dsimp only
  split <;> simp

@[simp] theorem clock_vlut (r : SeatRef) (w : VecWord) (s : State) : clock (vlut r w s) = clock s := by simp [vlut]

@[simp] theorem clock_ransLane (r : SeatRef) (t : Seat) (tile n : Nat) (k : Round) (x : Nat) :
    clock (ransLane r t tile n k x).s = clock k.s := by
  unfold ransLane
  dsimp only
  split
  · rfl
  · split
    · rfl
    · split
      next h => exact clock_of_snd h (clock_translate r .load _ k.s)
      next h =>
        have hu := clock_of_snd h (clock_translate r .load _ k.s)
        split <;> simp [hu]

@[simp] theorem clock_ransRound (r : SeatRef) (w : RansWord) (s : State) : clock (ransRound r w s).s = clock s := by
  unfold ransRound
  exact foldl_proj (fun k : Round => clock k.s) _ (fun k x => clock_ransLane r _ _ _ k x) _ _

@[simp] theorem clock_vransSingle (r : SeatRef) (w : RansWord) (s : State) : clock (vransSingle r w s) = clock s := by
  refine clock_checked r _ ?_
  dsimp only
  split
  · simp
  · split <;> simp

/-- The state that a translation of pieces leaves, whether or not all may be written. -/
def piecesState : (List (Phys × Nat × Nat) × State) ⊕ (Nat × Nat × State) → State
  | .inl (_, t) => t
  | .inr (_, _, t) => t

theorem clock_storePieces (r : SeatRef) (va d : Nat) (l : List (Nat × Nat)) (s : State) :
    clock (piecesState (storePieces r va d l s)) = clock s := by
  induction l generalizing s with
  | nil => rfl
  | cons x ps ih =>
    unfold storePieces
    split
    next h => exact clock_of_snd h (clock_translate r .store _ s)
    next p t h =>
      have ht := clock_of_snd h (clock_translate r .store _ s)
      split
      · exact ht
      · have hps := (ih t).trans ht
        split <;> simp_all [piecesState]

theorem clock_of_storePieces {r : SeatRef} {va d : Nat} {l : List (Nat × Nat)} {s : State}
    {x : (List (Phys × Nat × Nat) × State) ⊕ (Nat × Nat × State)} (h : storePieces r va d l s = x) : clock (piecesState x) = clock s :=
  h ▸ clock_storePieces r va d l s

@[simp] theorem clock_ransBlockRound (r : SeatRef) (w : RansWord) (round : Nat) (s : State) :
    clock (ransBlockRound r w round s).1 = clock s := by
  unfold ransBlockRound
  dsimp only
  split
  · simp
  · split
    next h => exact (clock_of_storePieces h).trans (clock_ransRound r w s)
    next ps u h =>
      have hu : clock u = clock s := (clock_of_storePieces h).trans (clock_ransRound r w s)
      split <;> simp [hu]

-- a round is abstracted here, because Lean would evaluate its 64 lanes to give the equations of `ransRounds`

theorem ransRounds_succ_of_some {r : SeatRef} {w : RansWord} {i : Nat} {s t : State} {e : Nat × Nat} (n : Nat)
    (h : ransBlockRound r w i s = (t, some e)) : ransRounds r w (n + 1) i s = (i, t, some e) := by
  delta ransRounds ransRounds._f
  generalize ransBlockRound r w = f at h ⊢
  simp [h]

theorem ransRounds_succ_of_none {r : SeatRef} {w : RansWord} {i : Nat} {s t : State} (n : Nat)
    (h : ransBlockRound r w i s = (t, none)) : ransRounds r w (n + 1) i s = ransRounds r w n (i + 1) t := by
  delta ransRounds ransRounds._f
  generalize ransBlockRound r w = f at h ⊢
  simp [h]

@[simp] theorem clock_ransRounds (r : SeatRef) (w : RansWord) (n i : Nat) (s : State) : clock (ransRounds r w n i s).2.1 = clock s := by
  induction n generalizing i s with
  | zero => rfl
  | succ n ih =>
    have hround := clock_ransBlockRound r w i s
    rcases h : ransBlockRound r w i s with ⟨t, _ | e⟩
    · rw [ransRounds_succ_of_none n h, ih, clock_of_fst h hround]
    · rw [ransRounds_succ_of_some n h, clock_of_fst h hround]

@[simp] theorem clock_ransBlock (r : SeatRef) (w : RansWord) (n : Nat) (lim : Option Nat) (s : State) :
    clock (ransBlock r w n lim s) = clock s := by
  refine clock_checkedAt r _ _ ?_
  dsimp only
  split <;> simp

@[simp] theorem clock_vransBlock (r : SeatRef) (w : RansWord) (lim : Option Nat) (s : State) : clock (vransBlock r w lim s) = clock s := by
  refine clock_checkedAt r _ _ ?_
  dsimp only
  split <;> simp

@[simp] theorem clock_shapedAt (r : SeatRef) (prog : Nat) (cs : List (Bool × Nat)) {f : State → State} {s : State}
    (hf : clock (f s) = clock s) : clock (shapedAt r prog cs f s) = clock s := by
  unfold shapedAt
  split
  · simp
  · exact hf

@[simp] theorem clock_shaped (r : SeatRef) (cs : List (Bool × Nat)) {f : State → State} {s : State}
    (hf : clock (f s) = clock s) : clock (shaped r cs f s) = clock s := clock_shapedAt r 0 cs hf

@[simp] theorem clock_placeRow (r : SeatRef) (a : Acc) (va : Nat) (l : List (Nat × Nat)) (s : State) :
    clock (placeRow r a va l s).s = clock s := by
  induction l generalizing s with
  | nil => rfl
  | cons x cs ih =>
    unfold placeRow
    split
    next h => exact clock_of_snd h (clock_translate r a _ s)
    next h =>
      have ht := clock_of_snd h (clock_translate r a _ s)
      split
      · exact ht
      · exact (ih _).trans ht

@[simp] theorem clock_loadAround (r : SeatRef) (p : Phys) (n : Nat) (s : State) : clock (loadAround r p n s).2 = clock s := by
  unfold loadAround
  dsimp only
  repeat' split
  all_goals simp

@[simp] theorem clock_storeAround (r : SeatRef) (p : Phys) (n d : Nat) (q : BitVec 4) (s : State) :
    clock (storeAround r p n d q s) = clock s := by
  unfold storeAround
  dsimp only
  split
  · simp
  · split
    · refine (clock_of_time rfl).trans (clock_evictCopy ..)
    · simp

@[simp] theorem clock_loadRow (r : SeatRef) (ps : List (Nat × Nat × Phys)) (s : State) : clock (loadRow r ps s).2.2 = clock s :=
  foldl_proj (fun x : Nat × Nat × State => clock x.2.2) _ (fun x p => by simp) ps _

@[simp] theorem clock_storeRow (r : SeatRef) (ps : List (Nat × Nat × Phys)) (d m : Nat) (s : State) :
    clock (storeRow r ps d m s) = clock s := by simp [storeRow]

@[simp] theorem clock_countRow (s : State) (slot fmt d len : Nat) : clock (countRow s slot fmt d len) = clock s := by simp [countRow]

@[simp] theorem clock_putRow (r : SeatRef) (w : TileWord) (j d m : Nat) (s : State) : clock (putRow r w j d m s) = clock s :=
  clock_of_time rfl

@[simp] theorem clock_moveRow (r : SeatRef) (w : TileWord) (load : Bool) (j : Nat) (s : State) : clock (moveRow r w load j s).1 = clock s := by
  unfold moveRow
  dsimp only
  split
  · simp
  · split <;> simp

@[simp] theorem clock_moveRows (r : SeatRef) (w : TileWord) (load : Bool) (n j : Nat) (s : State) :
    clock (moveRows r w load n j s).2.1 = clock s := by
  induction n generalizing j s with
  | zero => rfl
  | succ n ih =>
    unfold moveRows
    split
    all_goals next h => simp [ih, clock_of_fst h (clock_moveRow r w load j s)]

@[simp] theorem clock_tileMove (r : SeatRef) (w : TileWord) (load : Bool) (lim : Option Nat) (s : State) :
    clock (tileMove r w load lim s) = clock s := by
  refine clock_shapedAt r _ _ (clock_checkedAt r _ _ ?_)
  dsimp only
  split
  · simp
  · split <;> simp

@[simp] theorem clock_trel (r : SeatRef) (t : BitVec 3) (g : Bool) (rsv : BitVec 22) (s : State) : clock (trel r t g rsv s) = clock s := by
  simp [trel]

@[simp] theorem clock_tgrpSwitch (r : SeatRef) (t : BitVec 3) (on : Bool) (s : State) : clock (tgrpSwitch r t on s) = clock s := by
  simp [tgrpSwitch]

@[simp] theorem clock_tgrp (r : SeatRef) (t : BitVec 3) (on : Bool) (rsv : BitVec 22) (s : State) : clock (tgrp r t on rsv s) = clock s := by
  simp [tgrp]

@[simp] theorem clock_tgrpResume (c : Fin 96) (s : State) : clock (tgrpResume c s) = clock s := by
  refine clock_foldl _ (fun t i => ?_) _ _
  dsimp only
  split <;> simp

@[simp] theorem clock_arrayFault (r : SeatRef) (a : Nat) (s : State) : clock (arrayFault r a s) = clock s := by simp [arrayFault]

@[simp] theorem clock_samplePass (c : Nat) (s : State) : clock (samplePass c s) = clock s := by
  unfold samplePass
  repeat' split
  all_goals simp

@[simp] theorem clock_sampleMma (c : Nat) (w : MmaWord) (job : SampleJob) (s : State) : clock (sampleMma c w job s) = clock s := by
  unfold sampleMma
  split <;> simp

@[simp] theorem clock_mmaRun (r : SeatRef) (z : Bool) (w : MmaWord) (u : ArrayUpset) (s : State) : clock (mmaRun r z w u s) = clock s := by
  simp [mmaRun]

@[simp] theorem clock_mma (r : SeatRef) (z : Bool) (w : MmaWord) (u : ArrayUpset) (s : State) : clock (mma r z w u s) = clock s :=
  clock_checked r _ (clock_shaped r _ (clock_checked r _ (clock_mmaRun r z w u s)))

@[simp] theorem clock_cvtRun (r : SeatRef) (w : CvtWord) (f : Fmt) (s : State) : clock (cvtRun r w f s) = clock s := by simp [cvtRun]

@[simp] theorem clock_tcvt (r : SeatRef) (w : CvtWord) (s : State) : clock (tcvt r w s) = clock s := by
  unfold tcvt
  dsimp only
  split
  · simp
  · exact clock_checked r _ (clock_shaped r _ (clock_checked r _ (clock_cvtRun r w _ s)))

@[simp] theorem clock_crd (r : SeatRef) (w : SysWord) (s : State) : clock (crd r w s) = clock s := by
  unfold crd
  split <;> simp

@[simp] theorem clock_cwrStore (r : SeatRef) (num v : Nat) (s : State) : clock (cwrStore r num v s) = clock s := by
  unfold cwrStore
  split <;> simp

@[simp] theorem clock_cwrTo (r : SeatRef) (num : Nat) (rs1 : RegNo) (bad : Bool) (s : State) : clock (cwrTo r num rs1 bad s) = clock s := by
  simp [cwrTo]

@[simp] theorem clock_eret (r : SeatRef) (w : SysWord) (s : State) : clock (eret r w s) = clock s := by simp [eret]
@[simp] theorem clock_fenceModule (r : SeatRef) (s : State) : clock (fenceModule r s) = clock s := by simp [fenceModule]
@[simp] theorem clock_fence (r : SeatRef) (w : FenceWord) (s : State) : clock (fence r w s) = clock s := by simp [fence]
@[simp] theorem clock_tlbinv (r : SeatRef) (w : TlbWord) (s : State) : clock (tlbinv r w s) = clock s := by simp [tlbinv]

@[simp] theorem clock_cleanCopy (c tag : Nat) (host : Bool) (s : State) : clock (cleanCopy c tag host s) = clock s := by
  unfold cleanCopy
  dsimp only
  split <;> simp

@[simp] theorem clock_discardCopy (c tag : Nat) (host : Bool) (s : State) : clock (discardCopy c tag host s) = clock s := clock_of_time rfl

@[simp] theorem clock_llcClean (line : Nat) (s : State) : clock (llcClean line s) = clock s := by
  unfold llcClean
  split <;> simp

@[simp] theorem clock_llcDiscard (line : Nat) (s : State) : clock (llcDiscard line s) = clock s := clock_of_time rfl

@[simp] theorem clock_newestLine (c tag : Nat) (s : State) : clock (newestLine c tag s).2 = clock s := by
  unfold newestLine
  dsimp only
  split <;> simp

@[simp] theorem clock_settleQueue (line : Nat) (s : State) : clock (settleQueue line s) = clock s := clock_waitPinned line _ s
@[simp] theorem clock_deadLine (tag : Nat) (d : BitVec 1024) (s : State) : clock (deadLine tag d s) = clock s := by simp [deadLine]

@[simp] theorem clock_maintLine (op : MaintOp) (r : SeatRef) (host poc : Bool) (tag : Nat) (s : State) :
    clock (maintLine op r host poc tag s) = clock s := by
  unfold maintLine
  repeat' split
  all_goals simp

@[simp] theorem clock_maintAddr (op : MaintOp) (r : SeatRef) (poc : Bool) (va : Nat) (s : State) :
    clock (maintAddr op r poc va s) = clock s := by
  unfold maintAddr
  split
  all_goals next h => simp [clock_of_snd h (clock_translate r _ va s)]

@[simp] theorem clock_swCopy (op : MaintOp) (c way : Nat) (s : State) : clock (swCopy op c way s) = clock s := by
  unfold swCopy
  dsimp only
  split <;> simp

@[simp] theorem clock_swLlc (op : MaintOp) (slice set way : Nat) (s : State) : clock (swLlc op slice set way s) = clock s := by
  unfold swLlc
  dsimp only
  split <;> simp

@[simp] theorem clock_maintSw (op : MaintOp) (r : SeatRef) (v : Nat) (s : State) : clock (maintSw op r v s) = clock s := by
  unfold maintSw
  split <;> simp

@[simp] theorem clock_maint (op : MaintOp) (r : SeatRef) (w : MaintWord) (s : State) : clock (maint op r w s) = clock s := by simp [maint]
@[simp] theorem clock_cordsig (r : SeatRef) (w : CordWord) (s : State) : clock (cordsig r w s) = clock s := by simp [cordsig]
@[simp] theorem clock_cordwait (r : SeatRef) (w : CordWord) (s : State) : clock (cordwait r w s) = clock s := by simp [cordwait]

@[simp] theorem clock_cordSatisfied (r : SeatRef) (s : State) : clock (cordSatisfied r s) = clock s := by
  unfold cordSatisfied
  split <;> simp

@[simp] theorem clock_vecRun (i : Instr) (s : State) : clock (vecRun i s) = clock s := by
  unfold vecRun
  split <;> simp

@[simp] theorem clock_dispatchQueue (c : Fin 96) (s : State) : clock (dispatchQueue c s) = clock s := by simp [dispatchQueue]
@[simp] theorem clock_dispatchQueues (s : State) : clock (dispatchQueues s) = clock s := by simp [dispatchQueues]
@[simp] theorem clock_vecEnter (r : SeatRef) (i : Instr) (s : State) : clock (vecEnter r i s) = clock s := by simp [vecEnter]

@[simp] theorem clock_instrRun (i : Instr) (s : State) : clock (instrRun i s) = clock s := by
  unfold instrRun
  split <;> simp

@[simp] theorem clock_fetchILine (c tag : Nat) (host : Bool) (s : State) : clock (fetchILine c tag host s).2 = clock s := by
  unfold fetchILine
  split <;> simp

@[simp] theorem clock_fetchWord (r : SeatRef) (va : Nat) (second : Bool) (s : State) : clock (fetchWord r va second s).2 = clock s := by
  unfold fetchWord
  split
  · rfl
  · split
    next h => exact clock_of_snd h (clock_translate r .fetch va s)
    next p t h =>
      have ht := clock_of_snd h (clock_translate r .fetch va s)
      cases hp : p.cached <;> simp [ht, apply_ite Prod.snd]

@[simp] theorem clock_fetchInstr (r : SeatRef) (s : State) : clock (fetchInstr r s).2 = clock s := by
  unfold fetchInstr
  dsimp only
  split
  next h => exact clock_of_snd h (clock_fetchWord r _ false s)
  next h =>
    have ht := clock_of_snd h (clock_fetchWord r _ false s)
    split
    · exact ht
    · split
      all_goals next h' => exact (clock_of_snd h' (clock_fetchWord r _ true _)).trans ht

@[simp] theorem clock_countBeat (c : Nat) (s : State) : clock (countBeat c s) = clock s := by simp [countBeat]

@[simp] theorem clock_runFetched (r : SeatRef) (f : Fetched × Nat) (s : State) : clock (runFetched r f s) = clock s := by
  unfold runFetched
  repeat' split
  all_goals simp

@[simp] theorem clock_runSecond (r : SeatRef) (w : Nat) (next : Word) (s : State) : clock (runSecond r w next s) = clock s := by
  unfold runSecond
  split
  · rfl
  · split
    next h => simp [clock_of_snd h (clock_fetchInstr r s)]
    next => rfl

@[simp] theorem clock_takeAll (c : Fin 96) (s : State) : clock (takeAll c s) = clock s := by simp [takeAll]

@[simp] theorem clock_issueBeat (c : Fin 96) (s : State) : clock (issueBeat c s) = clock s := by
  unfold issueBeat
  dsimp only
  repeat' split
  all_goals simp

end Sys2Proof.Machine
end

section
/-! What keeps the count of epoch time (R541): supply and reset (R9, R21, R519, R630 to R633). -/

namespace Sys2Proof.Machine

@[simp] theorem clock_consistUp (s : State) : clock (consistUp s) = clock s := by simp [consistUp]
@[simp] theorem clock_railsUp (s : State) : clock (railsUp s) = clock s := clock_of_time rfl
@[simp] theorem clock_imageVerified (s : State) (comp : FwComp) : clock (imageVerified s comp) = clock s := by simp [imageVerified]
@[simp] theorem clock_hostAssert (s : State) : clock (hostAssert s) = clock s := clock_of_time rfl

/-- R9: HOST_RST_N leaves the time window as it is. -/
@[simp] theorem clock_hostDeassert (s : State) : clock (hostDeassert s) = clock s := by
  unfold hostDeassert
  split
  · rfl
  · exact (clock_consistUp _).trans rfl

@[simp] theorem clock_allTrained (s : State) : clock (allTrained s) = clock s := clock_of_time rfl
@[simp] theorem clock_trainedReady (s : State) : clock (trainedReady s) = clock s := by simp [trainedReady]
@[simp] theorem clock_linkUp (s : State) (rate lanes : Nat) : clock (linkUp s rate lanes) = clock s := by simp [linkUp]
@[simp] theorem clock_linkLost (s : State) : clock (linkLost s) = clock s := clock_of_time rfl
@[simp] theorem clock_ideFailure (s : State) (io : Bool) : clock (ideFailure s io) = clock s := by simp [ideFailure]

@[simp] theorem clock_functionReset (s : State) : clock (functionReset s) = clock s := by
  have hstop : clock (functionReset s) = clock (s.stopModule 4) := by
    unfold functionReset
    rw [clock_boxReset, clock_boundaryRun, clock_updRings]
    exact clock_of_reading rfl
  rw [hstop, clock_stopModule]

@[simp] theorem clock_presentChange (s : State) (seated : Bool) : clock (presentChange s seated) = clock s := by simp [presentChange]
@[simp] theorem clock_cmdPowerOn (ask : Ticket) (pl : List Byte) (s : State) : clock (cmdPowerOn ask pl s) = clock s := by simp [cmdPowerOn]

end Sys2Proof.Machine
end

section
/-! What keeps the count of epoch time (R541): the commands whose meaning is written out in `exec`’s own functions. -/

namespace Sys2Proof.Machine

theorem keepsClock_execPpsLossHoldover (s : State) : KeepsClock s (execPpsLossHoldover s) := by simp [execPpsLossHoldover]
theorem keepsClock_execHoldoverAlarm (s : State) : KeepsClock s (execHoldoverAlarm s) := by simp [execHoldoverAlarm]
theorem keepsClock_execTimeOfDayTimeout (s : State) : KeepsClock s (execTimeOfDayTimeout s) := by simp [execTimeOfDayTimeout]
theorem keepsClock_execPpsOutPulse (s : State) : KeepsClock s (execPpsOutPulse s) := by simp [execPpsOutPulse]
theorem keepsClock_execPpsOutPulseEnd (s : State) : KeepsClock s (execPpsOutPulseEnd s) := by simp [execPpsOutPulseEnd]
theorem keepsClock_execPpsSourceMissing (s : State) : KeepsClock s (execPpsSourceMissing s) := by simp [execPpsSourceMissing]
theorem keepsClock_execEpochAlarmFire (a : Fin 240) (s : State) : KeepsClock s (execEpochAlarmFire a s) := by simp [execEpochAlarmFire]

theorem keepsClock_execLlcMissFill (line : BitVec 43) (s : State) : KeepsClock s (execLlcMissFill line s) := by
  unfold execLlcMissFill
  split <;> simp

theorem keepsClock_execMemoryRead (cw : BitVec 45) (upset : Option (Fin 36 × Byte)) (s : State) :
    KeepsClock s (execMemoryRead cw upset s) := by
  unfold execMemoryRead
  split <;> simp

theorem keepsClock_execMemoryWrite (cw : BitVec 45) (data : BitVec 256) (poison dead : Bool) (s : State) :
    KeepsClock s (execMemoryWrite cw data poison dead s) := by
  unfold execMemoryWrite
  split <;> simp

theorem keepsClock_execCorrectedWriteback (stack : Stack) (s : State) : KeepsClock s (execCorrectedWriteback stack s) := by
  unfold execCorrectedWriteback
  split <;> simp

theorem keepsClock_execNarrowRequestIssue (stack : Stack) (n : Fin 4096) (s : State) : KeepsClock s (execNarrowRequestIssue stack n s) := by
  refine .next ?_
  dsimp only
  split <;> simp

theorem keepsClock_execScrubRead (pc : Fin 512) (upset : Option (Fin 36 × Byte)) (s : State) : KeepsClock s (execScrubRead pc upset s) := by
  refine .next ?_
  dsimp only
  repeat' split
  all_goals simp

theorem keepsClock_execRowRetire (pc : Fin 512) (row : BitVec 31) (s : State) : KeepsClock s (execRowRetire pc row s) := by
  simp [execRowRetire]

theorem keepsClock_execRowRetireComplete (pc : Fin 512) (s : State) : KeepsClock s (execRowRetireComplete pc s) := by
  unfold execRowRetireComplete
  split <;> simp

theorem keepsClock_execPseudoChannelMoveComplete (pc : Fin 512) (s : State) : KeepsClock s (execPseudoChannelMoveComplete pc s) := by
  simp [execPseudoChannelMoveComplete]

theorem keepsClock_execRefreshRateChange (stack : Stack) (temp : BitVec 16) (s : State) :
    KeepsClock s (execRefreshRateChange stack temp s) := by simp [execRefreshRateChange]

theorem keepsClock_execChannelRetrainStart (stack : Stack) (channel : Fin 32) (s : State) :
    KeepsClock s (execChannelRetrainStart stack channel s) := by simp [execChannelRetrainStart]

theorem keepsClock_execPhaseComplete (ch : Fin 64) (s : State) : KeepsClock s (execPhaseComplete ch s) := by
  unfold execPhaseComplete
  split <;> simp

theorem keepsClock_execHaltNAssert (s : State) : KeepsClock s (execHaltNAssert s) := by simp [execHaltNAssert]

theorem keepsClock_execScheduledStopTime (s : State) : KeepsClock s (execScheduledStopTime s) := by
  unfold execScheduledStopTime
  split <;> simp

theorem keepsClock_execMicroFlitReceive (p : Port) (flit : Word) (rx : FlitRx) (s : State) :
    KeepsClock s (execMicroFlitReceive p flit rx s) := by simp [execMicroFlitReceive]

theorem keepsClock_execMicroFlitRepeat (p : Port) (s : State) : KeepsClock s (execMicroFlitRepeat p s) := by
  unfold execMicroFlitRepeat
  split <;> simp

theorem keepsClock_execHaltedResult (s : State) : KeepsClock s (execHaltedResult s) := by simp [execHaltedResult]
theorem keepsClock_execStickyOvfClear (ref : StatRef) (s : State) : KeepsClock s (execStickyOvfClear ref s) := by simp [execStickyOvfClear]

theorem keepsClock_execLaserFailure (e : Fin 4) (u : LaserUnit) (s : State) : KeepsClock s (execLaserFailure e u s) := by
  simp [execLaserFailure]

theorem keepsClock_execLaserTakeoverComplete (e : Fin 4) (s : State) : KeepsClock s (execLaserTakeoverComplete e s) := by
  simp [execLaserTakeoverComplete]

theorem keepsClock_execLaserSeated (e : Fin 4) (u : LaserUnit) (s : State) : KeepsClock s (execLaserSeated e u s) := by
  simp [execLaserSeated]

theorem keepsClock_execLaserQualified (e : Fin 4) (u : LaserUnit) (passed : Bool) (s : State) :
    KeepsClock s (execLaserQualified e u passed s) := by simp [execLaserQualified]

theorem keepsClock_execLaserUnseated (e : Fin 4) (u : LaserUnit) (s : State) : KeepsClock s (execLaserUnseated e u s) := by
  simp [execLaserUnseated]

theorem keepsClock_execLaneFailure (p : Port) (lane : Fin 9) (s : State) : KeepsClock s (execLaneFailure p lane s) := by
  refine .next ?_
  dsimp only
  repeat' split
  all_goals simp

theorem keepsClock_execLaneSubstitution (p : Port) (s : State) : KeepsClock s (execLaneSubstitution p s) := by
  unfold execLaneSubstitution
  split <;> simp

theorem keepsClock_execLaneRetest (p : Port) (lane : Fin 9) (passed : Bool) (s : State) : KeepsClock s (execLaneRetest p lane passed s) := by
  simp [execLaneRetest]

theorem keepsClock_execScaleoutPortDown (p : Port) (s : State) : KeepsClock s (execScaleoutPortDown p s) := by simp [execScaleoutPortDown]
theorem keepsClock_execScaleoutRetrain (p : Port) (s : State) : KeepsClock s (execScaleoutRetrain p s) := by simp [execScaleoutRetrain]

theorem keepsClock_execIdentityFrameReceive (p : CoupPort) (f : IdFrame) (s : State) : KeepsClock s (execIdentityFrameReceive p f s) := by
  simp [execIdentityFrameReceive]

theorem keepsClock_execCouplingHeldTimeout (p : CoupPort) (s : State) : KeepsClock s (execCouplingHeldTimeout p s) := by
  simp [execCouplingHeldTimeout]

theorem keepsClock_execMissingPartnerTimeout (p : CoupPort) (s : State) : KeepsClock s (execMissingPartnerTimeout p s) := by
  simp [execMissingPartnerTimeout]

theorem keepsClock_execDarkPortLight (p : Port) (s : State) : KeepsClock s (execDarkPortLight p s) := by simp [execDarkPortLight]

theorem keepsClock_execLldpReceive (p : Port) (chassis portId : List Byte) (s : State) :
    KeepsClock s (execLldpReceive p chassis portId s) := by
  unfold execLldpReceive
  repeat' split
  all_goals simp

theorem keepsClock_execLldpTimeout (p : Port) (s : State) : KeepsClock s (execLldpTimeout p s) := by simp [execLldpTimeout]
theorem keepsClock_execLldpSend (p : Port) (s : State) : KeepsClock s (execLldpSend p s) := by simp [execLldpSend]

theorem keepsClock_execPausePfcFrameReceive (p : Port) (s : State) : KeepsClock s (execPausePfcFrameReceive p s) := by
  simp [execPausePfcFrameReceive]

theorem keepsClock_execFrameSend (p : Port) (s : State) : KeepsClock s (execFrameSend p s) := by
  unfold execFrameSend
  split <;> simp

theorem keepsClock_execAckTimer (flow : FlowNo) (s : State) : KeepsClock s (execAckTimer flow s) := by simp [execAckTimer]

theorem keepsClock_execRateControlInterval (flow : FlowNo) (s : State) : KeepsClock s (execRateControlInterval flow s) := by
  simp [execRateControlInterval]

theorem keepsClock_execScaleoutFlowMove (s : State) : KeepsClock s (execScaleoutFlowMove s) := by simp [execScaleoutFlowMove]
theorem keepsClock_execCouplingRelay (dest : Fin 8) (s : State) : KeepsClock s (execCouplingRelay dest s) := by simp [execCouplingRelay]

theorem keepsClock_execMoverStoppedClear (m : MoverNo) (s : State) : KeepsClock s (execMoverStoppedClear m s) := by
  simp [execMoverStoppedClear]

theorem keepsClock_execMoverTransferChunk (m : MoverNo) (s : State) : KeepsClock s (execMoverTransferChunk m s) := by
  unfold execMoverTransferChunk
  split <;> simp

theorem keepsClock_execMoverTranspose (m : MoverNo) (s : State) : KeepsClock s (execMoverTranspose m s) := by
  unfold execMoverTranspose
  split <;> simp

theorem keepsClock_execMoverConvert (m : MoverNo) (s : State) : KeepsClock s (execMoverConvert m s) := by
  unfold execMoverConvert
  split <;> simp

theorem keepsClock_execMoverTconvert (m : MoverNo) (s : State) : KeepsClock s (execMoverTconvert m s) := by
  unfold execMoverTconvert
  split <;> simp

theorem keepsClock_execTmap (m : MoverNo) (s : State) : KeepsClock s (execTmap m s) := by
  unfold execTmap
  split <;> simp

theorem keepsClock_execTexch (m : MoverNo) (s : State) : KeepsClock s (execTexch m s) := by
  unfold execTexch
  split <;> simp

theorem keepsClock_execTenderBlockArrival (entry block gen n : Half) (vals : List Word32) (s : State) :
    KeepsClock s (execTenderBlockArrival entry block gen n vals s) := by
  unfold execTenderBlockArrival
  split <;> simp

theorem keepsClock_execCompatPartialReceive (layer leaf : Half) (qm qw : Word32) (s : State) :
    KeepsClock s (execCompatPartialReceive layer leaf qm qw s) := by simp [execCompatPartialReceive]

theorem keepsClock_execPaceMeterSample (s : State) : KeepsClock s (execPaceMeterSample s) := by simp [execPaceMeterSample]
theorem keepsClock_execPaceChange (s : State) : KeepsClock s (execPaceChange s) := by simp [execPaceChange]
theorem keepsClock_execPaceChangeComplete (s : State) : KeepsClock s (execPaceChangeComplete s) := by simp [execPaceChangeComplete]

theorem keepsClock_execTdpLimit (draw : Half) (tjW tjE : BitVec 16) (s : State) : KeepsClock s (execTdpLimit draw tjW tjE s) := by
  simp [execTdpLimit]

theorem keepsClock_execGovernorTick (draw : Half) (s : State) : KeepsClock s (execGovernorTick draw s) := by simp [execGovernorTick]
theorem keepsClock_execRampTimeReached (s : State) : KeepsClock s (execRampTimeReached s) := by simp [execRampTimeReached]

theorem keepsClock_execCoolantSample (inlet outlet : BitVec 16) (s : State) : KeepsClock s (execCoolantSample inlet outlet s) := by
  simp [execCoolantSample]

theorem keepsClock_execCoolDemUpdate (s : State) : KeepsClock s (execCoolDemUpdate s) := by simp [execCoolDemUpdate]
theorem keepsClock_execSupplyTrip (v : Half) (s : State) : KeepsClock s (execSupplyTrip v s) := by simp [execSupplyTrip]

theorem keepsClock_execThermalTrip (half : Fin 2) (tj : Half) (s : State) : KeepsClock s (execThermalTrip half tj s) := by
  simp [execThermalTrip]

theorem keepsClock_execLeakDetect (s : State) : KeepsClock s (execLeakDetect s) := by simp [execLeakDetect]
theorem keepsClock_execLeakClear (s : State) : KeepsClock s (execLeakClear s) := by simp [execLeakClear]

theorem keepsClock_execEnvironmentFault (q : EnvQuantity) (measured : Half) (s : State) :
    KeepsClock s (execEnvironmentFault q measured s) := by
  unfold execEnvironmentFault
  split <;> simp

theorem keepsClock_execEnvironmentFaultClear (q : EnvQuantity) (s : State) : KeepsClock s (execEnvironmentFaultClear q s) := by
  simp [execEnvironmentFaultClear]

theorem keepsClock_execNoCommitTimeout (s : State) : KeepsClock s (execNoCommitTimeout s) := by simp [execNoCommitTimeout]

theorem keepsClock_execProbationExpiry (s : State) : KeepsClock s (execProbationExpiry s) := by
  unfold execProbationExpiry
  split <;> simp

theorem keepsClock_execStepContribution (commit : Bool) (s : State) : KeepsClock s (execStepContribution commit s) := by
  simp [execStepContribution]

theorem keepsClock_execWaybillMirrorReceive (entry : List Byte) (s : State) : KeepsClock s (execWaybillMirrorReceive entry s) := by
  unfold execWaybillMirrorReceive
  split <;> simp

theorem keepsClock_execPeerLost (position : Fin 8) (s : State) : KeepsClock s (execPeerLost position s) := by
  refine .next ?_
  dsimp only
  repeat' split
  all_goals simp

theorem keepsClock_execRingDrained (r : RingNo) (s : State) : KeepsClock s (execRingDrained r s) := by simp [execRingDrained]
theorem keepsClock_execMsixUnmask (vec : Fin 64) (s : State) : KeepsClock s (execMsixUnmask vec s) := by simp [execMsixUnmask]

theorem keepsClock_execMgmtMessageReceive (path : Path) (bytes : List Byte) (s : State) :
    KeepsClock s (execMgmtMessageReceive path bytes s) := by simp [execMgmtMessageReceive]

theorem keepsClock_execMgmtGo (v : Word32) (s : State) : KeepsClock s (execMgmtGo v s) := by simp [execMgmtGo]

theorem keepsClock_execMgmtResponseReady (s : State) : KeepsClock s (execMgmtResponseReady s) := by
  unfold execMgmtResponseReady
  split <;> simp

theorem keepsClock_execSessionIdleTimeout (sid : Word32) (s : State) : KeepsClock s (execSessionIdleTimeout sid s) := by
  simp [execSessionIdleTimeout]

theorem keepsClock_execPathLockoutExpiry (path : Path) (s : State) : KeepsClock s (execPathLockoutExpiry path s) := by
  simp [execPathLockoutExpiry]

theorem keepsClock_execHalfReadLatch (requester : Byte) (reg : HalfReg) (high : Bool) (s : State) :
    KeepsClock s (execHalfReadLatch requester reg high s) := by simp [execHalfReadLatch]

theorem keepsClock_execDrainTimeout (sr : SeatRef) (s : State) : KeepsClock s (execDrainTimeout sr s) := by
  unfold execDrainTimeout
  split <;> simp

theorem keepsClock_execL1FillComplete (c : Fin 96) (upset : Option L1Upset) (s : State) : KeepsClock s (execL1FillComplete c upset s) := by
  refine .next ?_
  dsimp only
  repeat' split
  all_goals simp

theorem keepsClock_execWriteBufferTimeout (c : Fin 96) (s : State) : KeepsClock s (execWriteBufferTimeout c s) := by
  simp [execWriteBufferTimeout]

theorem keepsClock_execPrefetchIssue (c : Fin 96) (stream : Fin 16) (s : State) : KeepsClock s (execPrefetchIssue c stream s) := by
  refine .next ?_
  dsimp only
  split <;> simp

theorem keepsClock_execLlcAccess (req : LlcReq) (upset : BitVec 4) (s : State) : KeepsClock s (execLlcAccess req upset s) := by
  unfold execLlcAccess
  split <;> simp

theorem keepsClock_execCarriageFrameReceive (p : Port) (f : Frame) (symErrs : List Nat) (rx : FrameRx) (s : State) :
    KeepsClock s (execCarriageFrameReceive p f symErrs rx s) := by
  unfold execCarriageFrameReceive
  split <;> simp

theorem keepsClock_execUdpDatagramReceive (p : Port) (srcAddr : BitVec 128) (dstPort : Half) (f : Frame) (s : State) :
    KeepsClock s (execUdpDatagramReceive p srcAddr dstPort f s) := by
  unfold execUdpDatagramReceive
  split <;> simp

theorem keepsClock_execRemoteReadRequest (p : Port) (f : Frame) (s : State) : KeepsClock s (execRemoteReadRequest p f s) := by
  unfold execRemoteReadRequest
  split <;> simp

theorem keepsClock_execRemoteWrite (p : Port) (f : Frame) (s : State) : KeepsClock s (execRemoteWrite p f s) := by
  unfold execRemoteWrite
  split <;> simp

theorem keepsClock_execRemoteReadResponse (sr : SeatRef) (data : List Byte) (poison : Byte) (s : State) :
    KeepsClock s (execRemoteReadResponse sr data poison s) := by
  unfold execRemoteReadResponse
  split <;> simp

theorem keepsClock_execFwActivationComplete (comp : FwComp) (s : State) : KeepsClock s (execFwActivationComplete comp s) := by
  refine .next ?_
  dsimp only
  split <;> simp

theorem keepsClock_execFwSelfTestRevert (comp : FwComp) (s : State) : KeepsClock s (execFwSelfTestRevert comp s) := by
  refine .next ?_
  dsimp only
  repeat' split
  all_goals simp

theorem keepsClock_execRetrainWindow (passed : Option Bool) (s : State) : KeepsClock s (execRetrainWindow passed s) := by
  refine .next ?_
  dsimp only
  repeat' split
  all_goals simp

theorem keepsClock_execSensorRecalTimer (s : State) : KeepsClock s (execSensorRecalTimer s) := by simp [execSensorRecalTimer]

theorem keepsClock_execSensorCalibrationComplete (s : State) : KeepsClock s (execSensorCalibrationComplete s) := by
  unfold execSensorCalibrationComplete
  split <;> simp

theorem keepsClock_execRetrimTimer (s : State) : KeepsClock s (execRetrimTimer s) := by simp [execRetrimTimer]
theorem keepsClock_execCmdNop (r : RingNo) (idx : Word32) (s : State) : KeepsClock s (execCmdNop r idx s) := by simp [execCmdNop]
theorem keepsClock_execCmdResume (r : RingNo) (idx : Word32) (s : State) : KeepsClock s (execCmdResume r idx s) := by simp [execCmdResume]

theorem keepsClock_execCmdRestore (r : RingNo) (idx : Word32) (s : State) : KeepsClock s (execCmdRestore r idx s) := by
  simp [execCmdRestore]

theorem keepsClock_execVectorPipeGate (c : Fin 96) (s : State) : KeepsClock s (execVectorPipeGate c s) := by simp [execVectorPipeGate]
theorem keepsClock_execVectorPipeWake (c : Fin 96) (s : State) : KeepsClock s (execVectorPipeWake c s) := by simp [execVectorPipeWake]

theorem keepsClock_execVectorWakeComplete (c : Fin 96) (s : State) : KeepsClock s (execVectorWakeComplete c s) := by
  simp [execVectorWakeComplete]

theorem keepsClock_execCommitResult (s : State) : KeepsClock s (execCommitResult s) := by simp [execCommitResult]
theorem keepsClock_execSkipResult (s : State) : KeepsClock s (execSkipResult s) := by simp [execSkipResult]

theorem keepsClock_execSpdmIdeKeyExchange (io : Bool) (s : State) : KeepsClock s (execSpdmIdeKeyExchange io s) := by
  simp [execSpdmIdeKeyExchange]

theorem keepsClock_execFunctionLevelReset (s : State) : KeepsClock s (execFunctionLevelReset s) := by simp [execFunctionLevelReset]

end Sys2Proof.Machine
end

section
/-! Epoch time never steps backwards (R541): the commands that leave the count as it is. -/

namespace Sys2Proof.Machine

-- an edge at which no setting waits (R545 to R547)

theorem todDue_of_none {s : State} (h : s.time.tods = []) : todDue s = s := by
  simp [todDue, h]

theorem edgeState_reading (t : Time) (forced : Bool) : (edgeState t forced).ns = t.ns ∧ (edgeState t forced).frac = t.frac := by
  unfold edgeState
  split
  · exact ⟨rfl, rfl⟩
  · split <;> exact ⟨rfl, rfl⟩

/-- R546: an edge corrects the rate, and leaves the count to the settings that fall due. -/
theorem clock_acceptEdge (s : State) (forced : Bool) : clock (acceptEdge s forced) = clock (todDue s) :=
  clock_updTime _ fun m => edgeState_reading (edgeLoop m) forced

theorem bump_timeWindow_tods (s : State) (k : Nat) : (s.bump .timeWindow k).time.tods = s.time.tods := by
  unfold State.bump
  dsimp only
  split
  · rw [overflowed_time]
    rfl
  · rfl

theorem keepsClock_execPpsEdge {s : State} (h : s.time.tods = []) : KeepsClock s (execPpsEdge s) := by
  have hbump : (s.bump .timeWindow).time.tods = [] := by rw [bump_timeWindow_tods, h]
  unfold execPpsEdge
  simp [clock_acceptEdge, todDue_of_none h, todDue_of_none hbump]

/-- R540, R541: every command but a power-on, a setting of the time of day and an edge at which one falls due leaves the count as it is. -/
theorem keepsClock_exec (c : Instr) (s : State) (hmgmt : ∀ p, c ≠ .mgmtTimeOfDay p) (hring : ∀ r idx, c ≠ .cmdTimeOfDay r idx)
    (hpower : c ≠ .powerOn) (hedge : c = .ppsEdge → s.time.tods = []) : KeepsClock s (exec c s) := by
  cases c with
  | powerOn => exact absurd rfl hpower
  | imageVerifyComplete _ => exact .next (clock_imageVerified ..)
  | hostRstAssert => exact .next (clock_hostAssert ..)
  | hostRstDeassert => exact .next (clock_hostDeassert ..)
  | memoryTrainedReady => exact .next (clock_trainedReady ..)
  | cxlLinkUp _ _ => exact .next (clock_linkUp ..)
  | cxlLinkDown => exact .next (clock_linkLost ..)
  | ideIntegrityFailure _ => exact .next (clock_ideFailure ..)
  | functionLevelReset => exact keepsClock_execFunctionLevelReset ..
  | presentChange _ => exact .next (clock_presentChange ..)
  | issueBeat _ => exact .next (clock_issueBeat ..)
  | scalarIntRegOp _ _ _ _ _ => exact .next (clock_seatRun _ _ (clock_intReg ..))
  | scalarIntImmOp _ _ _ _ _ => exact .next (clock_seatRun _ _ (clock_intImm ..))
  | scalarLoad _ _ _ _ _ _ => exact .next (clock_seatRun _ _ (clock_scalarLoad ..))
  | scalarStore _ _ _ _ _ => exact .next (clock_seatRun _ _ (clock_scalarStore ..))
  | fpLoad _ _ _ _ _ => exact .next (clock_seatRun _ _ (clock_fpLoad ..))
  | fpStore _ _ _ _ _ => exact .next (clock_seatRun _ _ (clock_fpStore ..))
  | ladd _ _ _ _ _ _ => exact .next (clock_seatRun _ _ (clock_ladd ..))
  | laddApply _ => exact .next ((clock_pullHeld ..).trans (clock_sliceStep ..))
  | nearMemoryAdd _ => exact .next (clock_nearStep ..)
  | branchCond _ _ _ _ => exact .next (clock_seatRun _ _ (clock_branchCond ..))
  | jump _ _ => exact .next (clock_seatRun _ _ (clock_jump ..))
  | jr _ _ _ _ => exact .next (clock_seatRun _ _ (clock_jr ..))
  | call _ _ => exact .next (clock_seatRun _ _ (clock_call ..))
  | callr _ _ _ _ => exact .next (clock_seatRun _ _ (clock_callr ..))
  | ret _ _ _ _ => exact .next (clock_seatRun _ _ (clock_ret ..))
  | crd _ _ => exact .next (clock_seatRun _ _ (clock_crd ..))
  | cwr _ _ => exact .next (clock_seatRun _ _ (clock_cwrTo ..))
  | cwrSeatcfg _ _ => exact .next (clock_seatRun _ _ (clock_cwrTo ..))
  | cwrTfull _ _ => exact .next (clock_seatRun _ _ (clock_cwrTo ..))
  | cwrPtroot _ _ => exact .next (clock_seatRun _ _ (clock_cwrTo ..))
  | eret _ _ => exact .next (clock_seatRun _ _ (clock_eret ..))
  | sspsetSwitch _ _ => exact .next (clock_seatRun _ _ (clock_sspSwitch ..))
  | sspsetUnwind _ _ => exact .next (clock_seatRun _ _ (clock_sspUnwind ..))
  | fence _ _ => exact .next (clock_seatRun _ _ (clock_fence ..))
  | tlbinv _ _ => exact .next (clock_seatRun _ _ (clock_tlbinv ..))
  | cclean _ _ => exact .next (clock_seatRun _ _ (clock_maint ..))
  | cinval _ _ => exact .next (clock_seatRun _ _ (clock_maint ..))
  | cclinv _ _ => exact .next (clock_seatRun _ _ (clock_maint ..))
  | cdead _ _ => exact .next (clock_seatRun _ _ (clock_maint ..))
  | cordsig _ _ => exact .next (clock_seatRun _ _ (clock_cordsig ..))
  | cordwait _ _ => exact .next (clock_seatRun _ _ (clock_cordwait ..))
  | cordwaitSatisfied _ => exact .next (clock_cordSatisfied ..)
  | vecIntOp _ _ _ => exact .next (clock_vecIssue _ _ (fun t => clock_vecIntOp ..) s)
  | vecFpOp _ _ _ => exact .next (clock_vecIssue _ _ (fun t => clock_vecFpOp ..) s)
  | vecFma _ _ => exact .next (clock_vecIssue _ _ (fun t => clock_vecFma ..) s)
  | vecCompare _ _ _ => exact .next (clock_vecIssue _ _ (fun t => clock_vecCompare ..) s)
  | vcvt _ _ _ _ => exact .next (clock_vecIssue _ _ (fun t => clock_vcvt ..) s)
  | vecPermute _ _ _ => exact .next (clock_vecIssue _ _ (fun t => clock_vecPermute ..) s)
  | vbx _ _ => exact .next (clock_vecIssue _ _ (fun t => clock_vbx ..) s)
  | vecReduction _ _ _ => exact .next (clock_vecIssue _ _ (fun t => clock_vecReduction ..) s)
  | vmov _ _ _ => exact .next (clock_vecIssue _ _ (fun t => clock_vmov ..) s)
  | scalarFpOp _ _ _ => exact .next (clock_vecIssue _ _ (fun t => clock_scalarFpOp ..) s)
  | vld _ _ => exact .next (clock_vecIssue _ _ (fun t => clock_vld ..) s)
  | vldff _ _ => exact .next (clock_vecIssue _ _ (fun t => clock_vldff ..) s)
  | vst _ _ => exact .next (clock_vecIssue _ _ (fun t => clock_vst ..) s)
  | vgath _ _ _ => exact .next (clock_vecIssue _ _ (fun t => clock_gather ..) s)
  | vgathff _ _ _ => exact .next (clock_vecIssue _ _ (fun t => clock_gather ..) s)
  | vscat _ _ _ => exact .next (clock_vecIssue _ _ (fun t => clock_scatter ..) s)
  | vlut _ _ => exact .next (clock_vecIssue _ _ (fun t => clock_vlut ..) s)
  | vransSingle _ _ => exact .next (clock_vecIssue _ _ (fun t => clock_vransSingle ..) s)
  | vransBlock _ _ _ => exact .next (clock_vecIssue _ _ (fun t => clock_vransBlock ..) s)
  | vectorPipeGate _ => exact keepsClock_execVectorPipeGate ..
  | vectorPipeWake _ => exact keepsClock_execVectorPipeWake ..
  | vectorWakeComplete _ => exact keepsClock_execVectorWakeComplete ..
  | tld _ _ _ => exact .next (clock_seatRun _ _ (clock_tileMove ..))
  | tst _ _ _ => exact .next (clock_seatRun _ _ (clock_tileMove ..))
  | trel _ _ _ _ => exact .next (clock_seatRun _ _ (clock_trel ..))
  | tgrp _ _ _ _ => exact .next (clock_seatRun _ _ (clock_tgrp ..))
  | tmma _ _ _ => exact .next (clock_seatRun _ _ (clock_mma ..))
  | tmmaZ _ _ _ => exact .next (clock_seatRun _ _ (clock_mma ..))
  | tcvt _ _ => exact .next (clock_seatRun _ _ (clock_tcvt ..))
  | agreementSamplePass _ => exact .next (clock_samplePass ..)
  | interruptTaken _ => exact .next (clock_takeInterrupt ..)
  | interruptPendingSet _ _ _ => exact .next (clock_pendInt ..)
  | coachResetReload _ => exact .next (clock_coachReload ..)
  | drainRequest _ _ => exact .next (clock_drainRequest ..)
  | drainTimeout _ => exact keepsClock_execDrainTimeout ..
  | coachSubstitution _ => exact .next (clock_substitution ..)
  | coachSelfTest _ => exact .next (clock_selfTest ..)
  | l1FillComplete _ _ => exact keepsClock_execL1FillComplete ..
  | writeBufferDrain _ => exact .next (clock_drainOldest ..)
  | writeBufferTimeout _ => exact keepsClock_execWriteBufferTimeout ..
  | prefetchIssue _ _ => exact keepsClock_execPrefetchIssue ..
  | llcAccess _ _ => exact keepsClock_execLlcAccess ..
  | llcMissFill _ => exact keepsClock_execLlcMissFill ..
  | memoryRead _ _ => exact keepsClock_execMemoryRead ..
  | memoryWrite _ _ _ _ => exact keepsClock_execMemoryWrite ..
  | correctedWriteback _ => exact keepsClock_execCorrectedWriteback ..
  | narrowRequestIssue _ _ => exact keepsClock_execNarrowRequestIssue ..
  | writeQueueBatchDrain _ => exact .next (clock_drainPc ..)
  | scrubRead _ _ => exact keepsClock_execScrubRead ..
  | rowRetire _ _ => exact keepsClock_execRowRetire ..
  | rowRetireComplete _ => exact keepsClock_execRowRetireComplete ..
  | pseudoChannelRetire _ => exact .next (clock_retirePc ..)
  | refreshRateChange _ _ => exact keepsClock_execRefreshRateChange ..
  | channelRetrainStart _ _ => exact keepsClock_execChannelRetrainStart ..
  | retrainWindow _ => exact keepsClock_execRetrainWindow ..
  | moverTailWrite _ _ => exact .next (clock_moverTail ..)
  | moverQueueConfigWrite _ _ _ => exact .next (clock_moverConfig ..)
  | moverStoppedClear _ => exact keepsClock_execMoverStoppedClear ..
  | moverDescriptorStart _ => exact .next (clock_moverStart ..)
  | moverCopy _ _ => exact .next (clock_moverTransfer ..)
  | moverGather _ _ => exact .next (clock_moverTransfer ..)
  | moverScatter _ => exact .next (clock_moverTransfer ..)
  | moverTranspose _ => exact keepsClock_execMoverTranspose ..
  | moverConvert _ => exact keepsClock_execMoverConvert ..
  | moverTconvert _ => exact keepsClock_execMoverTconvert ..
  | tmap _ => exact keepsClock_execTmap ..
  | texch _ => exact keepsClock_execTexch ..
  | moverDescriptorComplete _ => exact .next (clock_moverComplete ..)
  | moverTransferChunk _ => exact keepsClock_execMoverTransferChunk ..
  | laserFailure _ _ => exact keepsClock_execLaserFailure ..
  | laserTakeoverComplete _ => exact keepsClock_execLaserTakeoverComplete ..
  | laserSeated _ _ => exact keepsClock_execLaserSeated ..
  | laserQualified _ _ _ => exact keepsClock_execLaserQualified ..
  | laserUnseated _ _ => exact keepsClock_execLaserUnseated ..
  | laneFailure _ _ => exact keepsClock_execLaneFailure ..
  | laneSubstitution _ => exact keepsClock_execLaneSubstitution ..
  | laneRetest _ _ _ => exact keepsClock_execLaneRetest ..
  | scaleoutPortDown _ => exact keepsClock_execScaleoutPortDown ..
  | scaleoutRetrain _ => exact keepsClock_execScaleoutRetrain ..
  | portBringUp _ _ => exact .next (clock_bringUp ..)
  | linkRetrain _ => exact .next (clock_retrainLink ..)
  | identityFrameReceive _ _ => exact keepsClock_execIdentityFrameReceive ..
  | couplingHeldTimeout _ => exact keepsClock_execCouplingHeldTimeout ..
  | missingPartnerTimeout _ => exact keepsClock_execMissingPartnerTimeout ..
  | darkPortLight _ => exact keepsClock_execDarkPortLight ..
  | lldpReceive _ _ _ => exact keepsClock_execLldpReceive ..
  | lldpTimeout _ => exact keepsClock_execLldpTimeout ..
  | lldpSend _ => exact keepsClock_execLldpSend ..
  | carriageFrameReceive _ _ _ _ => exact keepsClock_execCarriageFrameReceive ..
  | ackTimer _ => exact keepsClock_execAckTimer ..
  | ackReceive _ _ _ => exact .next (clock_ackFlow ..)
  | nackReceive _ _ => exact .next (clock_resend ..)
  | retransmissionTimeout _ _ => exact .next (clock_resend ..)
  | frameSend _ => exact keepsClock_execFrameSend ..
  | rateControlInterval _ => exact keepsClock_execRateControlInterval ..
  | scaleoutFlowMove => exact keepsClock_execScaleoutFlowMove ..
  | udpDatagramReceive _ _ _ _ => exact keepsClock_execUdpDatagramReceive ..
  | remoteReadRequest _ _ => exact keepsClock_execRemoteReadRequest ..
  | remoteReadResponse _ _ _ => exact keepsClock_execRemoteReadResponse ..
  | remoteWrite _ _ => exact keepsClock_execRemoteWrite ..
  | remoteAccessUnreachable _ => exact .next (clock_remoteComplete ..)
  | couplingRelay _ => exact keepsClock_execCouplingRelay ..
  | collectiveTailWrite _ _ => exact .next ((clock_collLoad ..).trans (clock_collTail ..))
  | allReduce _ => exact .next (clock_collRun ..)
  | reduceScatter _ => exact .next (clock_collRun ..)
  | allGather _ => exact .next (clock_collRun ..)
  | allToAll _ => exact .next (clock_collRun ..)
  | reductionNode _ _ _ _ => exact .next (clock_reduceNode ..)
  | collectiveComplete _ => exact .next (clock_collComplete ..)
  | barrierConfigWrite _ _ => exact .next (clock_configWrite ..)
  | semaphoreValueWrite _ _ => exact .next (clock_semSet ..)
  | semaphoreArmWrite _ _ _ => exact .next (clock_armWrite ..)
  | microFlitReceive _ _ _ => exact keepsClock_execMicroFlitReceive ..
  | microFlitRepeat _ => exact keepsClock_execMicroFlitRepeat ..
  | phaseComplete _ => exact keepsClock_execPhaseComplete ..
  | stepContribution _ => exact keepsClock_execStepContribution ..
  | endOfStepResult _ _ _ => exact .next (clock_endOfStep ..)
  | commitBarrierComplete => exact .next (clock_barrierDone ..)
  | commitResult => exact keepsClock_execCommitResult ..
  | skipResult => exact keepsClock_execSkipResult ..
  | haltedResult => exact keepsClock_execHaltedResult ..
  | immediateStop _ _ => exact .next (clock_raiseStop ..)
  | haltNAssert => exact keepsClock_execHaltNAssert ..
  | haltStopNow _ => exact .next (clock_haltWrite ..)
  | haltSchedule _ => exact .next (clock_haltWrite ..)
  | haltStore _ => exact .next (clock_haltWrite ..)
  | scheduledStopTime => exact keepsClock_execScheduledStopTime ..
  | tenderBlockArrival _ _ _ _ _ => exact keepsClock_execTenderBlockArrival ..
  | tenderBlockApply => exact .next (clock_applyFront ..)
  | drainStallResume => exact .next (clock_drainResume ..)
  | compatPass1 => exact .next (clock_compatFront ..)
  | compatPartialReceive _ _ _ _ => exact keepsClock_execCompatPartialReceive ..
  | compatPass2 _ => exact .next (clock_pass2 ..)
  | tenderDone => exact .next (clock_tenderDoneNow ..)
  | tenderInstallApply => exact .next (clock_tenderInstallApply ..)
  | waybillEntryBuild => exact .next (clock_entryBuild ..)
  | waybillMirrorReceive _ => exact keepsClock_execWaybillMirrorReceive ..
  | waybillMirrorAck => exact .next (clock_mirrorAck ..)
  | mirrorTimeout => exact .next (clock_mirrorTimeout ..)
  | flashMirrorWriteComplete => exact .next (clock_flashWritten ..)
  | waybillVoid => exact .next (clock_entryVoid ..)
  | readyWrite _ => exact .next (clock_readyWrite ..)
  | checkpointSaveComplete _ => exact .next (clock_saveComplete ..)
  | tier3Staged => exact .next (clock_tier3Staged ..)
  | replayStepCheck => exact .next (clock_replayCheck ..)
  | peerLost _ => exact keepsClock_execPeerLost ..
  | ledgerConfigWrite _ => exact .next (clock_ledgerConfig ..)
  | ledgerOpen _ => exact .next (clock_ledgerOpen ..)
  | ledgerFolded _ => exact .next (clock_ledgerFolded ..)
  | watchContributionStore _ _ _ => exact .next (clock_contribute ..)
  | stickyOvfClear _ => exact keepsClock_execStickyOvfClear ..
  | doorbellSqTail _ _ => exact .next (clock_doorbell ..)
  | doorbellCqHead _ _ => exact .next (clock_doorbell ..)
  | shadowLineReread _ => exact .next (clock_shadowReread ..)
  | ringEntryFetch _ => exact .next (clock_entryFetch ..)
  | ringEnableWrite _ _ => exact .next (clock_cfgWrite ..)
  | ringDisableWrite _ _ => exact .next (clock_cfgWrite ..)
  | ringDrained _ => exact keepsClock_execRingDrained ..
  | completionWrite _ => exact .next (clock_completionWrite ..)
  | eventPost => exact .next (clock_eventPost ..)
  | msixSignal _ => exact .next (clock_msixSignal ..)
  | msixUnmask _ => exact keepsClock_execMsixUnmask ..
  | cmdNop _ _ => exact keepsClock_execCmdNop ..
  | cmdMover _ _ => exact .next (clock_startCmd s _ _ _ (clock_cmdMover _))
  | cmdCollective _ _ => exact .next (clock_startCmd s _ _ _ (clock_cmdCollective _))
  | cmdRunStart _ _ => exact .next (clock_startCmd s _ _ _ (clock_cmdRunStart _))
  | cmdStep _ _ => exact .next (clock_startCmd s _ _ _ (clock_cmdStep _))
  | cmdStopRequest _ _ => exact .next (clock_startCmd s _ _ _ (clock_cmdStopRequest _))
  | cmdResume _ _ => exact keepsClock_execCmdResume ..
  | cmdRestore _ _ => exact keepsClock_execCmdRestore ..
  | cmdMtbf _ _ => exact .next (clock_startCmd s _ _ _ (clock_acceptCmd _))
  | cmdTier3Release _ _ => exact .next (clock_startCmd s _ _ _ (clock_cmdTier3Release _))
  | cmdTenderInstall _ _ => exact .next (clock_startCmd s _ _ _ (clock_cmdTenderInstall _))
  | cmdTenderRate _ _ => exact .next (clock_startCmd s _ _ _ (clock_cmdTenderRate _))
  | cmdPace _ _ => exact .next (clock_startCmd s _ _ _ (clock_cmdPace _))
  | cmdPageClass _ _ => exact .next (clock_startCmd s _ _ _ (clock_cmdPageClass _))
  | cmdMemStatus _ _ => exact .next (clock_startCmd s _ _ _ (clock_cmdMemStatus _))
  | cmdPortStatus _ _ => exact .next (clock_startCmd s _ _ _ (clock_cmdPortStatus _))
  | cmdOpenFlow _ _ => exact .next (clock_startCmd s _ _ _ (clock_cmdOpenFlow _))
  | cmdCloseFlow _ _ => exact .next (clock_startCmd s _ _ _ (clock_cmdCloseFlow _))
  | cmdSeatInt _ _ => exact .next (clock_startCmd s _ _ _ (clock_cmdSeatInt _))
  | cmdTimeOfDay r idx => exact absurd rfl (hring r idx)
  | ppsEdge => exact keepsClock_execPpsEdge (hedge rfl)
  | ppsLossHoldover => exact keepsClock_execPpsLossHoldover ..
  | holdoverAlarm => exact keepsClock_execHoldoverAlarm ..
  | timeOfDayTimeout => exact keepsClock_execTimeOfDayTimeout ..
  | ppsOutPulse => exact keepsClock_execPpsOutPulse ..
  | ppsSourceMissing => exact keepsClock_execPpsSourceMissing ..
  | epochAlarmWrite _ _ => exact .next (clock_alarmWrite ..)
  | epochAlarmFire _ => exact keepsClock_execEpochAlarmFire ..
  | governorTick _ => exact keepsClock_execGovernorTick ..
  | tdpLimit _ _ _ => exact keepsClock_execTdpLimit ..
  | paceChange => exact keepsClock_execPaceChange ..
  | paceChangeComplete => exact keepsClock_execPaceChangeComplete ..
  | paceMeterSample => exact keepsClock_execPaceMeterSample ..
  | pwrRampWrite _ => exact .next (clock_rampWrite ..)
  | rampTimeReached => exact keepsClock_execRampTimeReached ..
  | coolantSample _ _ => exact keepsClock_execCoolantSample ..
  | coolDemUpdate => exact keepsClock_execCoolDemUpdate ..
  | supplyTrip _ => exact keepsClock_execSupplyTrip ..
  | thermalTrip _ _ => exact keepsClock_execThermalTrip ..
  | leakDetect => exact keepsClock_execLeakDetect ..
  | environmentFault _ _ => exact keepsClock_execEnvironmentFault ..
  | environmentFaultClear _ => exact keepsClock_execEnvironmentFaultClear ..
  | mgmtGo _ => exact keepsClock_execMgmtGo ..
  | mgmtResponseReady => exact keepsClock_execMgmtResponseReady ..
  | mgmtDoneClear => exact .next (clock_mgmtDoneClear ..)
  | mgmtMessageReceive _ _ => exact keepsClock_execMgmtMessageReceive ..
  | getIdentity _ => exact .next (clock_serve _ _ clock_cmdGetIdentity s)
  | attest _ => exact .next (clock_serve _ _ clock_cmdAttest s)
  | mgmtStatusCmd _ => exact .next (clock_serve _ _ clock_cmdStatus s)
  | paceReport _ => exact .next (clock_serve _ _ clock_cmdPaceReport s)
  | mgmtMemStatus _ => exact .next (clock_serve _ _ clock_cmdMgmtMem s)
  | mgmtPortStatus _ => exact .next (clock_serve _ _ clock_cmdMgmtPort s)
  | llcCounters _ => exact .next (clock_serve _ _ clock_cmdLlc s)
  | sessionOpen _ => exact .next (clock_serve _ _ clock_cmdSessionOpen s)
  | sessionProve _ => exact .next (clock_serve _ _ clock_cmdSessionProve s)
  | sessionClose _ => exact .next (clock_serve _ _ clock_cmdSessionClose s)
  | sessionIdleTimeout _ => exact keepsClock_execSessionIdleTimeout ..
  | pathLockoutExpiry _ => exact keepsClock_execPathLockoutExpiry ..
  | credSet _ => exact .next (clock_serve _ _ clock_cmdCredSet s)
  | consistKeySet _ => exact .next (clock_serve _ _ clock_cmdKeySet s)
  | consistLoad _ => exact .next (clock_serve _ _ clock_cmdConsistLoad s)
  | consistApply _ => exact .next (clock_serve _ _ clock_cmdConsistApply s)
  | consistTakeEffect => exact .next (clock_consistRun ..)
  | consistConfirm _ => exact .next (clock_serve _ _ clock_cmdConsistConfirm s)
  | probationExpiry => exact keepsClock_execProbationExpiry ..
  | probationFailure _ => exact .next (clock_probFail ..)
  | noCommitTimeout => exact keepsClock_execNoCommitTimeout ..
  | consistRevert _ => exact .next (clock_serve _ _ clock_cmdConsistRevert s)
  | consistFactory _ => exact .next (clock_serve _ _ (fun k b t => clock_acceptChange k 2 b t) s)
  | fwLoad _ => exact .next (clock_serve _ _ clock_cmdFwLoad s)
  | fwActivate _ => exact .next (clock_serve _ _ clock_activate s)
  | microcodeCoachMove _ => exact .next (clock_microcodeMove ..)
  | fwSelfTestRevert _ => exact keepsClock_execFwSelfTestRevert ..
  | fwRevert _ => exact .next (clock_serve _ _ clock_activate s)
  | fwCommit _ => exact .next (clock_serve _ _ clock_cmdFwCommit s)
  | laserRetire _ => exact .next (clock_serve _ _ clock_cmdLaserRetire s)
  | retrain _ => exact .next (clock_serve _ _ clock_cmdRetrain s)
  | recalibrate _ => exact .next (clock_serve _ _ clock_cmdRecalibrate s)
  | sensorRecalTimer => exact keepsClock_execSensorRecalTimer ..
  | retrim _ => exact .next (clock_serve _ _ clock_cmdRetrim s)
  | retrimTimer => exact keepsClock_execRetrimTimer ..
  | substitute _ => exact .next (clock_serve _ _ clock_cmdSubstitute s)
  | mgmtTimeOfDay path => exact absurd rfl (hmgmt path)
  | powerOnCmd _ => exact .next (clock_serve _ _ clock_cmdPowerOn s)
  | flashBlockRetire _ => exact .next (clock_flashRetire ..)
  | registerWrite _ _ _ _ => exact .next (clock_registerWrite ..)
  | leakClear => exact keepsClock_execLeakClear ..
  | ppsOutPulseEnd => exact keepsClock_execPpsOutPulseEnd ..
  | halfReadLatch _ _ _ => exact keepsClock_execHalfReadLatch ..
  | spdmIdeKeyExchange _ => exact keepsClock_execSpdmIdeKeyExchange ..
  | pausePfcFrameReceive _ => exact keepsClock_execPausePfcFrameReceive ..
  | pseudoChannelMoveComplete _ => exact keepsClock_execPseudoChannelMoveComplete ..
  | fwActivationComplete _ => exact keepsClock_execFwActivationComplete ..
  | sensorCalibrationComplete => exact keepsClock_execSensorCalibrationComplete ..

end Sys2Proof.Machine
end

section
/-! Epoch time never steps backwards (R541): a setting moves the count forwards, and so does a tick short of the wrap. -/

namespace Sys2Proof.Machine

theorem ns_eq_of_clock {s t : State} (h : clock t = clock s) : t.time.ns = s.time.ns := congrArg Prod.fst h

theorem ns_le_of_clock {s u t : State} (h : clock u = clock s) (hle : u.time.ns ≤ t.time.ns) : s.time.ns ≤ t.time.ns :=
  ns_eq_of_clock h ▸ hle

theorem KeepsClock.ns_eq {s t : State} {r : Result} (hk : KeepsClock s r) (h : r = .next t) : t.time.ns = s.time.ns := by
  subst h
  exact ns_eq_of_clock ((keepsClock_next s t).mp hk)

/-- R550: a first setting and a step are accepted only forwards. -/
theorem le_of_todStatus {s : State} {t : Nat} {jump : Bool} (hok : (todStatus s t jump).1 = 0) (hset : s.time.state = 0 ∨ jump = true) :
    s.time.ns ≤ t := by
  simp only [todStatus] at hok
  split at hok
  · dsimp only at hok
    split at hok <;> omega
  next hstate =>
    have hjump : jump = true := hset.resolve_left hstate
    subst hjump
    split at hok
    · cases hok
    · simp only [Bool.not_true, Bool.false_eq_true, if_false] at hok
      split at hok
      · cases hok
      · omega

theorem ns_le_todApply (s : State) (t : Nat) (jump : Bool) : s.time.ns ≤ (todApply s t jump).time.ns := by
  unfold todApply
  dsimp only
  split
  · exact Nat.le_refl _
  next hok =>
    have hok : (todStatus s t jump).1 = 0 := by simpa using hok
    rw [updTime_time]
    split
    next hstate => exact le_of_todStatus hok (.inl hstate)
    next =>
      split
      next hjump => exact le_of_todStatus hok (.inr hjump)
      next => split <;> exact Nat.le_refl _

theorem ns_le_todDue (s : State) : s.time.ns ≤ (todDue s).time.ns := by
  unfold todDue
  split
  · exact Nat.le_refl _
  next d earlier _ =>
    dsimp only
    rw [ns_eq_of_clock (clock_todAnswer ..)]
    exact ns_le_of_clock (by simp) (ns_le_todApply _ d.t d.step)

theorem ns_le_todAccept (s : State) (ring : Option (Nat × BitVec 32)) (ask : Option Ticket) (t flags : Nat) :
    s.time.ns ≤ (todAccept s ring ask t flags).time.ns := by
  unfold todAccept
  dsimp only
  split
  · exact ns_le_of_clock (clock_todAnswer ..) (Nat.le_refl _)
  · split
    · exact ns_le_of_clock (clock_todAnswer ..) (Nat.le_refl _)
    · split
      · exact Nat.le_refl _
      · exact ns_le_of_clock (by simp) (ns_le_todDue _)

/-- R541: a command that goes on leaves a count no smaller. -/
def Forward (s : State) (r : Result) : Prop := ∀ t, r = .next t → s.time.ns ≤ t.time.ns

theorem forward_next {s t : State} (h : s.time.ns ≤ t.time.ns) : Forward s (.next t) := fun _ ht => Host.Outcome.next.inj ht ▸ h

theorem KeepsClock.forward {s : State} {r : Result} (h : KeepsClock s r) : Forward s r := fun _ ht => Nat.le_of_eq (h.ns_eq ht).symm

theorem ns_le_acceptEdge (s : State) (forced : Bool) : s.time.ns ≤ (acceptEdge s forced).time.ns := by
  rw [ns_eq_of_clock (clock_acceptEdge s forced)]
  exact ns_le_todDue s

theorem forward_execPpsEdge (s : State) : Forward s (execPpsEdge s) := by
  refine forward_next ?_
  split
  · exact Nat.le_refl _
  · split
    · exact ns_le_acceptEdge s false
    · refine ns_le_of_clock (clock_bump s .timeWindow 1) ?_
      dsimp only
      split
      · exact ns_le_acceptEdge _ true
      · exact Nat.le_refl _

theorem forward_execMgmtTimeOfDay (path : Path) (s : State) : Forward s (execMgmtTimeOfDay path s) := by
  refine forward_next ?_
  obtain h | ⟨k, b, t, ht, h⟩ := serve_cases path 0x55 cmdMgmtTime s
  · exact ns_le_of_clock (congrArg clock h) (Nat.le_refl _)
  · rw [h]
    exact ns_le_of_clock ht (ns_le_todAccept t ..)

theorem forward_execCmdTimeOfDay (r : RingNo) (idx : Word32) (s : State) : Forward s (execCmdTimeOfDay r idx s) := by
  refine forward_next ?_
  obtain h | ⟨c, t, ht, h⟩ := startCmd_cases s r idx 0x35 (cmdTimeOfDay r)
  · exact ns_le_of_clock h (Nat.le_refl _)
  · rw [h]
    exact ns_le_of_clock ht (ns_le_todAccept t ..)

theorem forward_exec {c : Instr} (hpower : c ≠ .powerOn) (s : State) : Forward s (exec c s) := by
  by_cases hedge : c = .ppsEdge
  · subst hedge
    exact forward_execPpsEdge s
  by_cases hmgmt : ∃ p, c = .mgmtTimeOfDay p
  · obtain ⟨p, rfl⟩ := hmgmt
    exact forward_execMgmtTimeOfDay p s
  by_cases hring : ∃ r idx, c = .cmdTimeOfDay r idx
  · obtain ⟨r, idx, rfl⟩ := hring
    exact forward_execCmdTimeOfDay r idx s
  have hm : ∀ p, c ≠ .mgmtTimeOfDay p := fun p h => hmgmt ⟨p, h⟩
  have hr : ∀ r idx, c ≠ .cmdTimeOfDay r idx := fun r idx h => hring ⟨r, idx, h⟩
  exact (keepsClock_exec c s hm hr hpower fun h => absurd h hedge).forward

theorem slewTick_ns (t : Time) : (slewTick t).ns = t.ns := by
  unfold slewTick
  split <;> rfl

/-- R540: a tick moves the count on, short of its wrap. -/
theorem ns_le_tick {s : State} (hwrap : s.time.ns + (tickStep s.time + s.time.frac) / 2 ^ 32 < 2 ^ 64) :
    s.time.ns ≤ (tick s).time.ns := by
  unfold tick
  dsimp only
  rw [updTime_time, slewTick_ns, Nat.mod_eq_of_lt hwrap]
  exact Nat.le_add_right _ _

theorem ns_le_step {s t : State} (hpower : s.pending.head? ≠ some .powerOn)
    (hwrap : s.time.ns + (tickStep s.time + s.time.frac) / 2 ^ 32 < 2 ^ 64) (h : step s = .next t) : s.time.ns ≤ t.time.ns := by
  unfold step at h
  split at h
  next =>
    obtain rfl := Host.Outcome.next.inj h
    exact ns_le_tick hwrap
  next c rest hq =>
    have hc : c ≠ .powerOn := by simpa [hq] using hpower
    exact forward_exec hc { s with pending := rest } t h

/-- Settles O59: every command that sets no time keeps the count and its fraction, and a setting, like a tick, moves the count forwards. -/
theorem epochNeverSteps : Obligations.EpochNeverSteps := by
  unfold Obligations.EpochNeverSteps
  refine ⟨fun s t hpower hwrap h => ns_le_step hpower hwrap h, fun c s t h hmgmt hring hpower hedge => ?_⟩
  have hk := keepsClock_exec c s hmgmt hring hpower hedge
  rw [h, keepsClock_next] at hk
  exact Prod.mk.inj hk

end Sys2Proof.Machine
end
